-- ==== Sys2Proof/Word.lean ====
section
/-!
DEFINITION. The words of the module: bytes and register words.
-/

namespace Sys2Proof

/-- One byte of a memory or of a flit. -/
abbrev Byte := BitVec 8

/-- One register (R4: every register is 32 bits wide). -/
abbrev Word := BitVec 32

/-- The address of a register in BAR0, 512 MiB (R520). -/
abbrev BarAddr := BitVec 29

end Sys2Proof
end

