-- ==== Sys2Proof/Syntax.lean ====
section
/-!
DEFINITION. The commands of the module: one constructor per row of spec/opcode_table.json, with the operands its rule
names. Where a rule depends on something physical outside the state (an upset, a measured value, the outcome of a
test), that is an operand of the command.
-/

namespace Sys2Proof

/-- A physical cluster: field die FD0 to FD16 and cluster CL0 to CL104 (R18). -/
structure Clu where
  die : Fin 17
  cl : Fin 105
  deriving DecidableEq, Repr

/-- A physical core C0 to C51 of a cluster (R18). -/
structure CoreId where
  clu : Clu
  core : Fin 52
  deriving DecidableEq, Repr

/-- A Relay link RL0 to RL63 (R13). -/
abbrev Link := Fin 64

/-- An HBM4E stack HS0 to HS31 (R12). -/
abbrev Stack := Fin 32

/-- A group number of the group table (R328). -/
abbrev Group := Fin 256

/-- A byte offset in a cluster pool of 4 MiB (R21). -/
abbrev PoolOff := BitVec 22

/-- A finding of the tests of the start hurdle, made physically: a column that mismatches, a Scout generator that fails its
known-answer test, a block of steward firmware that is uncorrectable, each with whether it fails in the repeat too (R355, R360, R361);
an HBM row to repair (R365). -/
inductive TestFail where
  | column (c : CoreId) (col : Fin 33) (last : Bool)
  | generator (c : Clu) (gen : BitVec 8) (last : Bool)
  | flash (last : Bool)
  | row (h : Stack) (chan : Fin 32) (row : Nat) (ok : Bool)
  deriving DecidableEq, Repr

/-- What a sequencer wait item waits for (R453): a landing window and byte count, or the index of a copy list or send. -/
inductive WaitArg where
  | landing (window : BitVec 8) (bytes : BitVec 64)
  | copyList (i : Nat)
  | send (i : Nat)
  deriving DecidableEq, Repr

/-- The fields of a vector instruction besides its operation (R454). -/
structure VInst where
  pred : Fin 8
  pneg : Bool
  dst : Fin 32
  sa : Fin 32
  sb : Fin 32
  sc : Fin 32
  imm : Word
  deriving DecidableEq, Repr

/-- What an update kernel is compiled for (R228, R230, R256): its element count, the index of its first element in the tensor and
the tensor's row length, the HBM places of the reduced gradients and of masters and moments in bank 0 and bank 1, the tensors its
stochastic writes name, and the pool buffers that copies fill and empty for it. -/
structure OptPlan where
  count : Nat
  first : Nat
  cols : Nat
  grad : BitVec 41
  p0 : BitVec 41
  p1 : BitVec 41
  m0 : BitVec 41
  m1 : BitVec 41
  v0 : BitVec 41
  v1 : BitVec 41
  tp : BitVec 16
  tm : BitVec 16
  tv : BitVec 16
  bufG : PoolOff
  bufP : PoolOff
  bufM : PoolOff
  bufV : PoolOff
  deriving DecidableEq, Repr

/-- The side of a copy on which a word or access is read: its source, its destination (a write that covers only part of a word
reads it first), its index list (R270, R288). -/
inductive CopySide where
  | src | dst | idx
  deriving DecidableEq, Repr

/-- What one read of a 64 B access of HBM shows: the symbols of its codeword that differ (place in the codeword, pattern), when it
is read and when an uncorrectable read is issued again (R287, R288). -/
structure HbmUpset where
  first : List (Fin 39 × BitVec 16)
  again : List (Fin 39 × BitVec 16)
  deriving DecidableEq, Repr

/-- One thing that memories and hops show while a copy descriptor runs (R270, R284): `off` counts the bytes from the side's place;
of an SRAM word one flipped bit or more, and whether the retry meets two or more as well; of a hop a CRC failure and whether its
retry fails; a hop into a cluster over the mesh, over a bridge of a field die, over the hub ring. -/
inductive CopyUpset where
  | sram (side : CopySide) (off : Nat) (double again : Bool)
  | hbm (side : CopySide) (off : Nat) (u : HbmUpset)
  | mesh (c : Clu) (again : Bool)
  | bridge (d : Fin 17) (again : Bool)
  | ring (again : Bool)
  deriving DecidableEq, Repr

/-- What a copy descriptor meets on its way, in order, and how many rows it has written when a lasting one stops it (R284). -/
structure CopyErr where
  upsets : List CopyUpset
  rows : Nat
  deriving DecidableEq, Repr

/-- A copy that meets nothing. -/
def CopyErr.none : CopyErr := { upsets := [], rows := 0 }

/-- What the reads of a transfer show, each with the byte offset of its 64 B access (R287, R288). -/
structure ReadErr where
  upsets : List (Nat × HbmUpset)
  deriving DecidableEq, Repr

/-- Reads that show nothing. -/
def ReadErr.none : ReadErr := { upsets := [] }

/-- A received frame: its 268 bytes as they arrive, byte errors included (R295). -/
structure Flit where
  frame : List Byte
  deriving DecidableEq, Repr

/-- The four stamps of a time exchange, in units of 1/256 ns (R320). -/
structure TimeExch where
  t1 : Nat
  t2 : Nat
  t3 : Nat
  t4 : Nat
  deriving DecidableEq, Repr

/-- What the exchanges of ALIGN bring: the peer's bib, link number and receive shares, and the stamps of the time exchanges
(R318 to R320). -/
structure AlignPeer where
  bib : BitVec 24
  link : BitVec 6
  batons : Word
  exch : List TimeExch
  deriving DecidableEq, Repr

/-- A power domain of the module (R23). -/
inductive Dom where
  | cluster (c : Clu)
  | mesh (d : Fin 17) | bridge (d : Fin 17) | dieCtl (d : Fin 17) | sram (d : Fin 17)
  | hbm (h : Stack) | link (l : Link)
  | fabric (q : Fin 4) | ring (q : Fin 4) | fieldPorts (q : Fin 4) | hubCtl (q : Fin 4)
  | pcie | stewards | judge
  deriving DecidableEq, Repr

/-- The state of a power domain (R432). -/
inductive DomState where
  | on | retention | off
  deriving DecidableEq, Repr

/-- A waiter of the synchronization trace: a cluster, or a number for the waiters R491 names besides clusters. -/
inductive Waiter where
  | cluster (c : Clu) (kind : Nat)
  | unit (n : Nat) (kind : Nat)
  deriving DecidableEq, Repr

/-- What bring-up finds physically (R571 to R574), each found twice: stewards, stacks, bridges of field dies, clusters with
a word of their pool that fails, remap copies that are not valid, a hub die or the hub ring, self-tests of the Judge; what
passed on its retry, as kind and unit; the bus in mV; the temperature of each stack at its interface training, by stack;
blocks of steward firmware that were uncorrectable, as slot and whether on reread too (R373). -/
structure BringUp where
  stewardFails : List (Fin 8)
  stackFails : List Stack
  dieFails : List (Fin 17)
  clusterFails : List Clu
  copyFails : List (Fin 2)
  ringFails : Bool
  testFails : List (Fin 2)
  retried : List (BitVec 4 × BitVec 24)
  mv : Nat
  temps : List Int := []
  flash : List (Fin 2 × Bool) := []
  /-- Copies of the Judge's key table that do not read back with their digest (R471); readouts of the PUF that do not reproduce
  the key check (R467); how often in a row the PUF health and the pairwise test fail (R480). -/
  keyFails : List (Fin 2) := []
  pufFails : Nat := 0
  healthFails : Nat := 0
  pairFails : Nat := 0
  /-- Cores with a word of a staging store or near store that fails twice (R573). -/
  coreFails : List CoreId := []
  deriving DecidableEq, Repr

/-- What a heat slot item starts (R244, R263): its phase, and whether a stage before this one rejected the heat. -/
structure HeatItem where
  phase : BitVec 4
  empty : Bool := false
  deriving DecidableEq, Repr

/-- A column that mismatches in a test of its core: in the repeat too, or in the first run only (R360). -/
structure ColFound where
  core : CoreId
  col : Fin 33
  last : Bool
  deriving DecidableEq, Repr

/-- A data object written to the DOE mailbox: vendor ID, type, body (R473). -/
structure DoeObj where
  vendor : Nat
  typ : Nat
  body : List Byte
  deriving DecidableEq, Repr

/-- What the test of a unit finds: the columns that mismatch, and whether all else passes (R360, R364). -/
structure UnitFound where
  cols : List ColFound := []
  passes : Bool
  deriving DecidableEq, Repr


/-- A command of the module: one constructor per row of the table of operations. -/
inductive Instr where
  /-- REGISTER_WRITE (R6): A write through an alias to a register field that has no behaviour of its own updates that field (or its staged buffer) per the access type. -/
  | registerWrite (a : BarAddr) (be : BitVec 4) (v : Word)
  /-- SEQUENCE_CLEAR (R529): A plain write to a register with SQ fields clears its status only when the written bits [31:24] equal the sequence number in effect. -/
  | sequenceClear (a : BarAddr) (v : Word)
  /-- UPD_STROBE (R527): A write of a mask to UPD_STROBE makes the staged buffers of every named update group take effect in every block. -/
  | updStrobe (m : Word)
  /-- GEN_CTR_READ (R237): A read of CLU_VEC_GEN_CTR_LO latches the lane's high counter bits and occupancy for the following reads. -/
  | genCtrRead (c : Clu)
  /-- PCR_TIME_READ (R438): A read of PCR_TIME_LO latches the integer high bits and the fraction of site time. -/
  | pcrTimeRead
  /-- PERF_COUNTER_READ (R487): A read of a performance counter's LO word latches its HI word. -/
  | perfCounterRead (a : BarAddr)
  /-- RETIRED_COL_NEXT_WRITE (R52): A write to retired_col_next sets, withdraws or refuses a pending column exclusion according to its value and spare_avail. -/
  | retiredColNextWrite (c : CoreId) (v : BitVec 6)
  /-- PASS (R58): A sequencer pass item checks its descriptor, statistics record and scale entry, then feeds its wavefronts through the array. -/
  | pass (c : CoreId) (off : PoolOff)
  /-- WAVEFRONT_COMMIT (R76): A wavefront's combined results pass the residue check and are added into the narrow slot row or sent to the wide path. -/
  | wavefrontCommit (c : CoreId) (q : Fin 4) (upset : List (Nat × Int))
  /-- RESIDUE_RETRY (R88): After a residue mismatch the feeder stops, failed wavefronts are refed, and the fault is judged transient or lasting. -/
  | residueRetry (c : CoreId) (q : Fin 4) (upset : List (Nat × Nat × Int)) (cols : List (Fin 33 × Bool))
  /-- PASS_COMPLETE (R82): At the end of a pass with last set every touched slot row is promoted and the finished records go to output conversion. -/
  | passComplete (c : CoreId) (q : Fin 4)
  /-- CLUSTER_EXC_MERGE (R95): A free cluster exception record takes the earliest valid core record. -/
  | clusterExcMerge (c : Clu)
  /-- EXC_RECORD_MERGE (R171): A free die or module exception record takes the earliest valid record of the level below and may raise its interrupt. -/
  | excRecordMerge (u : Option (Fin 17))
  /-- HURDLE (R84): A sequencer hurdle item stops the feed, drains, checks and adopts the delivered words, rebuilds the combiner and starts the new pass. -/
  | hurdle (c : Clu) (layer : BitVec 16)
  /-- OUTPUT_CONVERSION (R119): A core converts the finished wide records of a tensor into stored output bits once its scale is available. -/
  | outputConversion (c : CoreId) (tensor : BitVec 16) (dst : BitVec 64)
  /-- SCAN_MAXIMUM_MERGE (R137): The module-wide maximum of a scan tensor reaches the converting cores. -/
  | scanMaximumMerge (tensor : BitVec 16)
  /-- SCOUT_ESTIMATE_MERGE (R138): The merged Scout estimate and untrusted flag of a tensor reach the converting cores, or lookback is used. -/
  | scoutEstimateMerge (tensor : BitVec 16)
  /-- SATURATION_VERDICT (R142): The merged saturation total of a tensor's conversion is compared with its budget. -/
  | saturationVerdict (tensor : BitVec 16)
  /-- STATISTICS_MERGE (R169): Die records of a tensor are merged and sent to its home cluster to form the module summary. -/
  | statisticsMerge (tensor : BitVec 16)
  /-- START_HURDLE (R245): The lap boundary timer starts the lap: key check, generator reload, statistics clear, cut and tests. -/
  | startHurdle (tests : List TestFail)
  /-- HEAT_SLOT (R246): A heat slot item starts its heat at the latest of its instant, its inputs and the previous item. -/
  | heatSlot (c : Clu) (heat : HeatItem) (start len : BitVec 32)
  /-- FEED_DESCRIPTOR_TAKE (R243): The feed takes the heat descriptor once it is valid and at the sought position, and checks it. -/
  | feedDescriptorTake
  /-- REDUCTION_HURDLE (R339): After the last backward heat the reduction controller runs the step list of segment records. -/
  | reductionHurdle
  /-- SEGMENT_COMBINE (R336): Once every input of a segment is present, a tree node combines them in rank order and sends the result on. -/
  | segmentCombine (k : Fin 16)
  /-- REDUCTION_LATE (R337): A node's wait for an input beyond wait_us reports GRP_RED_LATE. -/
  | reductionLate (k : Fin 16) (input : Nat)
  /-- GATE_HURDLE (R251): A member reaching its gate hurdle votes in the second gate step of its pipeline group. -/
  | gateHurdle (c : Clu)
  /-- GATE_LIMIT (R251): At B plus limit_us a member not at its gate votes TIMEOUT and all its clusters are abandoned. -/
  | gateLimit
  /-- VERDICT (R252): The received verdict decides commit, replay or skip and arms the next lap boundary. -/
  | verdict
  /-- OPTIMIZER (R230): Update kernels apply the optimizer rule to each parameter element and write the other bank. -/
  | optimizer (c : Clu) (desc : PoolOff) (plan : OptPlan)
  /-- COMMIT (R257): When the optimizer finishes, the bank flips, lambda and pi advance, histories and adaptation are written and the governor evaluates. -/
  | commit
  /-- CLUSTER_MIRROR_COPY (R358): At the end of refresh each cluster copies its governor area, scale table and scout table to its HBM mirror. -/
  | clusterMirrorCopy (c : Clu)
  /-- KERNEL (R213): A sequencer kernel item runs a sequence of vector instructions to completion. -/
  | kernel (c : Clu) (off : PoolOff) (count budget : Nat)
  /-- END_OF_LAP (R453): A sequencer end-of-lap item ends the cluster's schedule for the lap. -/
  | endOfLap (c : Clu)
  /-- WAIT_ITEM (R311): A sequencer wait item holds until a landing count, copy list or send completes. -/
  | waitItem (c : Clu) (w : WaitArg)
  /-- CLU_SEQ_RESUME (R262): A resume write repeats the failed check of a stopped cluster and continues or stops again. -/
  | cluSeqResume (c : Clu)
  /-- CLU_SEQ_ABANDON (R262): An abandon write ends the cluster's part of the lap and sets STOPPED in the vote. -/
  | cluSeqAbandon (c : Clu)
  /-- GENERATOR_PREFETCH (R220): A lane generator with room in its queue computes the next draw. -/
  | generatorPrefetch (c : Clu) (lane : Fin 64)
  /-- VEC_ADD (R215): FP32 add in every predicated lane. -/
  | vecAdd (c : Clu) (v : VInst)
  /-- VEC_SUB (R215): FP32 subtract in every predicated lane. -/
  | vecSub (c : Clu) (v : VInst)
  /-- VEC_MUL (R215): FP32 multiply in every predicated lane. -/
  | vecMul (c : Clu) (v : VInst)
  /-- VEC_FMA (R215): FP32 fused multiply-add with one rounding. -/
  | vecFma (c : Clu) (v : VInst)
  /-- VEC_MOVE_IMMEDIATE (R455): Moves the immediate into every lane. -/
  | vecMoveImmediate (c : Clu) (v : VInst)
  /-- VEC_MIN (R215): FP32 minimum, NaN-propagating, with -0 below +0. -/
  | vecMin (c : Clu) (v : VInst)
  /-- VEC_MAX (R215): FP32 maximum, NaN-propagating, with -0 below +0. -/
  | vecMax (c : Clu) (v : VInst)
  /-- VEC_ABS (R214): FP32 absolute value. -/
  | vecAbs (c : Clu) (v : VInst)
  /-- VEC_NEG (R214): FP32 negation. -/
  | vecNeg (c : Clu) (v : VInst)
  /-- VEC_COPYSIGN (R214): FP32 copysign. -/
  | vecCopysign (c : Clu) (v : VInst)
  /-- VEC_COMPARE (R456): FP32 compare writes the selected relation to a predicate register. -/
  | vecCompare (c : Clu) (v : VInst)
  /-- VEC_SELECT (R214): Selects between operands per lane. -/
  | vecSelect (c : Clu) (v : VInst)
  /-- VEC_DIV (R216): Correctly rounded FP32 division. -/
  | vecDiv (c : Clu) (v : VInst)
  /-- VEC_SQRT (R216): Correctly rounded FP32 square root. -/
  | vecSqrt (c : Clu) (v : VInst)
  /-- VEC_RCP (R216): FP32 reciprocal within one ulp. -/
  | vecRcp (c : Clu) (v : VInst)
  /-- VEC_RSQRT (R216): FP32 reciprocal square root within one ulp. -/
  | vecRsqrt (c : Clu) (v : VInst)
  /-- VEC_EXP2 (R216): FP32 base-2 exponential. -/
  | vecExp2 (c : Clu) (v : VInst)
  /-- VEC_LOG2 (R216): FP32 base-2 logarithm. -/
  | vecLog2 (c : Clu) (v : VInst)
  /-- VEC_EXP (R216): FP32 natural exponential. -/
  | vecExp (c : Clu) (v : VInst)
  /-- VEC_LN (R216): FP32 natural logarithm. -/
  | vecLn (c : Clu) (v : VInst)
  /-- VEC_TANH (R216): FP32 hyperbolic tangent. -/
  | vecTanh (c : Clu) (v : VInst)
  /-- VEC_SIGMOID (R216): FP32 logistic sigmoid. -/
  | vecSigmoid (c : Clu) (v : VInst)
  /-- INT_ADD (R455): 32-bit integer add. -/
  | intAdd (c : Clu) (v : VInst)
  /-- INT_SUB (R455): 32-bit integer subtract. -/
  | intSub (c : Clu) (v : VInst)
  /-- INT_MUL_LOW (R455): 32-bit integer multiply, low half. -/
  | intMulLow (c : Clu) (v : VInst)
  /-- INT_AND (R455): Bitwise and. -/
  | intAnd (c : Clu) (v : VInst)
  /-- INT_OR (R455): Bitwise or. -/
  | intOr (c : Clu) (v : VInst)
  /-- INT_XOR (R455): Bitwise exclusive or. -/
  | intXor (c : Clu) (v : VInst)
  /-- INT_SHL (R455): Shift left. -/
  | intShl (c : Clu) (v : VInst)
  /-- INT_SHR (R455): Logical shift right. -/
  | intShr (c : Clu) (v : VInst)
  /-- INT_SAR (R455): Arithmetic shift right. -/
  | intSar (c : Clu) (v : VInst)
  /-- INT_POPCOUNT (R455): Population count. -/
  | intPopcount (c : Clu) (v : VInst)
  /-- INT_COMPARE (R456): Integer compare writes the selected relation to a predicate register. -/
  | intCompare (c : Clu) (v : VInst)
  /-- VEC_DRAW (R220): Takes the oldest queued draw from the lane's generator. -/
  | vecDraw (c : Clu) (v : VInst)
  /-- VEC_POSITION (R235): Returns each token's 20-bit position from the heat descriptor. -/
  | vecPosition (c : Clu) (v : VInst)
  /-- VEC_CONVERT (R217): Converts between FP32 and a stored format, with statistics for a named tensor. -/
  | vecConvert (c : Clu) (v : VInst)
  /-- VEC_LOAD (R213): Loads one register from the cluster pool. -/
  | vecLoad (c : Clu) (v : VInst)
  /-- VEC_STORE (R213): Stores one register to the cluster pool. -/
  | vecStore (c : Clu) (v : VInst)
  /-- VEC_GATHER (R234): Reads 64 independent pool words, ending the kernel on an out-of-range address. -/
  | vecGather (c : Clu) (v : VInst)
  /-- VEC_SCATTER (R234): Writes 64 independent pool words, highest lane winning on collisions. -/
  | vecScatter (c : Clu) (v : VInst)
  /-- VEC_SHUFFLE (R233): Each lane takes the operand of the lane its index names. -/
  | vecShuffle (c : Clu) (v : VInst)
  /-- VEC_TREE_REDUCTION (R233): Six-level fixed-order reduction by add, max or min. -/
  | vecTreeReduction (c : Clu) (v : VInst)
  /-- VEC_SCAN (R233): Inclusive add scan over the fixed tree. -/
  | vecScan (c : Clu) (v : VInst)
  /-- VEC_SORT (R233): Stable sort of 64 keys with their lane indices. -/
  | vecSort (c : Clu) (v : VInst)
  /-- PRED_AND (R455): Predicate and. -/
  | predAnd (c : Clu) (v : VInst)
  /-- PRED_OR (R455): Predicate or. -/
  | predOr (c : Clu) (v : VInst)
  /-- PRED_NOT (R455): Predicate not. -/
  | predNot (c : Clu) (v : VInst)
  /-- VEC_JUMP (R455): Jumps by a signed instruction offset. -/
  | vecJump (c : Clu) (v : VInst)
  /-- BRANCH_ANY (R455): Branches when any lane of the predicate is 1. -/
  | branchAny (c : Clu) (v : VInst)
  /-- BRANCH_NONE (R455): Branches when no lane of the predicate is 1. -/
  | branchNone (c : Clu) (v : VInst)
  /-- END_OF_KERNEL (R455): Ends the kernel. -/
  | endOfKernel (c : Clu) (v : VInst)
  /-- VEC_RESERVED_OPCODE (R238): A reserved opcode ends the kernel before it and stops the cluster before its next pass. -/
  | vecReservedOpcode (c : Clu) (opc : BitVec 8)
  /-- SCT_CALL (R209): A write to SCT_CALL submits a direct Scout call, dropped when the queue is full. -/
  | sctCall (c : Clu) (desc : BitVec 16)
  /-- SCOUT_CALL_ITEM (R453): A sequencer Scout call item submits a call descriptor. -/
  | scoutCallItem (c : Clu) (off : PoolOff)
  /-- SCOUT_ESTIMATE (R202): An estimate call writes the estimate of each sampled output. -/
  | scoutEstimate (c : Clu)
  /-- SCOUT_TOP_K (R202): A top-k call writes the k largest estimates of each row. -/
  | scoutTopK (c : Clu)
  /-- SCOUT_THRESHOLD (R202): A threshold call writes a bitmap of estimates at or above the threshold. -/
  | scoutThreshold (c : Clu)
  /-- SCOUT_RANGE (R203): A range call estimates the maximum magnitude of a tensor for its scale. -/
  | scoutRange (c : Clu)
  /-- SCOUT_CALL_DONE (R203): A Scout call completes; a range call's result enters the scale merge. -/
  | scoutCallDone (c : Clu)
  /-- CPY_SUBMIT (R271): A write to CPY_SUBMIT queues a copy list or drops it when the queue is full. -/
  | cpySubmit (c : Clu) (list : BitVec 16)
  /-- COPY_LIST_ITEM (R271): A sequencer copy list item submits a list, waiting for a free queue slot. -/
  | copyListItem (c : Clu) (list : BitVec 16)
  /-- COPY_LINEAR (R273): A linear copy descriptor moves rows packed end to end. -/
  | copyLinear (c : Clu) (err : CopyErr)
  /-- COPY_STRIDED (R273): A strided copy descriptor moves rows at source and destination strides. -/
  | copyStrided (c : Clu) (err : CopyErr)
  /-- COPY_TRANSPOSE (R277): A transpose descriptor moves element (r,c) to (c,r). -/
  | copyTranspose (c : Clu) (err : CopyErr)
  /-- COPY_GATHER (R278): A gather descriptor reads source rows named by an index list. -/
  | copyGather (c : Clu) (err : CopyErr)
  /-- COPY_SCATTER (R278): A scatter descriptor writes rows to destinations named by an index list. -/
  | copyScatter (c : Clu) (err : CopyErr)
  /-- COPY_FILL (R273): A fill descriptor writes the fill pattern to every destination element. -/
  | copyFill (c : Clu) (err : CopyErr)
  /-- CPY_RESUME (R285): A resume write reruns a stopped copy descriptor from its first element. -/
  | cpyResume (c : Clu)
  /-- HBM_REFRESH (R286): Per-bank refresh runs at the interval the stack temperature prescribes. -/
  | hbmRefresh (h : Stack) (chan : Fin 32) (bank : Nat)
  /-- HBM_RECAL_DUE (R289): A channel whose interval has elapsed is recalibrated. -/
  | hbmRecalDue (h : Stack) (chan : Fin 32) (temp : Int) (fails : Nat)
  /-- HBM_TEMP_RECAL (R289): A 5 degree temperature move since the last recalibration triggers one. -/
  | hbmTempRecal (h : Stack) (chan : Fin 32) (temp : Int) (fails : Nat)
  /-- RECAL_NOW (R289): A recal_now write recalibrates the named channel. -/
  | recalNow (h : Stack) (temp : Int) (fails : Nat)
  /-- RLY_SEND (R308): A write to RLY_SEND submits a send descriptor or drops it when the queue is full. -/
  | rlySend (c : Clu) (desc : BitVec 16)
  /-- SEND_ITEM (R308): A sequencer send item submits a send descriptor, waiting for a free slot. -/
  | sendItem (c : Clu) (off : PoolOff)
  /-- SEND_START (R309): A send at the head of its queue is checked and its data cut into packets. -/
  | sendStart (c : Clu)
  /-- SEND_COMPLETE (R309): A send completes when its last flit is acknowledged on the first hop. -/
  | sendComplete (c : Clu)
  /-- IDLE_FLIT (R297): A received idle flit delivers its acknowledgement and batons. -/
  | idleFlit (l : Link) (f : Flit)
  /-- HEAD_FLIT (R305): A received head flit is forwarded or delivered to its destination by its route pointer. -/
  | headFlit (l : Link) (f : Flit)
  /-- BODY_FLIT (R305): A received body flit continues its packet. -/
  | bodyFlit (l : Link) (f : Flit)
  /-- NAK_FLIT (R299): A received nak makes the sender replay from the named flit. -/
  | nakFlit (l : Link) (f : Flit)
  /-- BATON_FLIT (R301): A received baton flit returns credit to the sender. -/
  | batonFlit (l : Link) (f : Flit)
  /-- TIME_FLIT (R320): A received time message is stamped and answered or completes an exchange. -/
  | timeFlit (l : Link) (f : Flit)
  /-- HEARTBEAT_FLIT (R322): A received heartbeat resets the missed count or suspends it for Blocks. -/
  | heartbeatFlit (l : Link) (f : Flit)
  /-- FREEZE_FLIT (R321): A freeze flit with an unseen id freezes the module and is forwarded. -/
  | freezeFlit (l : Link) (f : Flit)
  /-- SWAP_FLIT (R314): A received swap flit schedules a lane switch and is answered or followed at once. -/
  | swapFlit (l : Link) (f : Flit)
  /-- SWAP_ACK_FLIT (R314): A received swap-ack confirms the planned lane switch. -/
  | swapAckFlit (l : Link) (f : Flit)
  /-- REPLAY_TIMEOUT (R299): Flits unacknowledged for 4 us are replayed from the oldest. -/
  | replayTimeout (l : Link)
  /-- SWAP_ACK_TIMEOUT (R314): A swap without a swap-ack after 1 us is abandoned and requested again or fails. -/
  | swapAckTimeout (l : Link)
  /-- LANE_SWITCH_FRAME (R314): At the switch frame both sides change striping to the new lanes. -/
  | laneSwitchFrame (l : Link) (rx : Bool)
  /-- LANE_LOCK_LOSS (R315): A receiver losing lock on a lane requests an emergency swap. -/
  | laneLockLoss (l : Link) (lane : Fin 5)
  /-- LANE_RETRAIN_DONE (R314): A swapped-out lane finishes retraining and becomes the spare or is quarantined. -/
  | laneRetrainDone (l : Link) (rx : Bool) (ok : Bool)
  /-- LANE_RETRAIN_DUE (R316): Every retrain_s seconds an active lane is taken out and retrained. -/
  | laneRetrainDue (l : Link)
  /-- SWAP_NOW (R316): A swap_now write takes the named transmit lane out at once. -/
  | swapNow (l : Link)
  /-- LINK_RETIRE (R317): A retire write retires the link as a lasting fault. -/
  | linkRetire (l : Link)
  /-- LINK_ENABLE (R318): Writing enable moves a link from DOWN to TRAIN, or back to DOWN when cleared. -/
  | linkEnable (l : Link) (en : Bool)
  /-- PEER_SIGNAL_DETECT (R318): Detection of the peer's training signal starts a training attempt. -/
  | peerSignalDetect (l : Link)
  /-- TRAIN_ATTEMPT_END (R318): A training attempt ends and the link goes to ALIGN or waits to retry. -/
  | trainAttemptEnd (l : Link) (txGood rxGood : List (Fin 5))
  /-- TRAIN_RETRY (R318): 100 ms after a failed attempt training is retried, and a second failure retires the link. -/
  | trainRetry (l : Link)
  /-- ALIGN_DONE (R319): ALIGN completes its bib, baton and time exchanges and the link enters UP or stays on a mismatch. -/
  | alignDone (l : Link) (peer : AlignPeer)
  /-- TIME_EXCHANGE_DUE (R320): Every time_ms an UP link runs a time exchange. -/
  | timeExchangeDue (l : Link)
  /-- HEARTBEAT_SEND (R322): Every hb_us each UP link sends a heartbeat. -/
  | heartbeatSend (l : Link)
  /-- HEARTBEAT_MISS (R322): Three intervals without a heartbeat report RLY_HB_MISSED. -/
  | heartbeatMiss (l : Link)
  /-- BATON_STALL (R303): A flit waiting 100 us for a baton reports a stall. -/
  | batonStall (l : Link) (vc : Fin 4)
  /-- DATA_PACKET (R311): A data packet at its destination passes the epoch and window checks and lands. -/
  | dataPacket (l : Link) (vc : Fin 4)
  /-- REDUCE_UP (R341): A subtree sum arrives from a child. -/
  | reduceUp (l : Link) (vc : Fin 4)
  /-- RESULT_DOWN (R341): A reduction result arrives from the parent and is written and passed on. -/
  | resultDown (l : Link) (vc : Fin 4)
  /-- GATHER_UP (R348): Rank slices arrive from a child. -/
  | gatherUp (l : Link) (vc : Fin 4)
  /-- GATHER_DOWN (R348): The gathered result arrives from the parent and is written. -/
  | gatherDown (l : Link) (vc : Fin 4)
  /-- GRP_ADVANCE (R333): An advance write checks and adopts the next epoch and member array of a group. -/
  | grpAdvance
  /-- BEAT_SEND (R367): Every beat_us a member sends a beat to its tree neighbours. -/
  | beatSend (g : Group)
  /-- BEAT_MISS (R367): Three missed beats from a neighbour send a suspect packet. -/
  | beatMiss (g : Group) (nb : Nat)
  /-- BEAT (R371): A received beat resets the neighbour's count or confirms degradation. -/
  | beat (l : Link) (vc : Fin 4)
  /-- SUSPECT (R367): The anchor receiving a suspect probes the suspect. -/
  | suspect (l : Link) (vc : Fin 4)
  /-- PROBE (R367): A probed member replies with its state. -/
  | probe (l : Link) (vc : Fin 4)
  /-- PROBE_REPLY (R367): A probe reply clears the suspicion. -/
  | probeReply (l : Link) (vc : Fin 4)
  /-- PROBE_TIMEOUT (R367): An unanswered probe is repeated once, then confirms the failure. -/
  | probeTimeout (g : Group) (rank : Nat)
  /-- DECREE_BATCH_END (R367): When batch_us ends the anchor sends one decree for the new membership. -/
  | decreeBatchEnd (g : Group)
  /-- DECREE (R368): A complete decree is adopted by advancing the group, or refused, expelled or in conflict. -/
  | decree (l : Link) (vc : Fin 4)
  /-- CHUNK_TO_BUDDY (R395): A buddy writes a received snapshot chunk to its slot and acknowledges its digest. -/
  | chunkToBuddy (l : Link) (vc : Fin 4)
  /-- CHUNK_ACK (R395): A chunk acknowledgement advances or resends the copy. -/
  | chunkAck (l : Link) (vc : Fin 4)
  /-- MANIFEST_TO_BUDDY (R395): A buddy checks a received manifest and marks the slot complete. -/
  | manifestToBuddy (l : Link) (vc : Fin 4)
  /-- LAP_CUT (R401): A successor keeps the newest two lap cuts of each predecessor. -/
  | lapCut (l : Link) (vc : Fin 4)
  /-- RESTORE_FETCH_REQUEST (R398): A vault holder answers a request for a manifest or chunk. -/
  | restoreFetchRequest (l : Link) (vc : Fin 4)
  /-- RESTORE_FETCH_REPLY (R398): A fetched manifest or chunk arrives at the restoring module. -/
  | restoreFetchReply (l : Link) (vc : Fin 4)
  /-- FILL_REQUEST (R402): A replica holder serves a spare's fill request. -/
  | fillRequest (l : Link) (vc : Fin 4)
  /-- FILL_CHUNK (R402): A spare checks and accepts a fill chunk. -/
  | fillChunk (l : Link) (vc : Fin 4)
  /-- FILL_ACK (R402): A fill acknowledgement advances or resends the fill. -/
  | fillAck (l : Link) (vc : Fin 4)
  /-- FILL_DONE (R403): A member receiving fill done starts the EPOCH replay when every fill is done, or holds for rollback. -/
  | fillDone (l : Link) (vc : Fin 4)
  /-- SNAPSHOT_TRANSFER (R395): After the cut the snapshot chunks are read, digested and sent to both buddies. -/
  | snapshotTransfer
  /-- SNP_NOW (R396): A now write makes the next commit a snapshot lap. -/
  | snpNow
  /-- SNP_RESTORE (R398): A restore write fetches and checks a snapshot and rewrites the module's state. -/
  | snpRestore
  /-- FAULT_QUARANTINE (R380): A quarantine command puts the named unit in quarantine, or takes over a die. -/
  | faultQuarantine (kind : BitVec 4) (u : BitVec 24)
  /-- FAULT_REQUALIFY (R364): A requalify command tests a quarantined unit and returns it when it passes. -/
  | faultRequalify (kind : BitVec 4) (u : BitVec 24) (found : UnitFound)
  /-- FAULT_TEST (R380): A test command runs the requalification test without a state change. -/
  | faultTest (kind : BitVec 4) (u : BitVec 24) (found : UnitFound)
  /-- REFILL (R359): Before the replay a remapped unit gets its image sections, mirror and refresh. -/
  | refill (c : Clu)
  /-- TAKEOVER (R362): A retired die's position passes to the alternate through power, bridge, image and refill steps. -/
  | takeover
  /-- REMAP_PERSIST (R377): A remap table change is written to the next flash copy. -/
  | remapPersist
  /-- HUB_FW_SWITCH (R373): A switch write verifies the inactive slot again and sets the switch pending. -/
  | hubFwSwitch
  /-- STEWARD_READY (R373): Restarted stewards report ready and the switch completes. -/
  | stewardReady
  /-- STEWARD_READY_TIMEOUT (R373): Stewards not ready in 100 ms are restarted again, then fall back. -/
  | stewardReadyTimeout
  /-- SYNC_MARK (R412): A mark with its time code is stamped, checked and used to load, slew or step site time. -/
  | syncMark (code : BitVec 80) (tdc : Fin 64)
  /-- MARK_MISSING (R411): Two marks missing in a row report PCR_MARK_LOST. -/
  | markMissing
  /-- SYNC_CLK_LOSS (R411): SYNC_CLK without an edge for 100 ns enters HOLDOVER. -/
  | syncClkLoss
  /-- SYNC_CLK_RETURN (R411): Returning SYNC_CLK relocks the PLL and site time returns to LOCKED. -/
  | syncClkReturn
  /-- PCR_RESYNC (R412): A resync write loads the counter at the next mark, or is refused during a run. -/
  | pcrResync
  /-- SPLIT_TIMER_ARM (R415): Arming a split timer, or a write to a module-owned timer refused, sets its compare. -/
  | splitTimerArm (n : Fin 32) (v : Word)
  /-- SPLIT_TIMER_FIRE (R415): A split timer reaches its compare value and delivers its action. -/
  | splitTimerFire (n : Fin 32)
  /-- ORDER_SCAN (R557): At SPT0 and SPT1 firings the stewards perform orders from head onward. -/
  | orderScan
  /-- SUPPLY_SAG (R418): The bus falling below sag_dv throttles to sag_cap. -/
  | supplySag (mv : Nat)
  /-- SAG_END (R419): The bus crossing back above sag_dv ends throttling. -/
  | sagEnd (mv : Nat)
  /-- UNDERVOLTAGE (R420): The bus below 40 V starts a ride on the hold-up store. -/
  | undervoltage (mv : Nat)
  /-- RIDE_RECOVER (R420): The bus returning above 40 V during a ride reconnects the input stage. -/
  | rideRecover (mv : Nat)
  /-- RIDE_END (R420): ride_us elapsing or the store reaching reserve enters Blocks for supply. -/
  | rideEnd (mv : Nat)
  /-- SUPPLY_SWELL (R418): The bus above 60 V reports a swell. -/
  | supplySwell (mv : Nat)
  /-- ABSOLUTE_MAXIMUM (R585): The bus above 64 V disconnects the input stage as undervoltage, and below 62 V reconnects it. -/
  | absoluteMaximum (mv : Nat)
  /-- RIPPLE_MEASURE (R418): Ripple over 16 supply periods is measured and reported when high. -/
  | rippleMeasure (mv : Nat)
  /-- COLLAPSE (R421): The bus below 36 V in Blocks writes a supply record and loses all volatile state. -/
  | collapse (mv : Nat)
  /-- CAP_CONTROL (R424): Every 10 us the cap controller adjusts the stretch factor. -/
  | capControl (power : Nat)
  /-- BALLAST_PASS (R426): A waiting cluster runs ballast to hold a falling draw or the floor. -/
  | ballastPass (c : Clu)
  /-- PWR_CAP_WRITE (R423): A cap or ramp write takes effect at once for a raise or along the ramp for a lower. -/
  | pwrCapWrite (v : Word)
  /-- SUPPLY_PHASE_EDGE (R428): A SUPPLY_PHASE rising edge measures the period and opens the module's slot. -/
  | supplyPhaseEdge
  /-- PHASE_LOSS (R428): No edge for 30 ms reports PWR_PHASE_LOST. -/
  | phaseLoss
  /-- POWER_PLAN_STEP (R429): SPT2 firing ramps the floor toward the next plan entry. -/
  | powerPlanStep
  /-- THERMAL_THROTTLE (R430): t_max above t_throttle lowers the effective cap, and below it restores it. -/
  | thermalThrottle (t : Nat)
  /-- THERMAL_TRIP (R431): A sensor at 110 C asserts THERMTRIP_N and switches off every domain. -/
  | thermalTrip (t : Nat)
  /-- DOMAIN_SWITCH (R432): The Pacer switches a power domain between on, retention and off. -/
  | domainSwitch (d : Dom) (dst : DomState)
  /-- BLOCKS (R433): A blocks write enters the sleep state after the draw falls. -/
  | blocks
  /-- WAKE (R434): A wake write leaves a commanded Blocks. -/
  | wake
  /-- SUPPLY_WAKE (R434): The bus above sag_dv for recover_us wakes a supply Blocks. -/
  | supplyWake (mv : Nat)
  /-- IMG_LOAD (R444): A load write verifies an image and copies it to the image store. -/
  | imgLoad
  /-- IMG_APPLY (R447): An apply write makes the verified image take effect at its moment. -/
  | imgApply
  /-- IMG_DISCARD (R446): A discard write drops a waiting verified image. -/
  | imgDiscard
  /-- CLAIM_REQUEST (R451): An on-demand claim is requested and granted, preempts or waits by class. -/
  | claimRequest (k : Nat)
  /-- CLAIM_WINDOW_OPEN (R451): A window claim is requested at B plus start_us. -/
  | claimWindowOpen (k : Nat)
  /-- CLAIM_RELEASE (R451): A claim released by its feature or window end is granted to waiters. -/
  | claimRelease (k : Nat)
  /-- WAIT_END (R491): A wait ends and a synchronization trace record is queued. -/
  | waitEnd (w : Waiter)
  /-- SYNC_TIMEOUT (R496): A cluster wait beyond timeout_us is recorded, reported and may abandon the cluster. -/
  | syncTimeout (w : Waiter)
  /-- TRACE_TRIGGER (R500): A trigger write freezes the pre ring under WINDOW and writes a trigger record. -/
  | traceTrigger
  /-- TRACE_ENABLE (R497): Enabling a quadrant trace starts a new trace or reports TRC_CFG_INVALID. -/
  | traceEnable (q : Fin 4)
  /-- PERF_CLEAR (R487): A perf_clear write sets every performance counter to zero. -/
  | perfClear
  /-- FREEZE_N_FALL (R505): FREEZE_N falling stops every functional clock over the freeze tree. -/
  | freezeNFall
  /-- FREEZE (R504): A freeze write stops every functional clock. -/
  | freeze
  /-- FREEZE_RELEASE (R508): A release write stops the drive of FREEZE_N and allows the freeze to end. -/
  | freezeRelease
  /-- FREEZE_END (R508): With release written, the pin high for 1 us and no scan-out, clocks restart. -/
  | freezeEnd
  /-- SCAN_OUT_DONE (R514): The scan-out ends and TRC_PHOTO_DONE is reported. -/
  | scanOutDone
  /-- ABORT_SCAN (R516): An abort_scan write ends the scan-out and marks unwritten sections incomplete. -/
  | abortScan
  /-- HUB_INT_CLAIM (R537): A read of HUB_INT_CLAIMt returns and pushes the first eligible source. -/
  | hubIntClaim (t : Fin 9)
  /-- HUB_INT_COMPLETE (R537): A write of the top source pops the running stack, otherwise reports a mismatch. -/
  | hubIntComplete (t : Fin 9) (src : BitVec 12)
  /-- DOORBELL (R535): A set-alias write to a doorbell's pending bit raises it. -/
  | doorbell (n : Fin 256)
  /-- JDG_VERIFY_FW (R470): VERIFY_FW checks a firmware slot and returns its svn and digest. -/
  | jdgVerifyFw
  /-- RAISE_FLOOR (R472): RAISE_FLOOR sets the firmware floor within the allowed range. -/
  | raiseFloor
  /-- INSTALL_KEY (R466): INSTALL_KEY puts a public key into a key slot under admin authorization. -/
  | installKey
  /-- REVOKE_KEY (R466): REVOKE_KEY revokes a key slot under admin authorization. -/
  | revokeKey
  /-- ATTEST (R474): ATTEST returns a signed attestation report. -/
  | attest
  /-- DBG_CHALLENGE (R476): DBG_CHALLENGE advances the debug counter and returns a challenge. -/
  | dbgChallenge
  /-- DBG_TOKEN (R477): DBG_TOKEN grants a debug authorization when counter, slot, expiry and signature check. -/
  | dbgToken
  /-- DBG_REVOKE (R478): DBG_REVOKE ends the debug authorization. -/
  | dbgRevoke
  /-- DEBUG_EXPIRY (R478): Site time reaching the token's expiry ends the authorization. -/
  | debugExpiry
  /-- ZEROIZE (R479): ZEROIZE clears secrets from RAM and erases identity material from flash. -/
  | zeroize
  /-- ENROLL (R468): ENROLL creates a new identity from the PUF and returns its public key. -/
  | enroll
  /-- INSTALL_CERT (R466): INSTALL_CERT stores a certificate under admin authorization. -/
  | installCert
  /-- READ_CERT (R484): READ_CERT returns one part of a stored certificate. -/
  | readCert
  /-- SELF_TEST (R480): SELF_TEST runs the known-answer tests and returns their results. -/
  | selfTest (fails : List (Fin 2 × Bool))
  /-- SET_MODE (R462): SET_MODE sets approved mode for the next power-on. -/
  | setMode
  /-- DOE_REQUEST (R473): A DOE attestation request is answered with the signed report or an error body. -/
  | doeRequest (req : DoeObj)
  /-- DOE_ABORT (R473): A DOE abort discards the request in progress. -/
  | doeAbort
  /-- BAR2_WRITE (R550): A posted write through BAR2 lands in HBM, or is dropped when HBM is unavailable. -/
  | bar2Write (a : Nat) (bs : List (Byte × Bool)) (err : ReadErr)
  /-- BAR2_READ (R550): A BAR2 read returns HBM data, poisoned or Unsupported Request. -/
  | bar2Read (a len : Nat) (err : ReadErr)
  /-- ORDERS_WINDOW_ACCESS (R554): An access through the BAR0 window reads or writes the orders ring. -/
  | ordersWindowAccess (a : Nat) (wr : Option (List (Option Byte))) (len : Nat)
  /-- HUB_ORD_TAIL (R558): A tail write is accepted within ring bounds or ignored with HUB_ORD_TAIL_INVALID. -/
  | hubOrdTail (v : Word)
  /-- ORDERS_RING_ENABLE (R554): Setting en of the orders ring sets head and tail to zero. -/
  | ordersRingEnable (v : Word)
  /-- COMPLETION_RING_ENABLE (R568): Setting en of the completion ring sets cmp_head and cmp_tail to zero. -/
  | completionRingEnable (v : Word)
  /-- NOP (R556): A NOP order completes at once. -/
  | nop
  /-- REG_WRITE (R556): A REG_WRITE order performs its address-value pairs in order. -/
  | regWrite
  /-- REG_READ (R556): A REG_READ order reads addresses into its reply buffer. -/
  | regRead
  /-- REG_POLL (R556): A REG_POLL order completes when the masked value matches or its timeout passes. -/
  | regPoll
  /-- MSIX_UNMASK (R561): Unmasking a vector sends its held message when a source is still eligible. -/
  | msixUnmask (v : Option (Fin 64))
  /-- PERST_N (R551): PERST_N resets the PCIe endpoint alone. -/
  | perstN
  /-- HOT_RESET (R551): A PCIe hot reset resets the endpoint alone. -/
  | hotReset
  /-- FUNCTION_LEVEL_RESET (R551): A Function Level Reset resets the endpoint alone. -/
  | functionLevelReset
  /-- PCI_LINK_DOWN (R569): The PCIe link leaving L0 without a reset reports HUB_PCI_LINK_DOWN. -/
  | pciLinkDown
  /-- PCI_LINK_TRAINED (R547): The PCIe link trains, reporting a degraded width or rate. -/
  | pciLinkTrained (width rate : Nat)
  /-- GET_ID (R564): SMBus GET_ID returns part, stepping, bib and serial. -/
  | getId (pec : Bool)
  /-- SET_BIB (R564): SMBus SET_BIB sets the bib while every link is DOWN, otherwise NACKs. -/
  | setBib (bib : BitVec 24) (pec : Bool)
  /-- GET_STATE (R564): SMBus GET_STATE returns readiness, alert causes and power. -/
  | getState (pec : Bool)
  /-- READ_REG (R564): SMBus READ_REG returns a BAR0 register. -/
  | readReg (a : Word) (pec : Bool)
  /-- CLEAR_ALERT (R565): SMBus CLEAR_ALERT clears alert causes whose conditions no longer hold. -/
  | clearAlert (mask : Byte) (pec : Bool)
  /-- ALERT_RESPONSE (R563): The target answers the Alert Response Address while ALERT_N is asserted. -/
  | alertResponse
  /-- BYPASS (R566): JTAG BYPASS instruction. -/
  | bypass
  /-- IDCODE (R566): JTAG IDCODE returns the identification code. -/
  | idcode
  /-- SAMPLE_PRELOAD (R566): JTAG SAMPLE/PRELOAD instruction. -/
  | samplePreload (v : Nat)
  /-- EXTEST (R566): JTAG EXTEST drives boundary values onto the pins. -/
  | extest
  /-- CLAMP (R566): JTAG CLAMP instruction. -/
  | clamp
  /-- HIGHZ (R566): JTAG HIGHZ instruction. -/
  | highz
  /-- POWER_ON (R571): PWR_OK high with the bus in range begins bring-up through its stages. -/
  | powerOn (o : BringUp)
  /-- PWR_OK_FALL (R578): PWR_OK falling causes a power-on reset. -/
  | pwrOkFall
  /-- MODULE_RESET (R579): A keyed write to HUB_RST_CTRL resets every non-always-on domain and restarts bring-up from stage 0x02. -/
  | moduleReset (v : Word)
  /-- MANIFEST_ACKNOWLEDGEMENT (R395): The writer receives a buddy's acknowledgement that the manifest checked and the slot is complete, and reports SNP_DONE, SNP_ONE_COPY or SNP_FAILED once both copies are settled. -/
  | manifestAcknowledgement (l : Link) (vc : Fin 4)
  deriving DecidableEq, Repr

end Sys2Proof
end

