-- ==== Sys2Proof/Machine/RegMap.lean ====
section
/-!
DEFINITION. The BAR0 register map (R520 to R523): every register of the module with its fields, their access types
(R5), reset values, update groups (R526) and reserved encodings (R8), as the register tables of the spec give them.
-/

namespace Sys2Proof.Machine

/-- The access type of a field (R5). `st g` is a staged field of update group g (R526); `stwo` is staged and reads 0; `ldr` is read-only to software and staged by
the image loader alone. -/
inductive Acc where
  | ro | rw | wo | sq
  | st (g : Nat)
  | stwo (g : Nat)
  | ldr (g : Nat)
  deriving DecidableEq, Repr

/-- One field of a register: bits [hi:lo], its type, its reset value, and the ranges of its reserved encodings (R8). -/
structure Field where
  hi : Nat
  lo : Nat
  acc : Acc
  reset : Nat
  resv : List (Nat × Nat) := []
  deriving DecidableEq, Repr

/-- The kinds of register block (R521 to R523). A block with several registers of one shape per index
(timers, sources, targets, trace quadrants) has one kind per shape. -/
inductive Blk where
  | ident | update | modExc | lap | landing | groups | snap | pacer | spt | power | images
  | intSrc | intPend | intMask | intTgt | intCfg | xzSum
  | hub | hub0 | hbm | fault | link | die | clu | core | judge | trace | traceQ
  deriving DecidableEq, Repr

/-- One register: its block kind, its offset in the block, its fields. -/
structure RegDef where
  blk : Blk
  off : Nat
  fields : List Field
  deriving DecidableEq, Repr

/-- A named field: its register and its bits. -/
structure Fld where
  reg : RegDef
  hi : Nat
  lo : Nat
  deriving DecidableEq, Repr

/-- Base of field die d (R520, R523). -/
def dieBase (d : Nat) : Nat := 0x0200_0000 + d * 0x0080_0000

/-- Base of hub die q (R522). -/
def hubBase (q : Nat) : Nat := 0x0100_0000 + q * 0x0040_0000

/-- Base of cluster u = die * 105 + n (R523). -/
def cluBase (u : Nat) : Nat := dieBase (u / 105) + 0x0010_0000 + (u % 105) * 0x0001_0000

/-- Base of the registers of core u = cluster * 52 + c (R54). -/
def coreBase (u : Nat) : Nat :=
  let c := u % 52
  if c < 26 then cluBase (u / 52) + 0x4000 + c * 0x80 else cluBase (u / 52) + 0x8000 + (c - 26) * 0x80

/-- The address of a block's first register in the plain alias; u is the unit number within the kind (R521 to R523). -/
def Blk.base (b : Blk) (u : Nat) : Nat :=
  match b with
  | .ident => 0
  | .update => 0x0001_0000
  | .modExc => 0x0002_0000
  | .lap => 0x0003_0000
  | .landing => 0x0004_0000
  | .groups => 0x0005_0000
  | .snap => 0x0006_0000
  | .pacer => 0x0007_0000
  | .spt => 0x0007_0100 + 16 * u
  | .power => 0x0008_0000
  | .images => 0x0009_0000
  | .intSrc => 0x000A_0000 + (u / 1024) * 0x4000 + (u % 1024) * 4
  | .intPend => 0x000B_0000 + 4 * u
  | .intMask => 0x000B_0200 + 4 * u
  | .intTgt => 0x000B_0400 + 0x10 * u
  | .intCfg => 0x000B_0500
  | .xzSum => 0x000C_0000
  | .hub => hubBase u
  | .hub0 => hubBase 0
  | .hbm => hubBase (u / 8) + 0x0001_0000 + (u % 8) * 0x4000
  | .fault => hubBase 0 + 0x0003_0000
  | .link => hubBase (u / 16) + 0x0004_0000 + (u % 16) * 0x4000
  | .die => dieBase u + 0x8000
  | .clu => cluBase u
  | .core => coreBase u
  | .judge => 0x1000_0000
  | .trace => 0x1100_0000
  | .traceQ => 0x1100_0100 + 0x20 * u

/-- The plain address of register `r` of unit u. -/
def RegDef.addr (r : RegDef) (u : Nat) : Nat := r.blk.base u + r.off

/-- The value of a register with every field at its reset value. -/
def RegDef.resetVal (r : RegDef) : BitVec 32 :=
  BitVec.ofNat 32 (r.fields.foldl (fun a f => a + f.reset * 2 ^ f.lo) 0)

/-! ## The registers -/

/-! ### Block `ident` -/

/-- HUB_ID_PART (R525). -/
def R.HUB_ID_PART : RegDef :=
  { blk := .ident, off := 0, fields := [{ hi := 31, lo := 16, acc := .ro, reset := 0xA980 }] }
def F.HUB_ID_PART_part : Fld := ⟨R.HUB_ID_PART, 31, 16⟩
/-- HUB_ID_STEP (R525). -/
def R.HUB_ID_STEP : RegDef :=
  { blk := .ident, off := 4, fields := [{ hi := 7, lo := 0, acc := .ro, reset := 0xA1 }] }
def F.HUB_ID_STEP_stepping : Fld := ⟨R.HUB_ID_STEP, 7, 0⟩
/-- HUB_ID_BIB (R525). -/
def R.HUB_ID_BIB : RegDef :=
  { blk := .ident, off := 8, fields := [{ hi := 31, lo := 31, acc := .ro, reset := 0 },
      { hi := 23, lo := 0, acc := .ro, reset := 0 }] }
def F.HUB_ID_BIB_bib_valid : Fld := ⟨R.HUB_ID_BIB, 31, 31⟩
def F.HUB_ID_BIB_bib : Fld := ⟨R.HUB_ID_BIB, 23, 0⟩
/-- HUB_ID_SERIAL_LO (R525). -/
def R.HUB_ID_SERIAL_LO : RegDef :=
  { blk := .ident, off := 0xC, fields := [{ hi := 31, lo := 0, acc := .ro, reset := 0 }] }
def F.HUB_ID_SERIAL_LO_serial : Fld := ⟨R.HUB_ID_SERIAL_LO, 31, 0⟩
/-- HUB_ID_SERIAL_HI (R525). -/
def R.HUB_ID_SERIAL_HI : RegDef :=
  { blk := .ident, off := 0x10, fields := [{ hi := 31, lo := 0, acc := .ro, reset := 0 }] }
def F.HUB_ID_SERIAL_HI_serial : Fld := ⟨R.HUB_ID_SERIAL_HI, 31, 0⟩

/-! ### Block `update` -/

/-- UPD_STROBE (R528). -/
def R.UPD_STROBE : RegDef :=
  { blk := .update, off := 0, fields := [{ hi := 31, lo := 0, acc := .wo, reset := 0 }] }
def F.UPD_STROBE_mask : Fld := ⟨R.UPD_STROBE, 31, 0⟩
/-- UPD_PENDING (R528). -/
def R.UPD_PENDING : RegDef :=
  { blk := .update, off := 4, fields := [{ hi := 31, lo := 0, acc := .ro, reset := 0 }] }
def F.UPD_PENDING_pending : Fld := ⟨R.UPD_PENDING, 31, 0⟩
/-- UPD_STATE (R528). -/
def R.UPD_STATE : RegDef :=
  { blk := .update, off := 8, fields := [{ hi := 0, lo := 0, acc := .ro, reset := 0 }] }
def F.UPD_STATE_busy : Fld := ⟨R.UPD_STATE, 0, 0⟩

/-! ### Block `modExc` -/

/-- STA_MOD_EXC_STATUS (R191). -/
def R.STA_MOD_EXC_STATUS : RegDef :=
  { blk := .modExc, off := 0, fields := [{ hi := 31, lo := 24, acc := .sq, reset := 0 },
      { hi := 23, lo := 19, acc := .ro, reset := 0 },
      { hi := 18, lo := 12, acc := .ro, reset := 0 },
      { hi := 11, lo := 6, acc := .ro, reset := 0 },
      { hi := 1, lo := 1, acc := .rw, reset := 0 },
      { hi := 0, lo := 0, acc := .sq, reset := 0 }] }
def F.STA_MOD_EXC_STATUS_seq : Fld := ⟨R.STA_MOD_EXC_STATUS, 31, 24⟩
def F.STA_MOD_EXC_STATUS_die : Fld := ⟨R.STA_MOD_EXC_STATUS, 23, 19⟩
def F.STA_MOD_EXC_STATUS_cluster : Fld := ⟨R.STA_MOD_EXC_STATUS, 18, 12⟩
def F.STA_MOD_EXC_STATUS_core : Fld := ⟨R.STA_MOD_EXC_STATUS, 11, 6⟩
def F.STA_MOD_EXC_STATUS_irq_en : Fld := ⟨R.STA_MOD_EXC_STATUS, 1, 1⟩
def F.STA_MOD_EXC_STATUS_valid : Fld := ⟨R.STA_MOD_EXC_STATUS, 0, 0⟩
/-- STA_MOD_EXC_TENSOR (R100). -/
def R.STA_MOD_EXC_TENSOR : RegDef :=
  { blk := .modExc, off := 4, fields := [{ hi := 15, lo := 0, acc := .ro, reset := 0 }] }
def F.STA_MOD_EXC_TENSOR_tensor : Fld := ⟨R.STA_MOD_EXC_TENSOR, 15, 0⟩
/-- STA_MOD_EXC_ROW (R100). -/
def R.STA_MOD_EXC_ROW : RegDef :=
  { blk := .modExc, off := 8, fields := [{ hi := 23, lo := 0, acc := .ro, reset := 0 }] }
def F.STA_MOD_EXC_ROW_row : Fld := ⟨R.STA_MOD_EXC_ROW, 23, 0⟩
/-- STA_MOD_EXC_COL (R100). -/
def R.STA_MOD_EXC_COL : RegDef :=
  { blk := .modExc, off := 0xC, fields := [{ hi := 19, lo := 0, acc := .ro, reset := 0 }] }
def F.STA_MOD_EXC_COL_col : Fld := ⟨R.STA_MOD_EXC_COL, 19, 0⟩
/-- STA_MOD_EXC_BLOCK (R100). -/
def R.STA_MOD_EXC_BLOCK : RegDef :=
  { blk := .modExc, off := 0x10, fields := [{ hi := 19, lo := 0, acc := .ro, reset := 0 }] }
def F.STA_MOD_EXC_BLOCK_block : Fld := ⟨R.STA_MOD_EXC_BLOCK, 19, 0⟩
/-- STA_MOD_EXC_TIME (R100). -/
def R.STA_MOD_EXC_TIME : RegDef :=
  { blk := .modExc, off := 0x14, fields := [{ hi := 31, lo := 0, acc := .ro, reset := 0 }] }
def F.STA_MOD_EXC_TIME_time : Fld := ⟨R.STA_MOD_EXC_TIME, 31, 0⟩

/-! ### Block `lap` -/

/-- GRP_LAP_SEED_LO (R265). -/
def R.GRP_LAP_SEED_LO : RegDef :=
  { blk := .lap, off := 0, fields := [{ hi := 31, lo := 0, acc := .st 4, reset := 0 }] }
def F.GRP_LAP_SEED_LO_seed : Fld := ⟨R.GRP_LAP_SEED_LO, 31, 0⟩
/-- GRP_LAP_SEED_HI (R265). -/
def R.GRP_LAP_SEED_HI : RegDef :=
  { blk := .lap, off := 4, fields := [{ hi := 31, lo := 0, acc := .st 4, reset := 0 }] }
def F.GRP_LAP_SEED_HI_seed : Fld := ⟨R.GRP_LAP_SEED_HI, 31, 0⟩
/-- GRP_LAP_INDEX_LO (R265). -/
def R.GRP_LAP_INDEX_LO : RegDef :=
  { blk := .lap, off := 8, fields := [{ hi := 31, lo := 0, acc := .st 4, reset := 0 }] }
def F.GRP_LAP_INDEX_LO_lap : Fld := ⟨R.GRP_LAP_INDEX_LO, 31, 0⟩
/-- GRP_LAP_INDEX_HI (R265). -/
def R.GRP_LAP_INDEX_HI : RegDef :=
  { blk := .lap, off := 0xC, fields := [{ hi := 31, lo := 0, acc := .st 4, reset := 0 }] }
def F.GRP_LAP_INDEX_HI_lap : Fld := ⟨R.GRP_LAP_INDEX_HI, 31, 0⟩
/-- GRP_LAP_POS_LO (R265). -/
def R.GRP_LAP_POS_LO : RegDef :=
  { blk := .lap, off := 0x10, fields := [{ hi := 31, lo := 0, acc := .st 4, reset := 0 }] }
def F.GRP_LAP_POS_LO_pos : Fld := ⟨R.GRP_LAP_POS_LO, 31, 0⟩
/-- GRP_LAP_POS_HI (R265). -/
def R.GRP_LAP_POS_HI : RegDef :=
  { blk := .lap, off := 0x14, fields := [{ hi := 31, lo := 0, acc := .st 4, reset := 0 }] }
def F.GRP_LAP_POS_HI_pos : Fld := ⟨R.GRP_LAP_POS_HI, 31, 0⟩
/-- GRP_LAP_POLICY (R265). -/
def R.GRP_LAP_POLICY : RegDef :=
  { blk := .lap, off := 0x18, fields := [{ hi := 11, lo := 8, acc := .st 4, reset := 1, resv := [(0, 0)] },
      { hi := 1, lo := 0, acc := .st 4, reset := 0, resv := [(3, 3)] }] }
def F.GRP_LAP_POLICY_replays : Fld := ⟨R.GRP_LAP_POLICY, 11, 8⟩
def F.GRP_LAP_POLICY_policy : Fld := ⟨R.GRP_LAP_POLICY, 1, 0⟩
/-- GRP_LAP_LOSS_SCALE (R265). -/
def R.GRP_LAP_LOSS_SCALE : RegDef :=
  { blk := .lap, off := 0x1C, fields := [{ hi := 31, lo := 0, acc := .st 4, reset := 0x3F800000, resv := [(0, 0), (0x7F800000, 0xFFFFFFFF)] }] }
def F.GRP_LAP_LOSS_SCALE_scale : Fld := ⟨R.GRP_LAP_LOSS_SCALE, 31, 0⟩
/-- GRP_LAP_CLIP (R265). -/
def R.GRP_LAP_CLIP : RegDef :=
  { blk := .lap, off := 0x20, fields := [{ hi := 31, lo := 0, acc := .st 4, reset := 0, resv := [(0x7F800000, 0x7FFFFFFF), (0x80000001, 0xFFFFFFFF)] }] }
def F.GRP_LAP_CLIP_clip : Fld := ⟨R.GRP_LAP_CLIP, 31, 0⟩
/-- GRP_LAP_GATE_LIMIT (R265). -/
def R.GRP_LAP_GATE_LIMIT : RegDef :=
  { blk := .lap, off := 0x24, fields := [{ hi := 31, lo := 0, acc := .st 4, reset := 0 }] }
def F.GRP_LAP_GATE_LIMIT_limit_us : Fld := ⟨R.GRP_LAP_GATE_LIMIT, 31, 0⟩
/-- GRP_LAP_TAIL (R265). -/
def R.GRP_LAP_TAIL : RegDef :=
  { blk := .lap, off := 0x28, fields := [{ hi := 23, lo := 0, acc := .st 4, reset := 0x2710, resv := [(0, 0)] }] }
def F.GRP_LAP_TAIL_tail_us : Fld := ⟨R.GRP_LAP_TAIL, 23, 0⟩
/-- GRP_LAP_VERDICT (R265). -/
def R.GRP_LAP_VERDICT : RegDef :=
  { blk := .lap, off := 0x2C, fields := [{ hi := 31, lo := 24, acc := .ro, reset := 0 },
      { hi := 23, lo := 20, acc := .ro, reset := 0 },
      { hi := 17, lo := 16, acc := .ro, reset := 3 },
      { hi := 15, lo := 15, acc := .ro, reset := 0 }] }
def F.GRP_LAP_VERDICT_reasons : Fld := ⟨R.GRP_LAP_VERDICT, 31, 24⟩
def F.GRP_LAP_VERDICT_replays_done : Fld := ⟨R.GRP_LAP_VERDICT, 23, 20⟩
def F.GRP_LAP_VERDICT_outcome : Fld := ⟨R.GRP_LAP_VERDICT, 17, 16⟩
def F.GRP_LAP_VERDICT_bank : Fld := ⟨R.GRP_LAP_VERDICT, 15, 15⟩
/-- GRP_LAP_OVERRUN (R265). -/
def R.GRP_LAP_OVERRUN : RegDef :=
  { blk := .lap, off := 0x30, fields := [{ hi := 31, lo := 16, acc := .ro, reset := 0 },
      { hi := 15, lo := 0, acc := .ro, reset := 0 }] }
def F.GRP_LAP_OVERRUN_count : Fld := ⟨R.GRP_LAP_OVERRUN, 31, 16⟩
def F.GRP_LAP_OVERRUN_max_us : Fld := ⟨R.GRP_LAP_OVERRUN, 15, 0⟩
/-- GRP_LAP_STATUS (R265). -/
def R.GRP_LAP_STATUS : RegDef :=
  { blk := .lap, off := 0x34, fields := [{ hi := 31, lo := 24, acc := .sq, reset := 0 },
      { hi := 7, lo := 0, acc := .sq, reset := 0 }] }
def F.GRP_LAP_STATUS_seq : Fld := ⟨R.GRP_LAP_STATUS, 31, 24⟩
def F.GRP_LAP_STATUS_code : Fld := ⟨R.GRP_LAP_STATUS, 7, 0⟩
/-- GRP_LAP_FEED_LO (R265). -/
def R.GRP_LAP_FEED_LO : RegDef :=
  { blk := .lap, off := 0x38, fields := [{ hi := 31, lo := 6, acc := .st 4, reset := 0 }] }
def F.GRP_LAP_FEED_LO_base : Fld := ⟨R.GRP_LAP_FEED_LO, 31, 6⟩
/-- GRP_LAP_FEED_HI (R265). -/
def R.GRP_LAP_FEED_HI : RegDef :=
  { blk := .lap, off := 0x3C, fields := [{ hi := 20, lo := 16, acc := .st 4, reset := 8, resv := [(0, 7), (0x15, 0x1F)] },
      { hi := 8, lo := 0, acc := .st 4, reset := 0 }] }
def F.GRP_LAP_FEED_HI_size_log2 : Fld := ⟨R.GRP_LAP_FEED_HI, 20, 16⟩
def F.GRP_LAP_FEED_HI_base_hi : Fld := ⟨R.GRP_LAP_FEED_HI, 8, 0⟩

/-! ### Block `landing` -/

/-- RLY_LAND_LO (R326). -/
def R.RLY_LAND_LO : RegDef :=
  { blk := .landing, off := 0, fields := [{ hi := 31, lo := 13, acc := .rw, reset := 0 }] }
def F.RLY_LAND_LO_base : Fld := ⟨R.RLY_LAND_LO, 31, 13⟩
/-- RLY_LAND_HI (R326). -/
def R.RLY_LAND_HI : RegDef :=
  { blk := .landing, off := 4, fields := [{ hi := 8, lo := 0, acc := .rw, reset := 0 }] }
def F.RLY_LAND_HI_base_hi : Fld := ⟨R.RLY_LAND_HI, 8, 0⟩
/-- RLY_LAND_STATUS (R326). -/
def R.RLY_LAND_STATUS : RegDef :=
  { blk := .landing, off := 8, fields := [{ hi := 31, lo := 24, acc := .sq, reset := 0 },
      { hi := 23, lo := 8, acc := .ro, reset := 0 },
      { hi := 7, lo := 0, acc := .sq, reset := 0 }] }
def F.RLY_LAND_STATUS_seq : Fld := ⟨R.RLY_LAND_STATUS, 31, 24⟩
def F.RLY_LAND_STATUS_tensor : Fld := ⟨R.RLY_LAND_STATUS, 23, 8⟩
def F.RLY_LAND_STATUS_code : Fld := ⟨R.RLY_LAND_STATUS, 7, 0⟩

/-! ### Block `groups` -/

/-- GRP_TABLE_LO (R353). -/
def R.GRP_TABLE_LO : RegDef :=
  { blk := .groups, off := 0, fields := [{ hi := 31, lo := 14, acc := .rw, reset := 0 }] }
def F.GRP_TABLE_LO_base : Fld := ⟨R.GRP_TABLE_LO, 31, 14⟩
/-- GRP_TABLE_HI (R353). -/
def R.GRP_TABLE_HI : RegDef :=
  { blk := .groups, off := 4, fields := [{ hi := 8, lo := 0, acc := .rw, reset := 0 }] }
def F.GRP_TABLE_HI_base_hi : Fld := ⟨R.GRP_TABLE_HI, 8, 0⟩
/-- GRP_SEL (R353). -/
def R.GRP_SEL : RegDef :=
  { blk := .groups, off := 8, fields := [{ hi := 7, lo := 0, acc := .rw, reset := 0 }] }
def F.GRP_SEL_group : Fld := ⟨R.GRP_SEL, 7, 0⟩
/-- GRP_CTRL (R353). -/
def R.GRP_CTRL : RegDef :=
  { blk := .groups, off := 0xC, fields := [{ hi := 0, lo := 0, acc := .wo, reset := 0 }] }
def F.GRP_CTRL_advance : Fld := ⟨R.GRP_CTRL, 0, 0⟩
/-- GRP_EPOCH (R353). -/
def R.GRP_EPOCH : RegDef :=
  { blk := .groups, off := 0x10, fields := [{ hi := 31, lo := 0, acc := .ro, reset := 0 }] }
def F.GRP_EPOCH_epoch : Fld := ⟨R.GRP_EPOCH, 31, 0⟩
/-- GRP_STATUS (R353). -/
def R.GRP_STATUS : RegDef :=
  { blk := .groups, off := 0x14, fields := [{ hi := 31, lo := 24, acc := .sq, reset := 0 },
      { hi := 23, lo := 16, acc := .ro, reset := 0 },
      { hi := 15, lo := 8, acc := .ro, reset := 0 },
      { hi := 7, lo := 0, acc := .sq, reset := 0 }] }
def F.GRP_STATUS_seq : Fld := ⟨R.GRP_STATUS, 31, 24⟩
def F.GRP_STATUS_group : Fld := ⟨R.GRP_STATUS, 23, 16⟩
def F.GRP_STATUS_bib_lo : Fld := ⟨R.GRP_STATUS, 15, 8⟩
def F.GRP_STATUS_code : Fld := ⟨R.GRP_STATUS, 7, 0⟩
/-- GRP_STALE_CNT (R353). -/
def R.GRP_STALE_CNT : RegDef :=
  { blk := .groups, off := 0x18, fields := [{ hi := 31, lo := 16, acc := .ro, reset := 0 },
      { hi := 15, lo := 0, acc := .ro, reset := 0 }] }
def F.GRP_STALE_CNT_foreign : Fld := ⟨R.GRP_STALE_CNT, 31, 16⟩
def F.GRP_STALE_CNT_stale : Fld := ⟨R.GRP_STALE_CNT, 15, 0⟩
/-- GRP_RED_ESC_CNT (R353). -/
def R.GRP_RED_ESC_CNT : RegDef :=
  { blk := .groups, off := 0x1C, fields := [{ hi := 31, lo := 0, acc := .ro, reset := 0 }] }
def F.GRP_RED_ESC_CNT_escaped : Fld := ⟨R.GRP_RED_ESC_CNT, 31, 0⟩
/-- GRP_RED_FP32_CNT (R353). -/
def R.GRP_RED_FP32_CNT : RegDef :=
  { blk := .groups, off := 0x20, fields := [{ hi := 31, lo := 0, acc := .ro, reset := 0 }] }
def F.GRP_RED_FP32_CNT_fp32_blocks : Fld := ⟨R.GRP_RED_FP32_CNT, 31, 0⟩
/-- GRP_RED_STEP_LO (R353). -/
def R.GRP_RED_STEP_LO : RegDef :=
  { blk := .groups, off := 0x24, fields := [{ hi := 31, lo := 5, acc := .st 4, reset := 0 }] }
def F.GRP_RED_STEP_LO_list : Fld := ⟨R.GRP_RED_STEP_LO, 31, 5⟩
/-- GRP_RED_STEP_HI (R353). -/
def R.GRP_RED_STEP_HI : RegDef :=
  { blk := .groups, off := 0x28, fields := [{ hi := 8, lo := 0, acc := .st 4, reset := 0 }] }
def F.GRP_RED_STEP_HI_list_hi : Fld := ⟨R.GRP_RED_STEP_HI, 8, 0⟩
/-- GRP_RED_STATE (R353). -/
def R.GRP_RED_STATE : RegDef :=
  { blk := .groups, off := 0x2C, fields := [{ hi := 31, lo := 31, acc := .ro, reset := 0 },
      { hi := 30, lo := 24, acc := .ro, reset := 0 },
      { hi := 15, lo := 0, acc := .ro, reset := 0 }] }
def F.GRP_RED_STATE_running : Fld := ⟨R.GRP_RED_STATE, 31, 31⟩
def F.GRP_RED_STATE_restarts : Fld := ⟨R.GRP_RED_STATE, 30, 24⟩
def F.GRP_RED_STATE_seg : Fld := ⟨R.GRP_RED_STATE, 15, 0⟩
/-- GRP_MBR_CFG (R380). -/
def R.GRP_MBR_CFG : RegDef :=
  { blk := .groups, off := 0x30, fields := [{ hi := 25, lo := 24, acc := .rw, reset := 3 },
      { hi := 23, lo := 16, acc := .rw, reset := 0x64 },
      { hi := 15, lo := 8, acc := .rw, reset := 0x32, resv := [(0, 0)] },
      { hi := 7, lo := 0, acc := .rw, reset := 0x14, resv := [(0, 0)] }] }
def F.GRP_MBR_CFG_mvc : Fld := ⟨R.GRP_MBR_CFG, 25, 24⟩
def F.GRP_MBR_CFG_batch_us : Fld := ⟨R.GRP_MBR_CFG, 23, 16⟩
def F.GRP_MBR_CFG_probe_us : Fld := ⟨R.GRP_MBR_CFG, 15, 8⟩
def F.GRP_MBR_CFG_beat_us : Fld := ⟨R.GRP_MBR_CFG, 7, 0⟩
/-- GRP_MBR_BOOK_LO (R380). -/
def R.GRP_MBR_BOOK_LO : RegDef :=
  { blk := .groups, off := 0x34, fields := [{ hi := 31, lo := 4, acc := .rw, reset := 0 }] }
def F.GRP_MBR_BOOK_LO_base : Fld := ⟨R.GRP_MBR_BOOK_LO, 31, 4⟩
/-- GRP_MBR_BOOK_HI (R380). -/
def R.GRP_MBR_BOOK_HI : RegDef :=
  { blk := .groups, off := 0x38, fields := [{ hi := 24, lo := 9, acc := .rw, reset := 0 },
      { hi := 8, lo := 0, acc := .rw, reset := 0 }] }
def F.GRP_MBR_BOOK_HI_entries_m1 : Fld := ⟨R.GRP_MBR_BOOK_HI, 24, 9⟩
def F.GRP_MBR_BOOK_HI_base_hi : Fld := ⟨R.GRP_MBR_BOOK_HI, 8, 0⟩

/-! ### Block `snap` -/

/-- SNP_CTRL (R407). -/
def R.SNP_CTRL : RegDef :=
  { blk := .snap, off := 0, fields := [{ hi := 1, lo := 1, acc := .wo, reset := 0 },
      { hi := 0, lo := 0, acc := .wo, reset := 0 }] }
def F.SNP_CTRL_restore : Fld := ⟨R.SNP_CTRL, 1, 1⟩
def F.SNP_CTRL_now : Fld := ⟨R.SNP_CTRL, 0, 0⟩
/-- SNP_CFG (R407). -/
def R.SNP_CFG : RegDef :=
  { blk := .snap, off := 4, fields := [{ hi := 31, lo := 16, acc := .rw, reset := 0x190 },
      { hi := 9, lo := 8, acc := .rw, reset := 2 },
      { hi := 0, lo := 0, acc := .rw, reset := 0 }] }
def F.SNP_CFG_rate_gbs : Fld := ⟨R.SNP_CFG, 31, 16⟩
def F.SNP_CFG_vc : Fld := ⟨R.SNP_CFG, 9, 8⟩
def F.SNP_CFG_enable : Fld := ⟨R.SNP_CFG, 0, 0⟩
/-- SNP_STATUS (R407). -/
def R.SNP_STATUS : RegDef :=
  { blk := .snap, off := 8, fields := [{ hi := 31, lo := 24, acc := .sq, reset := 0 },
      { hi := 7, lo := 0, acc := .sq, reset := 0 }] }
def F.SNP_STATUS_seq : Fld := ⟨R.SNP_STATUS, 31, 24⟩
def F.SNP_STATUS_code : Fld := ⟨R.SNP_STATUS, 7, 0⟩
/-- SNP_INTERVAL (R407). -/
def R.SNP_INTERVAL : RegDef :=
  { blk := .snap, off := 0xC, fields := [{ hi := 31, lo := 28, acc := .ro, reset := 0 },
      { hi := 27, lo := 24, acc := .rw, reset := 8 },
      { hi := 0, lo := 0, acc := .rw, reset := 0 }] }
def F.SNP_INTERVAL_i_log2 : Fld := ⟨R.SNP_INTERVAL, 31, 28⟩
def F.SNP_INTERVAL_keep_log2 : Fld := ⟨R.SNP_INTERVAL, 27, 24⟩
def F.SNP_INTERVAL_fixed : Fld := ⟨R.SNP_INTERVAL, 0, 0⟩
/-- SNP_MTBF (R407). -/
def R.SNP_MTBF : RegDef :=
  { blk := .snap, off := 0x10, fields := [{ hi := 31, lo := 0, acc := .rw, reset := 0 }] }
def F.SNP_MTBF_m_s : Fld := ⟨R.SNP_MTBF, 31, 0⟩
/-- SNP_COST (R407). -/
def R.SNP_COST : RegDef :=
  { blk := .snap, off := 0x14, fields := [{ hi := 31, lo := 16, acc := .ro, reset := 0 },
      { hi := 15, lo := 0, acc := .rw, reset := 0x3E8 }] }
def F.SNP_COST_c_ms : Fld := ⟨R.SNP_COST, 31, 16⟩
def F.SNP_COST_c_init_ms : Fld := ⟨R.SNP_COST, 15, 0⟩
/-- SNP_LAST (R407). -/
def R.SNP_LAST : RegDef :=
  { blk := .snap, off := 0x18, fields := [{ hi := 31, lo := 0, acc := .ro, reset := 0xFFFFFFFF }] }
def F.SNP_LAST_lap : Fld := ⟨R.SNP_LAST, 31, 0⟩
/-- SNP_FILL (R407). -/
def R.SNP_FILL : RegDef :=
  { blk := .snap, off := 0x1C, fields := [{ hi := 7, lo := 4, acc := .ro, reset := 0 },
      { hi := 3, lo := 0, acc := .ro, reset := 0 }] }
def F.SNP_FILL_queued : Fld := ⟨R.SNP_FILL, 7, 4⟩
def F.SNP_FILL_open : Fld := ⟨R.SNP_FILL, 3, 0⟩
/-- SNP_PLAN_LO (R407). -/
def R.SNP_PLAN_LO : RegDef :=
  { blk := .snap, off := 0x20, fields := [{ hi := 31, lo := 5, acc := .rw, reset := 0 }] }
def F.SNP_PLAN_LO_plan : Fld := ⟨R.SNP_PLAN_LO, 31, 5⟩
/-- SNP_PLAN_HI (R407). -/
def R.SNP_PLAN_HI : RegDef :=
  { blk := .snap, off := 0x24, fields := [{ hi := 8, lo := 0, acc := .rw, reset := 0 }] }
def F.SNP_PLAN_HI_plan_hi : Fld := ⟨R.SNP_PLAN_HI, 8, 0⟩
/-- SNP_VAULT_LO (R407). -/
def R.SNP_VAULT_LO : RegDef :=
  { blk := .snap, off := 0x28, fields := [{ hi := 31, lo := 26, acc := .rw, reset := 0 }] }
def F.SNP_VAULT_LO_base : Fld := ⟨R.SNP_VAULT_LO, 31, 26⟩
/-- SNP_VAULT_HI (R407). -/
def R.SNP_VAULT_HI : RegDef :=
  { blk := .snap, off := 0x2C, fields := [{ hi := 31, lo := 16, acc := .rw, reset := 0 },
      { hi := 8, lo := 0, acc := .rw, reset := 0 }] }
def F.SNP_VAULT_HI_slot_chunks : Fld := ⟨R.SNP_VAULT_HI, 31, 16⟩
def F.SNP_VAULT_HI_base_hi : Fld := ⟨R.SNP_VAULT_HI, 8, 0⟩
/-- SNP_BUDDY0 (R407). -/
def R.SNP_BUDDY0 : RegDef :=
  { blk := .snap, off := 0x30, fields := [{ hi := 31, lo := 31, acc := .rw, reset := 0 },
      { hi := 23, lo := 0, acc := .rw, reset := 0 }] }
def F.SNP_BUDDY0_en : Fld := ⟨R.SNP_BUDDY0, 31, 31⟩
def F.SNP_BUDDY0_bib : Fld := ⟨R.SNP_BUDDY0, 23, 0⟩
/-- SNP_BUDDY1 (R407). -/
def R.SNP_BUDDY1 : RegDef :=
  { blk := .snap, off := 0x34, fields := [{ hi := 31, lo := 31, acc := .rw, reset := 0 },
      { hi := 23, lo := 0, acc := .rw, reset := 0 }] }
def F.SNP_BUDDY1_en : Fld := ⟨R.SNP_BUDDY1, 31, 31⟩
def F.SNP_BUDDY1_bib : Fld := ⟨R.SNP_BUDDY1, 23, 0⟩
/-- SNP_WARD0 (R407). -/
def R.SNP_WARD0 : RegDef :=
  { blk := .snap, off := 0x38, fields := [{ hi := 31, lo := 31, acc := .rw, reset := 0 },
      { hi := 30, lo := 30, acc := .rw, reset := 0 },
      { hi := 23, lo := 0, acc := .rw, reset := 0 }] }
def F.SNP_WARD0_en : Fld := ⟨R.SNP_WARD0, 31, 31⟩
def F.SNP_WARD0_hold : Fld := ⟨R.SNP_WARD0, 30, 30⟩
def F.SNP_WARD0_bib : Fld := ⟨R.SNP_WARD0, 23, 0⟩
/-- SNP_WARD1 (R407). -/
def R.SNP_WARD1 : RegDef :=
  { blk := .snap, off := 0x3C, fields := [{ hi := 31, lo := 31, acc := .rw, reset := 0 },
      { hi := 30, lo := 30, acc := .rw, reset := 0 },
      { hi := 23, lo := 0, acc := .rw, reset := 0 }] }
def F.SNP_WARD1_en : Fld := ⟨R.SNP_WARD1, 31, 31⟩
def F.SNP_WARD1_hold : Fld := ⟨R.SNP_WARD1, 30, 30⟩
def F.SNP_WARD1_bib : Fld := ⟨R.SNP_WARD1, 23, 0⟩
/-- SNP_RESTORE_LO (R407). -/
def R.SNP_RESTORE_LO : RegDef :=
  { blk := .snap, off := 0x40, fields := [{ hi := 31, lo := 6, acc := .rw, reset := 0 }] }
def F.SNP_RESTORE_LO_desc : Fld := ⟨R.SNP_RESTORE_LO, 31, 6⟩
/-- SNP_RESTORE_HI (R407). -/
def R.SNP_RESTORE_HI : RegDef :=
  { blk := .snap, off := 0x44, fields := [{ hi := 8, lo := 0, acc := .rw, reset := 0 }] }
def F.SNP_RESTORE_HI_desc_hi : Fld := ⟨R.SNP_RESTORE_HI, 8, 0⟩

/-! ### Block `pacer` -/

/-- PCR_CTRL (R438). -/
def R.PCR_CTRL : RegDef :=
  { blk := .pacer, off := 0, fields := [{ hi := 0, lo := 0, acc := .wo, reset := 0 }] }
def F.PCR_CTRL_resync : Fld := ⟨R.PCR_CTRL, 0, 0⟩
/-- PCR_STATE (R438). -/
def R.PCR_STATE : RegDef :=
  { blk := .pacer, off := 4, fields := [{ hi := 15, lo := 8, acc := .ro, reset := 0 },
      { hi := 1, lo := 0, acc := .ro, reset := 0 }] }
def F.PCR_STATE_missed_marks : Fld := ⟨R.PCR_STATE, 15, 8⟩
def F.PCR_STATE_lock : Fld := ⟨R.PCR_STATE, 1, 0⟩
/-- PCR_STATUS (R438). -/
def R.PCR_STATUS : RegDef :=
  { blk := .pacer, off := 8, fields := [{ hi := 31, lo := 24, acc := .sq, reset := 0 },
      { hi := 12, lo := 8, acc := .ro, reset := 0 },
      { hi := 7, lo := 0, acc := .sq, reset := 0 }] }
def F.PCR_STATUS_seq : Fld := ⟨R.PCR_STATUS, 31, 24⟩
def F.PCR_STATUS_timer : Fld := ⟨R.PCR_STATUS, 12, 8⟩
def F.PCR_STATUS_code : Fld := ⟨R.PCR_STATUS, 7, 0⟩
/-- PCR_DELAY (R438). -/
def R.PCR_DELAY : RegDef :=
  { blk := .pacer, off := 0xC, fields := [{ hi := 31, lo := 0, acc := .rw, reset := 0 }] }
def F.PCR_DELAY_delay : Fld := ⟨R.PCR_DELAY, 31, 0⟩
/-- PCR_TIME_LO (R438). -/
def R.PCR_TIME_LO : RegDef :=
  { blk := .pacer, off := 0x10, fields := [{ hi := 31, lo := 0, acc := .ro, reset := 0 }] }
def F.PCR_TIME_LO_time : Fld := ⟨R.PCR_TIME_LO, 31, 0⟩
/-- PCR_TIME_HI (R438). -/
def R.PCR_TIME_HI : RegDef :=
  { blk := .pacer, off := 0x14, fields := [{ hi := 31, lo := 0, acc := .ro, reset := 0 }] }
def F.PCR_TIME_HI_time : Fld := ⟨R.PCR_TIME_HI, 31, 0⟩
/-- PCR_TIME_FRAC (R438). -/
def R.PCR_TIME_FRAC : RegDef :=
  { blk := .pacer, off := 0x18, fields := [{ hi := 7, lo := 0, acc := .ro, reset := 0 }] }
def F.PCR_TIME_FRAC_frac : Fld := ⟨R.PCR_TIME_FRAC, 7, 0⟩
/-- PCR_MARK_ERR (R438). -/
def R.PCR_MARK_ERR : RegDef :=
  { blk := .pacer, off := 0x1C, fields := [{ hi := 31, lo := 0, acc := .ro, reset := 0 }] }
def F.PCR_MARK_ERR_err : Fld := ⟨R.PCR_MARK_ERR, 31, 0⟩

/-! ### Block `spt` -/

/-- PCR_SPT_CMP_LO (R438). -/
def R.PCR_SPT_CMP_LO : RegDef :=
  { blk := .spt, off := 0, fields := [{ hi := 31, lo := 0, acc := .rw, reset := 0 }] }
def F.PCR_SPT_CMP_LO_cmp : Fld := ⟨R.PCR_SPT_CMP_LO, 31, 0⟩
/-- PCR_SPT_CMP_HI (R438). -/
def R.PCR_SPT_CMP_HI : RegDef :=
  { blk := .spt, off := 4, fields := [{ hi := 31, lo := 0, acc := .rw, reset := 0 }] }
def F.PCR_SPT_CMP_HI_cmp : Fld := ⟨R.PCR_SPT_CMP_HI, 31, 0⟩
/-- PCR_SPT_PERIOD (R438). -/
def R.PCR_SPT_PERIOD : RegDef :=
  { blk := .spt, off := 8, fields := [{ hi := 31, lo := 0, acc := .rw, reset := 0 }] }
def F.PCR_SPT_PERIOD_period : Fld := ⟨R.PCR_SPT_PERIOD, 31, 0⟩
/-- PCR_SPT_CTRL (R438). -/
def R.PCR_SPT_CTRL : RegDef :=
  { blk := .spt, off := 0xC, fields := [{ hi := 31, lo := 24, acc := .ro, reset := 0 },
      { hi := 7, lo := 4, acc := .rw, reset := 0, resv := [(5, 0xF)] },
      { hi := 2, lo := 2, acc := .rw, reset := 0 },
      { hi := 1, lo := 1, acc := .rw, reset := 0 },
      { hi := 0, lo := 0, acc := .rw, reset := 0 }] }
def F.PCR_SPT_CTRL_missed : Fld := ⟨R.PCR_SPT_CTRL, 31, 24⟩
def F.PCR_SPT_CTRL_target : Fld := ⟨R.PCR_SPT_CTRL, 7, 4⟩
def F.PCR_SPT_CTRL_irq : Fld := ⟨R.PCR_SPT_CTRL, 2, 2⟩
def F.PCR_SPT_CTRL_periodic : Fld := ⟨R.PCR_SPT_CTRL, 1, 1⟩
def F.PCR_SPT_CTRL_arm : Fld := ⟨R.PCR_SPT_CTRL, 0, 0⟩

/-! ### Block `power` -/

/-- PWR_CTRL (R439). -/
def R.PWR_CTRL : RegDef :=
  { blk := .power, off := 0, fields := [{ hi := 2, lo := 2, acc := .rw, reset := 0 },
      { hi := 1, lo := 1, acc := .wo, reset := 0 },
      { hi := 0, lo := 0, acc := .wo, reset := 0 }] }
def F.PWR_CTRL_plan_en : Fld := ⟨R.PWR_CTRL, 2, 2⟩
def F.PWR_CTRL_wake : Fld := ⟨R.PWR_CTRL, 1, 1⟩
def F.PWR_CTRL_blocks : Fld := ⟨R.PWR_CTRL, 0, 0⟩
/-- PWR_STATE (R439). -/
def R.PWR_STATE : RegDef :=
  { blk := .power, off := 4, fields := [{ hi := 17, lo := 16, acc := .ro, reset := 0 },
      { hi := 10, lo := 8, acc := .ro, reset := 0 },
      { hi := 2, lo := 0, acc := .ro, reset := 0 }] }
def F.PWR_STATE_cause : Fld := ⟨R.PWR_STATE, 17, 16⟩
def F.PWR_STATE_stretch : Fld := ⟨R.PWR_STATE, 10, 8⟩
def F.PWR_STATE_state : Fld := ⟨R.PWR_STATE, 2, 0⟩
/-- PWR_STATUS (R439). -/
def R.PWR_STATUS : RegDef :=
  { blk := .power, off := 8, fields := [{ hi := 31, lo := 24, acc := .sq, reset := 0 },
      { hi := 7, lo := 0, acc := .sq, reset := 0 }] }
def F.PWR_STATUS_seq : Fld := ⟨R.PWR_STATUS, 31, 24⟩
def F.PWR_STATUS_code : Fld := ⟨R.PWR_STATUS, 7, 0⟩
/-- PWR_CAP (R439). -/
def R.PWR_CAP : RegDef :=
  { blk := .power, off := 0xC, fields := [{ hi := 23, lo := 16, acc := .rw, reset := 0x14, resv := [(0, 0), (0xC9, 0xFF)] },
      { hi := 8, lo := 0, acc := .rw, reset := 0x1F4, resv := [(0, 0x77), (0x1F5, 0x1FF)] }] }
def F.PWR_CAP_ramp : Fld := ⟨R.PWR_CAP, 23, 16⟩
def F.PWR_CAP_cap_w : Fld := ⟨R.PWR_CAP, 8, 0⟩
/-- PWR_SAG (R439). -/
def R.PWR_SAG : RegDef :=
  { blk := .power, off := 0x10, fields := [{ hi := 24, lo := 16, acc := .rw, reset := 0x1B8, resv := [(0, 0x18F), (0x1F5, 0x1FF)] },
      { hi := 8, lo := 0, acc := .rw, reset := 0xFA, resv := [(0, 0x77), (0x1F5, 0x1FF)] }] }
def F.PWR_SAG_sag_dv : Fld := ⟨R.PWR_SAG, 24, 16⟩
def F.PWR_SAG_sag_cap : Fld := ⟨R.PWR_SAG, 8, 0⟩
/-- PWR_RIDE (R439). -/
def R.PWR_RIDE : RegDef :=
  { blk := .power, off := 0x14, fields := [{ hi := 31, lo := 16, acc := .rw, reset := 0x3E8 },
      { hi := 15, lo := 0, acc := .rw, reset := 0x3E8, resv := [(0xFA1, 0xFFFF)] }] }
def F.PWR_RIDE_recover_us : Fld := ⟨R.PWR_RIDE, 31, 16⟩
def F.PWR_RIDE_ride_us : Fld := ⟨R.PWR_RIDE, 15, 0⟩
/-- PWR_FLOOR (R439). -/
def R.PWR_FLOOR : RegDef :=
  { blk := .power, off := 0x18, fields := [{ hi := 8, lo := 0, acc := .rw, reset := 0, resv := [(1, 0x77), (0x1F5, 0x1FF)] }] }
def F.PWR_FLOOR_floor_w : Fld := ⟨R.PWR_FLOOR, 8, 0⟩
/-- PWR_PHASE (R439). -/
def R.PWR_PHASE : RegDef :=
  { blk := .power, off := 0x1C, fields := [{ hi := 31, lo := 16, acc := .ro, reset := 0 },
      { hi := 3, lo := 0, acc := .rw, reset := 0 }] }
def F.PWR_PHASE_period_us : Fld := ⟨R.PWR_PHASE, 31, 16⟩
def F.PWR_PHASE_slot : Fld := ⟨R.PWR_PHASE, 3, 0⟩
/-- PWR_PLAN_LO (R439). -/
def R.PWR_PLAN_LO : RegDef :=
  { blk := .power, off := 0x20, fields := [{ hi := 31, lo := 7, acc := .rw, reset := 0 }] }
def F.PWR_PLAN_LO_plan : Fld := ⟨R.PWR_PLAN_LO, 31, 7⟩
/-- PWR_PLAN_HI (R439). -/
def R.PWR_PLAN_HI : RegDef :=
  { blk := .power, off := 0x24, fields := [{ hi := 8, lo := 0, acc := .rw, reset := 0 }] }
def F.PWR_PLAN_HI_plan_hi : Fld := ⟨R.PWR_PLAN_HI, 8, 0⟩
/-- PWR_MEAS (R439). -/
def R.PWR_MEAS : RegDef :=
  { blk := .power, off := 0x28, fields := [{ hi := 31, lo := 16, acc := .ro, reset := 0 },
      { hi := 15, lo := 0, acc := .ro, reset := 0 }] }
def F.PWR_MEAS_bus_mv : Fld := ⟨R.PWR_MEAS, 31, 16⟩
def F.PWR_MEAS_power_w : Fld := ⟨R.PWR_MEAS, 15, 0⟩
/-- PWR_RIPPLE (R439). -/
def R.PWR_RIPPLE : RegDef :=
  { blk := .power, off := 0x2C, fields := [{ hi := 31, lo := 16, acc := .ro, reset := 0 },
      { hi := 15, lo := 0, acc := .rw, reset := 0x3E8 }] }
def F.PWR_RIPPLE_ripple_mv : Fld := ⟨R.PWR_RIPPLE, 31, 16⟩
def F.PWR_RIPPLE_ripple_lim_mv : Fld := ⟨R.PWR_RIPPLE, 15, 0⟩
/-- PWR_THERM (R439). -/
def R.PWR_THERM : RegDef :=
  { blk := .power, off := 0x30, fields := [{ hi := 31, lo := 24, acc := .ro, reset := 0 },
      { hi := 15, lo := 8, acc := .rw, reset := 0x5F, resv := [(0, 0x45), (0x6A, 0xFF)] }] }
def F.PWR_THERM_t_max : Fld := ⟨R.PWR_THERM, 31, 24⟩
def F.PWR_THERM_t_throttle : Fld := ⟨R.PWR_THERM, 15, 8⟩
/-- PWR_EVENTS (R439). -/
def R.PWR_EVENTS : RegDef :=
  { blk := .power, off := 0x34, fields := [{ hi := 31, lo := 24, acc := .ro, reset := 0 },
      { hi := 23, lo := 16, acc := .ro, reset := 0 },
      { hi := 15, lo := 8, acc := .ro, reset := 0 },
      { hi := 7, lo := 0, acc := .ro, reset := 0 }] }
def F.PWR_EVENTS_sags : Fld := ⟨R.PWR_EVENTS, 31, 24⟩
def F.PWR_EVENTS_rides : Fld := ⟨R.PWR_EVENTS, 23, 16⟩
def F.PWR_EVENTS_blocks : Fld := ⟨R.PWR_EVENTS, 15, 8⟩
def F.PWR_EVENTS_exempt : Fld := ⟨R.PWR_EVENTS, 7, 0⟩

/-! ### Block `images` -/

/-- IMG_CTRL (R458). -/
def R.IMG_CTRL : RegDef :=
  { blk := .images, off := 0, fields := [{ hi := 2, lo := 2, acc := .wo, reset := 0 },
      { hi := 1, lo := 1, acc := .wo, reset := 0 },
      { hi := 0, lo := 0, acc := .wo, reset := 0 }] }
def F.IMG_CTRL_discard : Fld := ⟨R.IMG_CTRL, 2, 2⟩
def F.IMG_CTRL_apply : Fld := ⟨R.IMG_CTRL, 1, 1⟩
def F.IMG_CTRL_load : Fld := ⟨R.IMG_CTRL, 0, 0⟩
/-- IMG_SRC_LO (R458). -/
def R.IMG_SRC_LO : RegDef :=
  { blk := .images, off := 4, fields := [{ hi := 31, lo := 6, acc := .rw, reset := 0 }] }
def F.IMG_SRC_LO_src : Fld := ⟨R.IMG_SRC_LO, 31, 6⟩
/-- IMG_SRC_HI (R458). -/
def R.IMG_SRC_HI : RegDef :=
  { blk := .images, off := 8, fields := [{ hi := 8, lo := 0, acc := .rw, reset := 0 }] }
def F.IMG_SRC_HI_src_hi : Fld := ⟨R.IMG_SRC_HI, 8, 0⟩
/-- IMG_STATE (R458). -/
def R.IMG_STATE : RegDef :=
  { blk := .images, off := 0xC, fields := [{ hi := 21, lo := 20, acc := .ro, reset := 0 },
      { hi := 18, lo := 16, acc := .ro, reset := 0 },
      { hi := 11, lo := 0, acc := .ro, reset := 0 }] }
def F.IMG_STATE_scope : Fld := ⟨R.IMG_STATE, 21, 20⟩
def F.IMG_STATE_state : Fld := ⟨R.IMG_STATE, 18, 16⟩
def F.IMG_STATE_section : Fld := ⟨R.IMG_STATE, 11, 0⟩
/-- IMG_STATUS (R458). -/
def R.IMG_STATUS : RegDef :=
  { blk := .images, off := 0x10, fields := [{ hi := 31, lo := 24, acc := .sq, reset := 0 },
      { hi := 23, lo := 8, acc := .ro, reset := 0 },
      { hi := 7, lo := 0, acc := .sq, reset := 0 }] }
def F.IMG_STATUS_seq : Fld := ⟨R.IMG_STATUS, 31, 24⟩
def F.IMG_STATUS_index : Fld := ⟨R.IMG_STATUS, 23, 8⟩
def F.IMG_STATUS_code : Fld := ⟨R.IMG_STATUS, 7, 0⟩
/-- IMG_STORE_LO (R458). -/
def R.IMG_STORE_LO : RegDef :=
  { blk := .images, off := 0x14, fields := [{ hi := 31, lo := 20, acc := .rw, reset := 0 }] }
def F.IMG_STORE_LO_base : Fld := ⟨R.IMG_STORE_LO, 31, 20⟩
/-- IMG_STORE_HI (R458). -/
def R.IMG_STORE_HI : RegDef :=
  { blk := .images, off := 0x18, fields := [{ hi := 31, lo := 24, acc := .rw, reset := 0, resv := [(0x81, 0xFF)] },
      { hi := 8, lo := 0, acc := .rw, reset := 0 }] }
def F.IMG_STORE_HI_size_gib : Fld := ⟨R.IMG_STORE_HI, 31, 24⟩
def F.IMG_STORE_HI_base_hi : Fld := ⟨R.IMG_STORE_HI, 8, 0⟩
/-- IMG_ID_LO (R458). -/
def R.IMG_ID_LO : RegDef :=
  { blk := .images, off := 0x1C, fields := [{ hi := 31, lo := 0, acc := .ro, reset := 0 }] }
def F.IMG_ID_LO_image_id : Fld := ⟨R.IMG_ID_LO, 31, 0⟩
/-- IMG_ID_HI (R458). -/
def R.IMG_ID_HI : RegDef :=
  { blk := .images, off := 0x20, fields := [{ hi := 31, lo := 0, acc := .ro, reset := 0 }] }
def F.IMG_ID_HI_image_id : Fld := ⟨R.IMG_ID_HI, 31, 0⟩

/-! ### Block `intSrc` -/

/-- HUB_INT_SRC (R544). -/
def R.HUB_INT_SRC : RegDef :=
  { blk := .intSrc, off := 0, fields := [{ hi := 19, lo := 14, acc := .rw, reset := 0 },
      { hi := 11, lo := 8, acc := .rw, reset := 0, resv := [(9, 0xF)] },
      { hi := 4, lo := 0, acc := .rw, reset := 0 }] }
def F.HUB_INT_SRC_vector : Fld := ⟨R.HUB_INT_SRC, 19, 14⟩
def F.HUB_INT_SRC_target : Fld := ⟨R.HUB_INT_SRC, 11, 8⟩
def F.HUB_INT_SRC_prio : Fld := ⟨R.HUB_INT_SRC, 4, 0⟩

/-! ### Block `intPend` -/

/-- HUB_INT_PEND (R544). -/
def R.HUB_INT_PEND : RegDef :=
  { blk := .intPend, off := 0, fields := [{ hi := 31, lo := 0, acc := .rw, reset := 0 }] }
def F.HUB_INT_PEND_pend : Fld := ⟨R.HUB_INT_PEND, 31, 0⟩

/-! ### Block `intMask` -/

/-- HUB_INT_MASK (R544). -/
def R.HUB_INT_MASK : RegDef :=
  { blk := .intMask, off := 0, fields := [{ hi := 31, lo := 0, acc := .rw, reset := 0 }] }
def F.HUB_INT_MASK_mask : Fld := ⟨R.HUB_INT_MASK, 31, 0⟩

/-! ### Block `intTgt` -/

/-- HUB_INT_THRESH (R544). -/
def R.HUB_INT_THRESH : RegDef :=
  { blk := .intTgt, off := 0, fields := [{ hi := 4, lo := 0, acc := .rw, reset := 0 }] }
def F.HUB_INT_THRESH_thresh : Fld := ⟨R.HUB_INT_THRESH, 4, 0⟩
/-- HUB_INT_CLAIM (R544). -/
def R.HUB_INT_CLAIM : RegDef :=
  { blk := .intTgt, off := 4, fields := [{ hi := 31, lo := 31, acc := .ro, reset := 0 },
      { hi := 11, lo := 0, acc := .ro, reset := 0 }] }
def F.HUB_INT_CLAIM_valid : Fld := ⟨R.HUB_INT_CLAIM, 31, 31⟩
def F.HUB_INT_CLAIM_source : Fld := ⟨R.HUB_INT_CLAIM, 11, 0⟩
/-- HUB_INT_COMPLETE (R544). -/
def R.HUB_INT_COMPLETE : RegDef :=
  { blk := .intTgt, off := 8, fields := [{ hi := 11, lo := 0, acc := .wo, reset := 0 }] }
def F.HUB_INT_COMPLETE_source : Fld := ⟨R.HUB_INT_COMPLETE, 11, 0⟩
/-- HUB_INT_RUNNING (R544). -/
def R.HUB_INT_RUNNING : RegDef :=
  { blk := .intTgt, off := 0xC, fields := [{ hi := 28, lo := 24, acc := .ro, reset := 0 },
      { hi := 23, lo := 12, acc := .ro, reset := 0 },
      { hi := 4, lo := 0, acc := .ro, reset := 0 }] }
def F.HUB_INT_RUNNING_depth : Fld := ⟨R.HUB_INT_RUNNING, 28, 24⟩
def F.HUB_INT_RUNNING_top : Fld := ⟨R.HUB_INT_RUNNING, 23, 12⟩
def F.HUB_INT_RUNNING_prio : Fld := ⟨R.HUB_INT_RUNNING, 4, 0⟩

/-! ### Block `intCfg` -/

/-- HUB_INT_CFG (R544). -/
def R.HUB_INT_CFG : RegDef :=
  { blk := .intCfg, off := 0, fields := [{ hi := 0, lo := 0, acc := .st 5, reset := 0 }] }
def F.HUB_INT_CFG_mode : Fld := ⟨R.HUB_INT_CFG, 0, 0⟩
/-- HUB_INT_STATUS (R544). -/
def R.HUB_INT_STATUS : RegDef :=
  { blk := .intCfg, off := 4, fields := [{ hi := 31, lo := 24, acc := .sq, reset := 0 },
      { hi := 23, lo := 20, acc := .ro, reset := 0 },
      { hi := 19, lo := 8, acc := .ro, reset := 0 },
      { hi := 7, lo := 0, acc := .sq, reset := 0 }] }
def F.HUB_INT_STATUS_seq : Fld := ⟨R.HUB_INT_STATUS, 31, 24⟩
def F.HUB_INT_STATUS_target : Fld := ⟨R.HUB_INT_STATUS, 23, 20⟩
def F.HUB_INT_STATUS_source : Fld := ⟨R.HUB_INT_STATUS, 19, 8⟩
def F.HUB_INT_STATUS_code : Fld := ⟨R.HUB_INT_STATUS, 7, 0⟩

/-! ### Block `xzSum` -/

/-- HUB_XZ_SUM (R534). -/
def R.HUB_XZ_SUM : RegDef :=
  { blk := .xzSum, off := 0, fields := [{ hi := 20, lo := 17, acc := .ro, reset := 0 },
      { hi := 16, lo := 0, acc := .ro, reset := 0 }] }
def F.HUB_XZ_SUM_hubs : Fld := ⟨R.HUB_XZ_SUM, 20, 17⟩
def F.HUB_XZ_SUM_dies : Fld := ⟨R.HUB_XZ_SUM, 16, 0⟩

/-! ### Block `hub` -/

/-- HUB_XZ_STATUS (R534). -/
def R.HUB_XZ_STATUS : RegDef :=
  { blk := .hub, off := 0, fields := [{ hi := 31, lo := 24, acc := .sq, reset := 0 },
      { hi := 16, lo := 16, acc := .sq, reset := 0 },
      { hi := 7, lo := 0, acc := .sq, reset := 0 }] }
def F.HUB_XZ_STATUS_seq : Fld := ⟨R.HUB_XZ_STATUS, 31, 24⟩
def F.HUB_XZ_STATUS_flushed : Fld := ⟨R.HUB_XZ_STATUS, 16, 16⟩
def F.HUB_XZ_STATUS_zones : Fld := ⟨R.HUB_XZ_STATUS, 7, 0⟩

/-! ### Block `hub0` -/

/-- HUB_HOST_READY (R568). -/
def R.HUB_HOST_READY : RegDef :=
  { blk := .hub0, off := 0x20, fields := [{ hi := 15, lo := 8, acc := .ro, reset := 0 },
      { hi := 7, lo := 7, acc := .ro, reset := 0 },
      { hi := 6, lo := 6, acc := .ro, reset := 0 },
      { hi := 5, lo := 5, acc := .ro, reset := 0 },
      { hi := 4, lo := 4, acc := .ro, reset := 0 },
      { hi := 3, lo := 3, acc := .ro, reset := 0 },
      { hi := 2, lo := 2, acc := .ro, reset := 0 },
      { hi := 1, lo := 1, acc := .ro, reset := 0 },
      { hi := 0, lo := 0, acc := .ro, reset := 1 }] }
def F.HUB_HOST_READY_stage : Fld := ⟨R.HUB_HOST_READY, 15, 8⟩
def F.HUB_HOST_READY_module : Fld := ⟨R.HUB_HOST_READY, 7, 7⟩
def F.HUB_HOST_READY_site_time : Fld := ⟨R.HUB_HOST_READY, 6, 6⟩
def F.HUB_HOST_READY_links : Fld := ⟨R.HUB_HOST_READY, 5, 5⟩
def F.HUB_HOST_READY_dies : Fld := ⟨R.HUB_HOST_READY, 4, 4⟩
def F.HUB_HOST_READY_hbm : Fld := ⟨R.HUB_HOST_READY, 3, 3⟩
def F.HUB_HOST_READY_stewards : Fld := ⟨R.HUB_HOST_READY, 2, 2⟩
def F.HUB_HOST_READY_judge : Fld := ⟨R.HUB_HOST_READY, 1, 1⟩
def F.HUB_HOST_READY_endpoint : Fld := ⟨R.HUB_HOST_READY, 0, 0⟩
/-- HUB_PCI_STATUS (R568). -/
def R.HUB_PCI_STATUS : RegDef :=
  { blk := .hub0, off := 0x24, fields := [{ hi := 31, lo := 24, acc := .sq, reset := 0 },
      { hi := 23, lo := 20, acc := .ro, reset := 0 },
      { hi := 19, lo := 16, acc := .ro, reset := 0 },
      { hi := 7, lo := 0, acc := .sq, reset := 0 }] }
def F.HUB_PCI_STATUS_seq : Fld := ⟨R.HUB_PCI_STATUS, 31, 24⟩
def F.HUB_PCI_STATUS_width : Fld := ⟨R.HUB_PCI_STATUS, 23, 20⟩
def F.HUB_PCI_STATUS_rate : Fld := ⟨R.HUB_PCI_STATUS, 19, 16⟩
def F.HUB_PCI_STATUS_code : Fld := ⟨R.HUB_PCI_STATUS, 7, 0⟩
/-- HUB_PCI_B2 (R568). -/
def R.HUB_PCI_B2 : RegDef :=
  { blk := .hub0, off := 0x28, fields := [{ hi := 10, lo := 0, acc := .rw, reset := 0 }] }
def F.HUB_PCI_B2_b2_base : Fld := ⟨R.HUB_PCI_B2, 10, 0⟩
/-- HUB_ORD_BASE_LO (R568). -/
def R.HUB_ORD_BASE_LO : RegDef :=
  { blk := .hub0, off := 0x40, fields := [{ hi := 31, lo := 26, acc := .rw, reset := 0 }] }
def F.HUB_ORD_BASE_LO_base : Fld := ⟨R.HUB_ORD_BASE_LO, 31, 26⟩
/-- HUB_ORD_BASE_HI (R568). -/
def R.HUB_ORD_BASE_HI : RegDef :=
  { blk := .hub0, off := 0x44, fields := [{ hi := 31, lo := 31, acc := .rw, reset := 0 },
      { hi := 8, lo := 0, acc := .rw, reset := 0 }] }
def F.HUB_ORD_BASE_HI_en : Fld := ⟨R.HUB_ORD_BASE_HI, 31, 31⟩
def F.HUB_ORD_BASE_HI_base_hi : Fld := ⟨R.HUB_ORD_BASE_HI, 8, 0⟩
/-- HUB_ORD_TAIL (R568). -/
def R.HUB_ORD_TAIL : RegDef :=
  { blk := .hub0, off := 0x48, fields := [{ hi := 31, lo := 0, acc := .rw, reset := 0 }] }
def F.HUB_ORD_TAIL_tail : Fld := ⟨R.HUB_ORD_TAIL, 31, 0⟩
/-- HUB_ORD_HEAD (R568). -/
def R.HUB_ORD_HEAD : RegDef :=
  { blk := .hub0, off := 0x4C, fields := [{ hi := 31, lo := 0, acc := .ro, reset := 0 }] }
def F.HUB_ORD_HEAD_head : Fld := ⟨R.HUB_ORD_HEAD, 31, 0⟩
/-- HUB_ORD_CFG (R568). -/
def R.HUB_ORD_CFG : RegDef :=
  { blk := .hub0, off := 0x50, fields := [{ hi := 7, lo := 0, acc := .rw, reset := 0x40, resv := [(0, 0)] }] }
def F.HUB_ORD_CFG_batch : Fld := ⟨R.HUB_ORD_CFG, 7, 0⟩
/-- HUB_ORD_STATUS (R568). -/
def R.HUB_ORD_STATUS : RegDef :=
  { blk := .hub0, off := 0x54, fields := [{ hi := 31, lo := 24, acc := .sq, reset := 0 },
      { hi := 7, lo := 0, acc := .sq, reset := 0 }] }
def F.HUB_ORD_STATUS_seq : Fld := ⟨R.HUB_ORD_STATUS, 31, 24⟩
def F.HUB_ORD_STATUS_code : Fld := ⟨R.HUB_ORD_STATUS, 7, 0⟩
/-- HUB_CMP_BASE_LO (R568). -/
def R.HUB_CMP_BASE_LO : RegDef :=
  { blk := .hub0, off := 0x58, fields := [{ hi := 31, lo := 12, acc := .rw, reset := 0 }] }
def F.HUB_CMP_BASE_LO_base : Fld := ⟨R.HUB_CMP_BASE_LO, 31, 12⟩
/-- HUB_CMP_BASE_HI (R568). -/
def R.HUB_CMP_BASE_HI : RegDef :=
  { blk := .hub0, off := 0x5C, fields := [{ hi := 31, lo := 31, acc := .rw, reset := 0 },
      { hi := 20, lo := 16, acc := .rw, reset := 0xC, resv := [(0, 7), (0x15, 0x1F)] },
      { hi := 8, lo := 0, acc := .rw, reset := 0 }] }
def F.HUB_CMP_BASE_HI_en : Fld := ⟨R.HUB_CMP_BASE_HI, 31, 31⟩
def F.HUB_CMP_BASE_HI_size_log2 : Fld := ⟨R.HUB_CMP_BASE_HI, 20, 16⟩
def F.HUB_CMP_BASE_HI_base_hi : Fld := ⟨R.HUB_CMP_BASE_HI, 8, 0⟩
/-- HUB_CMP_HEAD (R568). -/
def R.HUB_CMP_HEAD : RegDef :=
  { blk := .hub0, off := 0x60, fields := [{ hi := 31, lo := 0, acc := .ro, reset := 0 }] }
def F.HUB_CMP_HEAD_cmp_head : Fld := ⟨R.HUB_CMP_HEAD, 31, 0⟩
/-- HUB_CMP_TAIL (R568). -/
def R.HUB_CMP_TAIL : RegDef :=
  { blk := .hub0, off := 0x64, fields := [{ hi := 31, lo := 0, acc := .rw, reset := 0 }] }
def F.HUB_CMP_TAIL_cmp_tail : Fld := ⟨R.HUB_CMP_TAIL, 31, 0⟩
/-- HUB_RST_CTRL (R579). -/
def R.HUB_RST_CTRL : RegDef :=
  { blk := .hub0, off := 0x70, fields := [{ hi := 31, lo := 16, acc := .wo, reset := 0 },
      { hi := 0, lo := 0, acc := .wo, reset := 0 }] }
def F.HUB_RST_CTRL_key : Fld := ⟨R.HUB_RST_CTRL, 31, 16⟩
def F.HUB_RST_CTRL_module : Fld := ⟨R.HUB_RST_CTRL, 0, 0⟩
/-- HUB_RST_CAUSE (R579). -/
def R.HUB_RST_CAUSE : RegDef :=
  { blk := .hub0, off := 0x74, fields := [{ hi := 31, lo := 16, acc := .ro, reset := 0 },
      { hi := 2, lo := 0, acc := .ro, reset := 4 }] }
def F.HUB_RST_CAUSE_resets : Fld := ⟨R.HUB_RST_CAUSE, 31, 16⟩
def F.HUB_RST_CAUSE_cause : Fld := ⟨R.HUB_RST_CAUSE, 2, 0⟩

/-! ### Block `hbm` -/

/-- HUB_HBM_CTRL (R292). -/
def R.HUB_HBM_CTRL : RegDef :=
  { blk := .hbm, off := 0, fields := [{ hi := 16, lo := 16, acc := .wo, reset := 0 },
      { hi := 12, lo := 8, acc := .rw, reset := 0 },
      { hi := 7, lo := 0, acc := .rw, reset := 0x40, resv := [(0, 0)] }] }
def F.HUB_HBM_CTRL_recal_now : Fld := ⟨R.HUB_HBM_CTRL, 16, 16⟩
def F.HUB_HBM_CTRL_chan : Fld := ⟨R.HUB_HBM_CTRL, 12, 8⟩
def F.HUB_HBM_CTRL_interval_ms : Fld := ⟨R.HUB_HBM_CTRL, 7, 0⟩
/-- HUB_HBM_STATUS (R292). -/
def R.HUB_HBM_STATUS : RegDef :=
  { blk := .hbm, off := 4, fields := [{ hi := 31, lo := 24, acc := .sq, reset := 0 },
      { hi := 12, lo := 8, acc := .ro, reset := 0 },
      { hi := 7, lo := 0, acc := .sq, reset := 0 }] }
def F.HUB_HBM_STATUS_seq : Fld := ⟨R.HUB_HBM_STATUS, 31, 24⟩
def F.HUB_HBM_STATUS_chan : Fld := ⟨R.HUB_HBM_STATUS, 12, 8⟩
def F.HUB_HBM_STATUS_code : Fld := ⟨R.HUB_HBM_STATUS, 7, 0⟩
/-- HUB_HBM_ECC_CNT (R292). -/
def R.HUB_HBM_ECC_CNT : RegDef :=
  { blk := .hbm, off := 8, fields := [{ hi := 31, lo := 24, acc := .ro, reset := 0 },
      { hi := 23, lo := 16, acc := .ro, reset := 0 },
      { hi := 15, lo := 0, acc := .ro, reset := 0 }] }
def F.HUB_HBM_ECC_CNT_lasting : Fld := ⟨R.HUB_HBM_ECC_CNT, 31, 24⟩
def F.HUB_HBM_ECC_CNT_transient : Fld := ⟨R.HUB_HBM_ECC_CNT, 23, 16⟩
def F.HUB_HBM_ECC_CNT_corrected : Fld := ⟨R.HUB_HBM_ECC_CNT, 15, 0⟩
/-- HUB_HBM_ERR_ADDR_LO (R292). -/
def R.HUB_HBM_ERR_ADDR_LO : RegDef :=
  { blk := .hbm, off := 0xC, fields := [{ hi := 31, lo := 6, acc := .ro, reset := 0 }] }
def F.HUB_HBM_ERR_ADDR_LO_addr : Fld := ⟨R.HUB_HBM_ERR_ADDR_LO, 31, 6⟩
/-- HUB_HBM_ERR_ADDR_HI (R292). -/
def R.HUB_HBM_ERR_ADDR_HI : RegDef :=
  { blk := .hbm, off := 0x10, fields := [{ hi := 8, lo := 0, acc := .ro, reset := 0 }] }
def F.HUB_HBM_ERR_ADDR_HI_addr_hi : Fld := ⟨R.HUB_HBM_ERR_ADDR_HI, 8, 0⟩

/-! ### Block `fault` -/

/-- HUB_FLT_CMD (R380). -/
def R.HUB_FLT_CMD : RegDef :=
  { blk := .fault, off := 0, fields := [{ hi := 31, lo := 28, acc := .wo, reset := 0 },
      { hi := 27, lo := 24, acc := .wo, reset := 0 },
      { hi := 23, lo := 0, acc := .wo, reset := 0 }] }
def F.HUB_FLT_CMD_cmd : Fld := ⟨R.HUB_FLT_CMD, 31, 28⟩
def F.HUB_FLT_CMD_kind : Fld := ⟨R.HUB_FLT_CMD, 27, 24⟩
def F.HUB_FLT_CMD_unit : Fld := ⟨R.HUB_FLT_CMD, 23, 0⟩
/-- HUB_FLT_STATUS (R380). -/
def R.HUB_FLT_STATUS : RegDef :=
  { blk := .fault, off := 4, fields := [{ hi := 31, lo := 24, acc := .sq, reset := 0 },
      { hi := 11, lo := 8, acc := .ro, reset := 0 },
      { hi := 7, lo := 0, acc := .sq, reset := 0 }] }
def F.HUB_FLT_STATUS_seq : Fld := ⟨R.HUB_FLT_STATUS, 31, 24⟩
def F.HUB_FLT_STATUS_kind : Fld := ⟨R.HUB_FLT_STATUS, 11, 8⟩
def F.HUB_FLT_STATUS_code : Fld := ⟨R.HUB_FLT_STATUS, 7, 0⟩
/-- HUB_FLT_UNIT (R380). -/
def R.HUB_FLT_UNIT : RegDef :=
  { blk := .fault, off := 8, fields := [{ hi := 23, lo := 0, acc := .ro, reset := 0 }] }
def F.HUB_FLT_UNIT_unit : Fld := ⟨R.HUB_FLT_UNIT, 23, 0⟩
/-- HUB_FLT_SEL (R380). -/
def R.HUB_FLT_SEL : RegDef :=
  { blk := .fault, off := 0xC, fields := [{ hi := 23, lo := 6, acc := .rw, reset := 0 }] }
def F.HUB_FLT_SEL_unit : Fld := ⟨R.HUB_FLT_SEL, 23, 6⟩
/-- HUB_FLT_SPARES (R380). -/
def R.HUB_FLT_SPARES : RegDef :=
  { blk := .fault, off := 0x10, fields := [{ hi := 31, lo := 31, acc := .ro, reset := 1 },
      { hi := 30, lo := 30, acc := .ro, reset := 0 },
      { hi := 26, lo := 24, acc := .ro, reset := 0 },
      { hi := 21, lo := 20, acc := .ro, reset := 0 },
      { hi := 16, lo := 16, acc := .ro, reset := 0 },
      { hi := 15, lo := 0, acc := .ro, reset := 0 }] }
def F.HUB_FLT_SPARES_alt_avail : Fld := ⟨R.HUB_FLT_SPARES, 31, 31⟩
def F.HUB_FLT_SPARES_degraded : Fld := ⟨R.HUB_FLT_SPARES, 30, 30⟩
def F.HUB_FLT_SPARES_clusters : Fld := ⟨R.HUB_FLT_SPARES, 26, 24⟩
def F.HUB_FLT_SPARES_cores : Fld := ⟨R.HUB_FLT_SPARES, 21, 20⟩
def F.HUB_FLT_SPARES_column : Fld := ⟨R.HUB_FLT_SPARES, 16, 16⟩
def F.HUB_FLT_SPARES_gen : Fld := ⟨R.HUB_FLT_SPARES, 15, 0⟩
/-- HUB_FLT_TEST (R380). -/
def R.HUB_FLT_TEST : RegDef :=
  { blk := .fault, off := 0x14, fields := [{ hi := 15, lo := 0, acc := .rw, reset := 0x3E8 }] }
def F.HUB_FLT_TEST_test_laps : Fld := ⟨R.HUB_FLT_TEST, 15, 0⟩
/-- HUB_FW_CTRL (R380). -/
def R.HUB_FW_CTRL : RegDef :=
  { blk := .fault, off := 0x18, fields := [{ hi := 0, lo := 0, acc := .wo, reset := 0 }] }
def F.HUB_FW_CTRL_switch : Fld := ⟨R.HUB_FW_CTRL, 0, 0⟩
/-- HUB_FW_STATUS (R380). -/
def R.HUB_FW_STATUS : RegDef :=
  { blk := .fault, off := 0x1C, fields := [{ hi := 2, lo := 2, acc := .ro, reset := 0 },
      { hi := 1, lo := 1, acc := .ro, reset := 0 },
      { hi := 0, lo := 0, acc := .ro, reset := 0 }] }
def F.HUB_FW_STATUS_fallback : Fld := ⟨R.HUB_FW_STATUS, 2, 2⟩
def F.HUB_FW_STATUS_pending : Fld := ⟨R.HUB_FW_STATUS, 1, 1⟩
def F.HUB_FW_STATUS_active : Fld := ⟨R.HUB_FW_STATUS, 0, 0⟩
/-- HUB_FLT_LOG_HEAD (R380). -/
def R.HUB_FLT_LOG_HEAD : RegDef :=
  { blk := .fault, off := 0x20, fields := [{ hi := 22, lo := 0, acc := .ro, reset := 0 }] }
def F.HUB_FLT_LOG_HEAD_head : Fld := ⟨R.HUB_FLT_LOG_HEAD, 22, 0⟩

/-! ### Block `link` -/

/-- RLY_CTRL (R326). -/
def R.RLY_CTRL : RegDef :=
  { blk := .link, off := 0, fields := [{ hi := 31, lo := 24, acc := .rw, reset := 0x3C },
      { hi := 23, lo := 16, acc := .rw, reset := 0x14, resv := [(0, 0)] },
      { hi := 15, lo := 8, acc := .rw, reset := 0x64 },
      { hi := 7, lo := 5, acc := .rw, reset := 0, resv := [(5, 7)] },
      { hi := 4, lo := 4, acc := .wo, reset := 0 },
      { hi := 2, lo := 2, acc := .wo, reset := 0 },
      { hi := 1, lo := 1, acc := .rw, reset := 1 },
      { hi := 0, lo := 0, acc := .rw, reset := 0 }] }
def F.RLY_CTRL_retrain_s : Fld := ⟨R.RLY_CTRL, 31, 24⟩
def F.RLY_CTRL_hb_us : Fld := ⟨R.RLY_CTRL, 23, 16⟩
def F.RLY_CTRL_time_ms : Fld := ⟨R.RLY_CTRL, 15, 8⟩
def F.RLY_CTRL_swap_lane : Fld := ⟨R.RLY_CTRL, 7, 5⟩
def F.RLY_CTRL_swap_now : Fld := ⟨R.RLY_CTRL, 4, 4⟩
def F.RLY_CTRL_retire : Fld := ⟨R.RLY_CTRL, 2, 2⟩
def F.RLY_CTRL_freeze_fwd : Fld := ⟨R.RLY_CTRL, 1, 1⟩
def F.RLY_CTRL_enable : Fld := ⟨R.RLY_CTRL, 0, 0⟩
/-- RLY_STATE (R326). -/
def R.RLY_STATE : RegDef :=
  { blk := .link, off := 4, fields := [{ hi := 17, lo := 17, acc := .ro, reset := 0 },
      { hi := 16, lo := 16, acc := .ro, reset := 0 },
      { hi := 14, lo := 12, acc := .ro, reset := 4 },
      { hi := 10, lo := 8, acc := .ro, reset := 4 },
      { hi := 2, lo := 0, acc := .ro, reset := 0 }] }
def F.RLY_STATE_rx_spare_avail : Fld := ⟨R.RLY_STATE, 17, 17⟩
def F.RLY_STATE_tx_spare_avail : Fld := ⟨R.RLY_STATE, 16, 16⟩
def F.RLY_STATE_rx_spare : Fld := ⟨R.RLY_STATE, 14, 12⟩
def F.RLY_STATE_tx_spare : Fld := ⟨R.RLY_STATE, 10, 8⟩
def F.RLY_STATE_state : Fld := ⟨R.RLY_STATE, 2, 0⟩
/-- RLY_STATUS (R326). -/
def R.RLY_STATUS : RegDef :=
  { blk := .link, off := 8, fields := [{ hi := 31, lo := 24, acc := .sq, reset := 0 },
      { hi := 7, lo := 0, acc := .sq, reset := 0 }] }
def F.RLY_STATUS_seq : Fld := ⟨R.RLY_STATUS, 31, 24⟩
def F.RLY_STATUS_code : Fld := ⟨R.RLY_STATUS, 7, 0⟩
/-- RLY_ERR_CNT (R326). -/
def R.RLY_ERR_CNT : RegDef :=
  { blk := .link, off := 0xC, fields := [{ hi := 31, lo := 28, acc := .ro, reset := 0 },
      { hi := 27, lo := 16, acc := .ro, reset := 0 },
      { hi := 15, lo := 0, acc := .ro, reset := 0 }] }
def F.RLY_ERR_CNT_lasting : Fld := ⟨R.RLY_ERR_CNT, 31, 28⟩
def F.RLY_ERR_CNT_retry : Fld := ⟨R.RLY_ERR_CNT, 27, 16⟩
def F.RLY_ERR_CNT_fec_corr : Fld := ⟨R.RLY_ERR_CNT, 15, 0⟩
/-- RLY_PEER (R326). -/
def R.RLY_PEER : RegDef :=
  { blk := .link, off := 0x10, fields := [{ hi := 29, lo := 24, acc := .ro, reset := 0 },
      { hi := 23, lo := 0, acc := .ro, reset := 0 }] }
def F.RLY_PEER_link : Fld := ⟨R.RLY_PEER, 29, 24⟩
def F.RLY_PEER_bib : Fld := ⟨R.RLY_PEER, 23, 0⟩
/-- RLY_PEER_EXPECT (R326). -/
def R.RLY_PEER_EXPECT : RegDef :=
  { blk := .link, off := 0x14, fields := [{ hi := 31, lo := 31, acc := .rw, reset := 1 },
      { hi := 29, lo := 24, acc := .rw, reset := 0 },
      { hi := 23, lo := 0, acc := .rw, reset := 0 }] }
def F.RLY_PEER_EXPECT_any : Fld := ⟨R.RLY_PEER_EXPECT, 31, 31⟩
def F.RLY_PEER_EXPECT_link : Fld := ⟨R.RLY_PEER_EXPECT, 29, 24⟩
def F.RLY_PEER_EXPECT_bib : Fld := ⟨R.RLY_PEER_EXPECT, 23, 0⟩
/-- RLY_RTT (R326). -/
def R.RLY_RTT : RegDef :=
  { blk := .link, off := 0x18, fields := [{ hi := 31, lo := 16, acc := .ro, reset := 0 },
      { hi := 15, lo := 0, acc := .ro, reset := 0 }] }
def F.RLY_RTT_rtt_last : Fld := ⟨R.RLY_RTT, 31, 16⟩
def F.RLY_RTT_rtt_ns : Fld := ⟨R.RLY_RTT, 15, 0⟩
/-- RLY_OFFSET_LO (R326). -/
def R.RLY_OFFSET_LO : RegDef :=
  { blk := .link, off := 0x1C, fields := [{ hi := 31, lo := 0, acc := .ro, reset := 0 }] }
def F.RLY_OFFSET_LO_offset : Fld := ⟨R.RLY_OFFSET_LO, 31, 0⟩
/-- RLY_OFFSET_HI (R326). -/
def R.RLY_OFFSET_HI : RegDef :=
  { blk := .link, off := 0x20, fields := [{ hi := 31, lo := 0, acc := .ro, reset := 0 }] }
def F.RLY_OFFSET_HI_offset : Fld := ⟨R.RLY_OFFSET_HI, 31, 0⟩
/-- RLY_BATONS (R326). -/
def R.RLY_BATONS : RegDef :=
  { blk := .link, off := 0x24, fields := [{ hi := 31, lo := 24, acc := .rw, reset := 0x40 },
      { hi := 23, lo := 16, acc := .rw, reset := 0x40 },
      { hi := 15, lo := 8, acc := .rw, reset := 0x40 },
      { hi := 7, lo := 0, acc := .rw, reset := 0x40 }] }
def F.RLY_BATONS_vc3 : Fld := ⟨R.RLY_BATONS, 31, 24⟩
def F.RLY_BATONS_vc2 : Fld := ⟨R.RLY_BATONS, 23, 16⟩
def F.RLY_BATONS_vc1 : Fld := ⟨R.RLY_BATONS, 15, 8⟩
def F.RLY_BATONS_vc0 : Fld := ⟨R.RLY_BATONS, 7, 0⟩
/-- RLY_HB (R326). -/
def R.RLY_HB : RegDef :=
  { blk := .link, off := 0x28, fields := [{ hi := 7, lo := 0, acc := .ro, reset := 0 }] }
def F.RLY_HB_missed : Fld := ⟨R.RLY_HB, 7, 0⟩
/-- RLY_DROP (R326). -/
def R.RLY_DROP : RegDef :=
  { blk := .link, off := 0x2C, fields := [{ hi := 31, lo := 24, acc := .ro, reset := 0 },
      { hi := 23, lo := 0, acc := .ro, reset := 0 }] }
def F.RLY_DROP_group : Fld := ⟨R.RLY_DROP, 31, 24⟩
def F.RLY_DROP_bib : Fld := ⟨R.RLY_DROP, 23, 0⟩

/-! ### Block `die` -/

/-- STA_DIE_EXC_STATUS (R191). -/
def R.STA_DIE_EXC_STATUS : RegDef :=
  { blk := .die, off := 0, fields := [{ hi := 31, lo := 24, acc := .sq, reset := 0 },
      { hi := 23, lo := 19, acc := .ro, reset := 0 },
      { hi := 18, lo := 12, acc := .ro, reset := 0 },
      { hi := 11, lo := 6, acc := .ro, reset := 0 },
      { hi := 1, lo := 1, acc := .rw, reset := 0 },
      { hi := 0, lo := 0, acc := .sq, reset := 0 }] }
def F.STA_DIE_EXC_STATUS_seq : Fld := ⟨R.STA_DIE_EXC_STATUS, 31, 24⟩
def F.STA_DIE_EXC_STATUS_die : Fld := ⟨R.STA_DIE_EXC_STATUS, 23, 19⟩
def F.STA_DIE_EXC_STATUS_cluster : Fld := ⟨R.STA_DIE_EXC_STATUS, 18, 12⟩
def F.STA_DIE_EXC_STATUS_core : Fld := ⟨R.STA_DIE_EXC_STATUS, 11, 6⟩
def F.STA_DIE_EXC_STATUS_irq_en : Fld := ⟨R.STA_DIE_EXC_STATUS, 1, 1⟩
def F.STA_DIE_EXC_STATUS_valid : Fld := ⟨R.STA_DIE_EXC_STATUS, 0, 0⟩
/-- STA_DIE_EXC_TENSOR (R100). -/
def R.STA_DIE_EXC_TENSOR : RegDef :=
  { blk := .die, off := 4, fields := [{ hi := 15, lo := 0, acc := .ro, reset := 0 }] }
def F.STA_DIE_EXC_TENSOR_tensor : Fld := ⟨R.STA_DIE_EXC_TENSOR, 15, 0⟩
/-- STA_DIE_EXC_ROW (R100). -/
def R.STA_DIE_EXC_ROW : RegDef :=
  { blk := .die, off := 8, fields := [{ hi := 23, lo := 0, acc := .ro, reset := 0 }] }
def F.STA_DIE_EXC_ROW_row : Fld := ⟨R.STA_DIE_EXC_ROW, 23, 0⟩
/-- STA_DIE_EXC_COL (R100). -/
def R.STA_DIE_EXC_COL : RegDef :=
  { blk := .die, off := 0xC, fields := [{ hi := 19, lo := 0, acc := .ro, reset := 0 }] }
def F.STA_DIE_EXC_COL_col : Fld := ⟨R.STA_DIE_EXC_COL, 19, 0⟩
/-- STA_DIE_EXC_BLOCK (R100). -/
def R.STA_DIE_EXC_BLOCK : RegDef :=
  { blk := .die, off := 0x10, fields := [{ hi := 19, lo := 0, acc := .ro, reset := 0 }] }
def F.STA_DIE_EXC_BLOCK_block : Fld := ⟨R.STA_DIE_EXC_BLOCK, 19, 0⟩
/-- STA_DIE_EXC_TIME (R100). -/
def R.STA_DIE_EXC_TIME : RegDef :=
  { blk := .die, off := 0x14, fields := [{ hi := 31, lo := 0, acc := .ro, reset := 0 }] }
def F.STA_DIE_EXC_TIME_time : Fld := ⟨R.STA_DIE_EXC_TIME, 31, 0⟩
/-- CLU_XZ_STATUS (R534). -/
def R.CLU_XZ_STATUS : RegDef :=
  { blk := .die, off := 0x200, fields := [{ hi := 31, lo := 24, acc := .sq, reset := 0 },
      { hi := 16, lo := 16, acc := .sq, reset := 0 },
      { hi := 7, lo := 0, acc := .sq, reset := 0 }] }
def F.CLU_XZ_STATUS_seq : Fld := ⟨R.CLU_XZ_STATUS, 31, 24⟩
def F.CLU_XZ_STATUS_flushed : Fld := ⟨R.CLU_XZ_STATUS, 16, 16⟩
def F.CLU_XZ_STATUS_zones : Fld := ⟨R.CLU_XZ_STATUS, 7, 0⟩

/-! ### Block `clu` -/

/-- CLU_MODE_ALLOW (R48). -/
def R.CLU_MODE_ALLOW : RegDef :=
  { blk := .clu, off := 0x100, fields := [{ hi := 30, lo := 30, acc := .ldr 0, reset := 0 },
      { hi := 29, lo := 25, acc := .ldr 0, reset := 0 },
      { hi := 24, lo := 0, acc := .ldr 0, reset := 0 }] }
def F.CLU_MODE_ALLOW_quad_allow : Fld := ⟨R.CLU_MODE_ALLOW, 30, 30⟩
def F.CLU_MODE_ALLOW_op_allow : Fld := ⟨R.CLU_MODE_ALLOW, 29, 25⟩
def F.CLU_MODE_ALLOW_mac_allow : Fld := ⟨R.CLU_MODE_ALLOW, 24, 0⟩
/-- CLU_EXC_STATUS (R100). -/
def R.CLU_EXC_STATUS : RegDef :=
  { blk := .clu, off := 0x180, fields := [{ hi := 31, lo := 24, acc := .sq, reset := 0 },
      { hi := 16, lo := 16, acc := .rw, reset := 0 },
      { hi := 13, lo := 8, acc := .ro, reset := 0 },
      { hi := 0, lo := 0, acc := .sq, reset := 0 }] }
def F.CLU_EXC_STATUS_seq : Fld := ⟨R.CLU_EXC_STATUS, 31, 24⟩
def F.CLU_EXC_STATUS_irq_en : Fld := ⟨R.CLU_EXC_STATUS, 16, 16⟩
def F.CLU_EXC_STATUS_core : Fld := ⟨R.CLU_EXC_STATUS, 13, 8⟩
def F.CLU_EXC_STATUS_valid : Fld := ⟨R.CLU_EXC_STATUS, 0, 0⟩
/-- CLU_EXC_TENSOR (R100). -/
def R.CLU_EXC_TENSOR : RegDef :=
  { blk := .clu, off := 0x184, fields := [{ hi := 15, lo := 0, acc := .ro, reset := 0 }] }
def F.CLU_EXC_TENSOR_tensor : Fld := ⟨R.CLU_EXC_TENSOR, 15, 0⟩
/-- CLU_EXC_ROW (R100). -/
def R.CLU_EXC_ROW : RegDef :=
  { blk := .clu, off := 0x188, fields := [{ hi := 23, lo := 0, acc := .ro, reset := 0 }] }
def F.CLU_EXC_ROW_row : Fld := ⟨R.CLU_EXC_ROW, 23, 0⟩
/-- CLU_EXC_COL (R100). -/
def R.CLU_EXC_COL : RegDef :=
  { blk := .clu, off := 0x18C, fields := [{ hi := 19, lo := 0, acc := .ro, reset := 0 }] }
def F.CLU_EXC_COL_col : Fld := ⟨R.CLU_EXC_COL, 19, 0⟩
/-- CLU_EXC_BLOCK (R100). -/
def R.CLU_EXC_BLOCK : RegDef :=
  { blk := .clu, off := 0x190, fields := [{ hi := 19, lo := 0, acc := .ro, reset := 0 }] }
def F.CLU_EXC_BLOCK_block : Fld := ⟨R.CLU_EXC_BLOCK, 19, 0⟩
/-- CLU_EXC_TIME (R100). -/
def R.CLU_EXC_TIME : RegDef :=
  { blk := .clu, off := 0x194, fields := [{ hi := 31, lo := 0, acc := .ro, reset := 0 }] }
def F.CLU_EXC_TIME_time : Fld := ⟨R.CLU_EXC_TIME, 31, 0⟩
/-- CLU_SCALE_CFG (R157). -/
def R.CLU_SCALE_CFG : RegDef :=
  { blk := .clu, off := 0x1A0, fields := [{ hi := 25, lo := 16, acc := .ldr 1, reset := 0 },
      { hi := 8, lo := 0, acc := .ldr 1, reset := 0 }] }
def F.CLU_SCALE_CFG_base : Fld := ⟨R.CLU_SCALE_CFG, 25, 16⟩
def F.CLU_SCALE_CFG_entries : Fld := ⟨R.CLU_SCALE_CFG, 8, 0⟩
/-- CLU_SCALE_STATUS (R159). -/
def R.CLU_SCALE_STATUS : RegDef :=
  { blk := .clu, off := 0x1A4, fields := [{ hi := 31, lo := 24, acc := .sq, reset := 0 },
      { hi := 23, lo := 8, acc := .ro, reset := 0 },
      { hi := 7, lo := 0, acc := .sq, reset := 0 }] }
def F.CLU_SCALE_STATUS_seq : Fld := ⟨R.CLU_SCALE_STATUS, 31, 24⟩
def F.CLU_SCALE_STATUS_tensor : Fld := ⟨R.CLU_SCALE_STATUS, 23, 8⟩
def F.CLU_SCALE_STATUS_code : Fld := ⟨R.CLU_SCALE_STATUS, 7, 0⟩
/-- STA_CFG (R188). -/
def R.STA_CFG : RegDef :=
  { blk := .clu, off := 0x1C0, fields := [{ hi := 25, lo := 16, acc := .ldr 1, reset := 0 },
      { hi := 8, lo := 0, acc := .ldr 1, reset := 0 }] }
def F.STA_CFG_base : Fld := ⟨R.STA_CFG, 25, 16⟩
def F.STA_CFG_records : Fld := ⟨R.STA_CFG, 8, 0⟩
/-- STA_STATUS (R189). -/
def R.STA_STATUS : RegDef :=
  { blk := .clu, off := 0x1C4, fields := [{ hi := 31, lo := 24, acc := .sq, reset := 0 },
      { hi := 23, lo := 8, acc := .ro, reset := 0 },
      { hi := 7, lo := 0, acc := .sq, reset := 0 }] }
def F.STA_STATUS_seq : Fld := ⟨R.STA_STATUS, 31, 24⟩
def F.STA_STATUS_tensor : Fld := ⟨R.STA_STATUS, 23, 8⟩
def F.STA_STATUS_code : Fld := ⟨R.STA_STATUS, 7, 0⟩
/-- GOV_CFG (R188). -/
def R.GOV_CFG : RegDef :=
  { blk := .clu, off := 0x1C8, fields := [{ hi := 25, lo := 16, acc := .ldr 1, reset := 0 },
      { hi := 15, lo := 7, acc := .ldr 1, reset := 0 },
      { hi := 6, lo := 0, acc := .ldr 1, reset := 0 }] }
def F.GOV_CFG_base : Fld := ⟨R.GOV_CFG, 25, 16⟩
def F.GOV_CFG_rules : Fld := ⟨R.GOV_CFG, 15, 7⟩
def F.GOV_CFG_layers : Fld := ⟨R.GOV_CFG, 6, 0⟩
/-- GOV_STATUS (R189). -/
def R.GOV_STATUS : RegDef :=
  { blk := .clu, off := 0x1CC, fields := [{ hi := 31, lo := 24, acc := .sq, reset := 0 },
      { hi := 23, lo := 16, acc := .ro, reset := 0 },
      { hi := 7, lo := 0, acc := .sq, reset := 0 }] }
def F.GOV_STATUS_seq : Fld := ⟨R.GOV_STATUS, 31, 24⟩
def F.GOV_STATUS_layer : Fld := ⟨R.GOV_STATUS, 23, 16⟩
def F.GOV_STATUS_code : Fld := ⟨R.GOV_STATUS, 7, 0⟩
/-- GOV_OVR_LAYER (R190). -/
def R.GOV_OVR_LAYER : RegDef :=
  { blk := .clu, off := 0x1D0, fields := [{ hi := 10, lo := 8, acc := .st 2, reset := 0 },
      { hi := 7, lo := 0, acc := .st 2, reset := 0 }] }
def F.GOV_OVR_LAYER_mask : Fld := ⟨R.GOV_OVR_LAYER, 10, 8⟩
def F.GOV_OVR_LAYER_layer : Fld := ⟨R.GOV_OVR_LAYER, 7, 0⟩
/-- GOV_OVR_MODE (R190). -/
def R.GOV_OVR_MODE : RegDef :=
  { blk := .clu, off := 0x1D4, fields := [{ hi := 31, lo := 0, acc := .st 2, reset := 0 }] }
def F.GOV_OVR_MODE_value : Fld := ⟨R.GOV_OVR_MODE, 31, 0⟩
/-- GOV_OVR_ALIGN (R190). -/
def R.GOV_OVR_ALIGN : RegDef :=
  { blk := .clu, off := 0x1D8, fields := [{ hi := 31, lo := 0, acc := .st 2, reset := 0 }] }
def F.GOV_OVR_ALIGN_value : Fld := ⟨R.GOV_OVR_ALIGN, 31, 0⟩
/-- GOV_OVR_OUTCONV (R190). -/
def R.GOV_OVR_OUTCONV : RegDef :=
  { blk := .clu, off := 0x1DC, fields := [{ hi := 31, lo := 0, acc := .st 2, reset := 0 }] }
def F.GOV_OVR_OUTCONV_value : Fld := ⟨R.GOV_OVR_OUTCONV, 31, 0⟩
/-- SCT_CFG (R209). -/
def R.SCT_CFG : RegDef :=
  { blk := .clu, off := 0x200, fields := [{ hi := 25, lo := 16, acc := .ldr 1, reset := 0 },
      { hi := 8, lo := 0, acc := .ldr 1, reset := 0 }] }
def F.SCT_CFG_base : Fld := ⟨R.SCT_CFG, 25, 16⟩
def F.SCT_CFG_entries : Fld := ⟨R.SCT_CFG, 8, 0⟩
/-- SCT_CALL (R209). -/
def R.SCT_CALL : RegDef :=
  { blk := .clu, off := 0x204, fields := [{ hi := 15, lo := 0, acc := .wo, reset := 0 }] }
def F.SCT_CALL_desc : Fld := ⟨R.SCT_CALL, 15, 0⟩
/-- SCT_STATUS (R209). -/
def R.SCT_STATUS : RegDef :=
  { blk := .clu, off := 0x208, fields := [{ hi := 31, lo := 24, acc := .sq, reset := 0 },
      { hi := 23, lo := 8, acc := .ro, reset := 0 },
      { hi := 7, lo := 0, acc := .sq, reset := 0 }] }
def F.SCT_STATUS_seq : Fld := ⟨R.SCT_STATUS, 31, 24⟩
def F.SCT_STATUS_tensor : Fld := ⟨R.SCT_STATUS, 23, 8⟩
def F.SCT_STATUS_code : Fld := ⟨R.SCT_STATUS, 7, 0⟩
/-- SCT_COUNT (R209). -/
def R.SCT_COUNT : RegDef :=
  { blk := .clu, off := 0x20C, fields := [{ hi := 31, lo := 16, acc := .ro, reset := 0 },
      { hi := 15, lo := 0, acc := .ro, reset := 0 }] }
def F.SCT_COUNT_corr : Fld := ⟨R.SCT_COUNT, 31, 16⟩
def F.SCT_COUNT_calls : Fld := ⟨R.SCT_COUNT, 15, 0⟩
/-- SCT_GEN_REMAP0 (R209). -/
def R.SCT_GEN_REMAP0 : RegDef :=
  { blk := .clu, off := 0x210, fields := [{ hi := 31, lo := 31, acc := .rw, reset := 0 },
      { hi := 15, lo := 8, acc := .rw, reset := 0 },
      { hi := 7, lo := 0, acc := .rw, reset := 0 }] }
def F.SCT_GEN_REMAP0_en : Fld := ⟨R.SCT_GEN_REMAP0, 31, 31⟩
def F.SCT_GEN_REMAP0_to : Fld := ⟨R.SCT_GEN_REMAP0, 15, 8⟩
def F.SCT_GEN_REMAP0_from : Fld := ⟨R.SCT_GEN_REMAP0, 7, 0⟩
/-- SCT_GEN_REMAP1 (R209). -/
def R.SCT_GEN_REMAP1 : RegDef :=
  { blk := .clu, off := 0x214, fields := [{ hi := 31, lo := 31, acc := .rw, reset := 0 },
      { hi := 15, lo := 8, acc := .rw, reset := 0 },
      { hi := 7, lo := 0, acc := .rw, reset := 0 }] }
def F.SCT_GEN_REMAP1_en : Fld := ⟨R.SCT_GEN_REMAP1, 31, 31⟩
def F.SCT_GEN_REMAP1_to : Fld := ⟨R.SCT_GEN_REMAP1, 15, 8⟩
def F.SCT_GEN_REMAP1_from : Fld := ⟨R.SCT_GEN_REMAP1, 7, 0⟩
/-- SCT_GEN_REMAP2 (R209). -/
def R.SCT_GEN_REMAP2 : RegDef :=
  { blk := .clu, off := 0x218, fields := [{ hi := 31, lo := 31, acc := .rw, reset := 0 },
      { hi := 15, lo := 8, acc := .rw, reset := 0 },
      { hi := 7, lo := 0, acc := .rw, reset := 0 }] }
def F.SCT_GEN_REMAP2_en : Fld := ⟨R.SCT_GEN_REMAP2, 31, 31⟩
def F.SCT_GEN_REMAP2_to : Fld := ⟨R.SCT_GEN_REMAP2, 15, 8⟩
def F.SCT_GEN_REMAP2_from : Fld := ⟨R.SCT_GEN_REMAP2, 7, 0⟩
/-- SCT_GEN_REMAP3 (R209). -/
def R.SCT_GEN_REMAP3 : RegDef :=
  { blk := .clu, off := 0x21C, fields := [{ hi := 31, lo := 31, acc := .rw, reset := 0 },
      { hi := 15, lo := 8, acc := .rw, reset := 0 },
      { hi := 7, lo := 0, acc := .rw, reset := 0 }] }
def F.SCT_GEN_REMAP3_en : Fld := ⟨R.SCT_GEN_REMAP3, 31, 31⟩
def F.SCT_GEN_REMAP3_to : Fld := ⟨R.SCT_GEN_REMAP3, 15, 8⟩
def F.SCT_GEN_REMAP3_from : Fld := ⟨R.SCT_GEN_REMAP3, 7, 0⟩
/-- CLU_VEC_CFG (R237). -/
def R.CLU_VEC_CFG : RegDef :=
  { blk := .clu, off := 0x240, fields := [{ hi := 9, lo := 0, acc := .ldr 1, reset := 0 }] }
def F.CLU_VEC_CFG_grad_base : Fld := ⟨R.CLU_VEC_CFG, 9, 0⟩
/-- CLU_VEC_STATUS (R237). -/
def R.CLU_VEC_STATUS : RegDef :=
  { blk := .clu, off := 0x244, fields := [{ hi := 31, lo := 24, acc := .sq, reset := 0 },
      { hi := 23, lo := 8, acc := .ro, reset := 0 },
      { hi := 7, lo := 0, acc := .sq, reset := 0 }] }
def F.CLU_VEC_STATUS_seq : Fld := ⟨R.CLU_VEC_STATUS, 31, 24⟩
def F.CLU_VEC_STATUS_tensor : Fld := ⟨R.CLU_VEC_STATUS, 23, 8⟩
def F.CLU_VEC_STATUS_code : Fld := ⟨R.CLU_VEC_STATUS, 7, 0⟩
/-- CLU_VEC_EVENTS (R237). -/
def R.CLU_VEC_EVENTS : RegDef :=
  { blk := .clu, off := 0x248, fields := [{ hi := 31, lo := 16, acc := .ro, reset := 0 },
      { hi := 15, lo := 0, acc := .ro, reset := 0 }] }
def F.CLU_VEC_EVENTS_invalid : Fld := ⟨R.CLU_VEC_EVENTS, 31, 16⟩
def F.CLU_VEC_EVENTS_flush : Fld := ⟨R.CLU_VEC_EVENTS, 15, 0⟩
/-- CLU_VEC_LAP (R237). -/
def R.CLU_VEC_LAP : RegDef :=
  { blk := .clu, off := 0x24C, fields := [{ hi := 31, lo := 0, acc := .st 3, reset := 0 }] }
def F.CLU_VEC_LAP_lap : Fld := ⟨R.CLU_VEC_LAP, 31, 0⟩
/-- CLU_VEC_LAPKEY0 (R237). -/
def R.CLU_VEC_LAPKEY0 : RegDef :=
  { blk := .clu, off := 0x250, fields := [{ hi := 31, lo := 0, acc := .stwo 3, reset := 0 }] }
def F.CLU_VEC_LAPKEY0_key : Fld := ⟨R.CLU_VEC_LAPKEY0, 31, 0⟩
/-- CLU_VEC_LAPKEY1 (R237). -/
def R.CLU_VEC_LAPKEY1 : RegDef :=
  { blk := .clu, off := 0x254, fields := [{ hi := 31, lo := 0, acc := .stwo 3, reset := 0 }] }
def F.CLU_VEC_LAPKEY1_key : Fld := ⟨R.CLU_VEC_LAPKEY1, 31, 0⟩
/-- CLU_VEC_LAPKEY2 (R237). -/
def R.CLU_VEC_LAPKEY2 : RegDef :=
  { blk := .clu, off := 0x258, fields := [{ hi := 31, lo := 0, acc := .stwo 3, reset := 0 }] }
def F.CLU_VEC_LAPKEY2_key : Fld := ⟨R.CLU_VEC_LAPKEY2, 31, 0⟩
/-- CLU_VEC_LAPKEY3 (R237). -/
def R.CLU_VEC_LAPKEY3 : RegDef :=
  { blk := .clu, off := 0x25C, fields := [{ hi := 31, lo := 0, acc := .stwo 3, reset := 0 }] }
def F.CLU_VEC_LAPKEY3_key : Fld := ⟨R.CLU_VEC_LAPKEY3, 31, 0⟩
/-- CLU_VEC_START_LO (R237). -/
def R.CLU_VEC_START_LO : RegDef :=
  { blk := .clu, off := 0x260, fields := [{ hi := 31, lo := 6, acc := .st 3, reset := 0 }] }
def F.CLU_VEC_START_LO_start : Fld := ⟨R.CLU_VEC_START_LO, 31, 6⟩
/-- CLU_VEC_START_HI (R237). -/
def R.CLU_VEC_START_HI : RegDef :=
  { blk := .clu, off := 0x264, fields := [{ hi := 8, lo := 0, acc := .st 3, reset := 0 }] }
def F.CLU_VEC_START_HI_start_hi : Fld := ⟨R.CLU_VEC_START_HI, 8, 0⟩
/-- CLU_VEC_GEN_SEL (R237). -/
def R.CLU_VEC_GEN_SEL : RegDef :=
  { blk := .clu, off := 0x268, fields := [{ hi := 5, lo := 0, acc := .rw, reset := 0 }] }
def F.CLU_VEC_GEN_SEL_lane : Fld := ⟨R.CLU_VEC_GEN_SEL, 5, 0⟩
/-- CLU_VEC_GEN_CTR_LO (R237). -/
def R.CLU_VEC_GEN_CTR_LO : RegDef :=
  { blk := .clu, off := 0x26C, fields := [{ hi := 31, lo := 0, acc := .st 3, reset := 0 }] }
def F.CLU_VEC_GEN_CTR_LO_ctr_lo : Fld := ⟨R.CLU_VEC_GEN_CTR_LO, 31, 0⟩
/-- CLU_VEC_GEN_CTR_HI (R237). -/
def R.CLU_VEC_GEN_CTR_HI : RegDef :=
  { blk := .clu, off := 0x270, fields := [{ hi := 31, lo := 0, acc := .st 3, reset := 0 }] }
def F.CLU_VEC_GEN_CTR_HI_ctr_hi : Fld := ⟨R.CLU_VEC_GEN_CTR_HI, 31, 0⟩
/-- CLU_VEC_GEN_STATE (R237). -/
def R.CLU_VEC_GEN_STATE : RegDef :=
  { blk := .clu, off := 0x274, fields := [{ hi := 8, lo := 8, acc := .ro, reset := 0 },
      { hi := 2, lo := 0, acc := .ro, reset := 0 }] }
def F.CLU_VEC_GEN_STATE_place_pending : Fld := ⟨R.CLU_VEC_GEN_STATE, 8, 8⟩
def F.CLU_VEC_GEN_STATE_occupancy : Fld := ⟨R.CLU_VEC_GEN_STATE, 2, 0⟩
/-- CLU_SEQ_CTRL (R263). -/
def R.CLU_SEQ_CTRL : RegDef :=
  { blk := .clu, off := 0x280, fields := [{ hi := 1, lo := 0, acc := .wo, reset := 0 }] }
def F.CLU_SEQ_CTRL_restart : Fld := ⟨R.CLU_SEQ_CTRL, 1, 0⟩
/-- CLU_SEQ_STATUS (R263). -/
def R.CLU_SEQ_STATUS : RegDef :=
  { blk := .clu, off := 0x284, fields := [{ hi := 31, lo := 24, acc := .sq, reset := 0 },
      { hi := 23, lo := 20, acc := .ro, reset := 0 },
      { hi := 19, lo := 16, acc := .ro, reset := 0 },
      { hi := 7, lo := 0, acc := .sq, reset := 0 }] }
def F.CLU_SEQ_STATUS_seq : Fld := ⟨R.CLU_SEQ_STATUS, 31, 24⟩
def F.CLU_SEQ_STATUS_stop : Fld := ⟨R.CLU_SEQ_STATUS, 23, 20⟩
def F.CLU_SEQ_STATUS_phase : Fld := ⟨R.CLU_SEQ_STATUS, 19, 16⟩
def F.CLU_SEQ_STATUS_code : Fld := ⟨R.CLU_SEQ_STATUS, 7, 0⟩
/-- CPY_SUBMIT (R292). -/
def R.CPY_SUBMIT : RegDef :=
  { blk := .clu, off := 0x2C0, fields := [{ hi := 15, lo := 0, acc := .wo, reset := 0 }] }
def F.CPY_SUBMIT_list : Fld := ⟨R.CPY_SUBMIT, 15, 0⟩
/-- CPY_CTRL (R292). -/
def R.CPY_CTRL : RegDef :=
  { blk := .clu, off := 0x2C4, fields := [{ hi := 0, lo := 0, acc := .wo, reset := 0 }] }
def F.CPY_CTRL_resume : Fld := ⟨R.CPY_CTRL, 0, 0⟩
/-- CPY_STATUS (R292). -/
def R.CPY_STATUS : RegDef :=
  { blk := .clu, off := 0x2C8, fields := [{ hi := 31, lo := 24, acc := .sq, reset := 0 },
      { hi := 23, lo := 8, acc := .ro, reset := 0 },
      { hi := 7, lo := 0, acc := .sq, reset := 0 }] }
def F.CPY_STATUS_seq : Fld := ⟨R.CPY_STATUS, 31, 24⟩
def F.CPY_STATUS_tensor : Fld := ⟨R.CPY_STATUS, 23, 8⟩
def F.CPY_STATUS_code : Fld := ⟨R.CPY_STATUS, 7, 0⟩
/-- CPY_ERR_CNT (R292). -/
def R.CPY_ERR_CNT : RegDef :=
  { blk := .clu, off := 0x2CC, fields := [{ hi := 31, lo := 22, acc := .ro, reset := 0 },
      { hi := 21, lo := 11, acc := .ro, reset := 0 },
      { hi := 10, lo := 0, acc := .ro, reset := 0 }] }
def F.CPY_ERR_CNT_lasting : Fld := ⟨R.CPY_ERR_CNT, 31, 22⟩
def F.CPY_ERR_CNT_transient : Fld := ⟨R.CPY_ERR_CNT, 21, 11⟩
def F.CPY_ERR_CNT_corrected : Fld := ⟨R.CPY_ERR_CNT, 10, 0⟩
/-- CPY_STATE (R292). -/
def R.CPY_STATE : RegDef :=
  { blk := .clu, off := 0x2D0, fields := [{ hi := 19, lo := 16, acc := .ro, reset := 0 },
      { hi := 15, lo := 15, acc := .ro, reset := 0 },
      { hi := 11, lo := 0, acc := .ro, reset := 0 }] }
def F.CPY_STATE_queued : Fld := ⟨R.CPY_STATE, 19, 16⟩
def F.CPY_STATE_stopped : Fld := ⟨R.CPY_STATE, 15, 15⟩
def F.CPY_STATE_desc : Fld := ⟨R.CPY_STATE, 11, 0⟩
/-- RLY_SEND (R326). -/
def R.RLY_SEND : RegDef :=
  { blk := .clu, off := 0x300, fields := [{ hi := 15, lo := 0, acc := .wo, reset := 0 }] }
def F.RLY_SEND_desc : Fld := ⟨R.RLY_SEND, 15, 0⟩
/-- RLY_SEND_STATUS (R326). -/
def R.RLY_SEND_STATUS : RegDef :=
  { blk := .clu, off := 0x304, fields := [{ hi := 31, lo := 24, acc := .sq, reset := 0 },
      { hi := 23, lo := 8, acc := .ro, reset := 0 },
      { hi := 7, lo := 0, acc := .sq, reset := 0 }] }
def F.RLY_SEND_STATUS_seq : Fld := ⟨R.RLY_SEND_STATUS, 31, 24⟩
def F.RLY_SEND_STATUS_tensor : Fld := ⟨R.RLY_SEND_STATUS, 23, 8⟩
def F.RLY_SEND_STATUS_code : Fld := ⟨R.RLY_SEND_STATUS, 7, 0⟩
/-- CLU_TRC_CFG (R518). -/
def R.CLU_TRC_CFG : RegDef :=
  { blk := .clu, off := 0x3C0, fields := [{ hi := 31, lo := 16, acc := .rw, reset := 0 },
      { hi := 15, lo := 14, acc := .rw, reset := 0, resv := [(2, 3)] },
      { hi := 11, lo := 0, acc := .rw, reset := 0xC8 }] }
def F.CLU_TRC_CFG_timeout_us : Fld := ⟨R.CLU_TRC_CFG, 31, 16⟩
def F.CLU_TRC_CFG_to_act : Fld := ⟨R.CLU_TRC_CFG, 15, 14⟩
def F.CLU_TRC_CFG_min_ns : Fld := ⟨R.CLU_TRC_CFG, 11, 0⟩

/-! ### Block `core` -/

/-- CORE_MODE (R44). -/
def R.CORE_MODE : RegDef :=
  { blk := .core, off := 0, fields := [{ hi := 31, lo := 28, acc := .ro, reset := 0 },
      { hi := 27, lo := 25, acc := .ro, reset := 0 },
      { hi := 24, lo := 22, acc := .ro, reset := 0 },
      { hi := 21, lo := 21, acc := .ro, reset := 0 },
      { hi := 19, lo := 16, acc := .ro, reset := 0 }] }
def F.CORE_MODE_op : Fld := ⟨R.CORE_MODE, 31, 28⟩
def F.CORE_MODE_w_width : Fld := ⟨R.CORE_MODE, 27, 25⟩
def F.CORE_MODE_a_width : Fld := ⟨R.CORE_MODE, 24, 22⟩
def F.CORE_MODE_quad : Fld := ⟨R.CORE_MODE, 21, 21⟩
def F.CORE_MODE_run_log2 : Fld := ⟨R.CORE_MODE, 19, 16⟩
/-- CORE_ARRAY_STATUS (R55). -/
def R.CORE_ARRAY_STATUS : RegDef :=
  { blk := .core, off := 4, fields := [{ hi := 31, lo := 24, acc := .sq, reset := 0 },
      { hi := 16, lo := 16, acc := .ro, reset := 0 },
      { hi := 7, lo := 0, acc := .sq, reset := 0 }] }
def F.CORE_ARRAY_STATUS_seq : Fld := ⟨R.CORE_ARRAY_STATUS, 31, 24⟩
def F.CORE_ARRAY_STATUS_next_pending : Fld := ⟨R.CORE_ARRAY_STATUS, 16, 16⟩
def F.CORE_ARRAY_STATUS_code : Fld := ⟨R.CORE_ARRAY_STATUS, 7, 0⟩
/-- CORE_COLMAP (R51). -/
def R.CORE_COLMAP : RegDef :=
  { blk := .core, off := 8, fields := [{ hi := 16, lo := 16, acc := .ro, reset := 1 },
      { hi := 13, lo := 8, acc := .rw, reset := 0x20 },
      { hi := 5, lo := 0, acc := .ro, reset := 0x20 }] }
def F.CORE_COLMAP_spare_avail : Fld := ⟨R.CORE_COLMAP, 16, 16⟩
def F.CORE_COLMAP_retired_col_next : Fld := ⟨R.CORE_COLMAP, 13, 8⟩
def F.CORE_COLMAP_retired_col : Fld := ⟨R.CORE_COLMAP, 5, 0⟩
/-- CORE_ALIGN (R98). -/
def R.CORE_ALIGN : RegDef :=
  { blk := .core, off := 0xC, fields := [{ hi := 7, lo := 4, acc := .ro, reset := 6 },
      { hi := 3, lo := 0, acc := .ro, reset := 6 }] }
def F.CORE_ALIGN_t_strm : Fld := ⟨R.CORE_ALIGN, 7, 4⟩
def F.CORE_ALIGN_t_stat : Fld := ⟨R.CORE_ALIGN, 3, 0⟩
/-- CORE_EXC_STATUS (R100). -/
def R.CORE_EXC_STATUS : RegDef :=
  { blk := .core, off := 0x10, fields := [{ hi := 31, lo := 24, acc := .sq, reset := 0 },
      { hi := 16, lo := 16, acc := .rw, reset := 0 },
      { hi := 0, lo := 0, acc := .sq, reset := 0 }] }
def F.CORE_EXC_STATUS_seq : Fld := ⟨R.CORE_EXC_STATUS, 31, 24⟩
def F.CORE_EXC_STATUS_irq_en : Fld := ⟨R.CORE_EXC_STATUS, 16, 16⟩
def F.CORE_EXC_STATUS_valid : Fld := ⟨R.CORE_EXC_STATUS, 0, 0⟩
/-- CORE_EXC_TENSOR (R100). -/
def R.CORE_EXC_TENSOR : RegDef :=
  { blk := .core, off := 0x14, fields := [{ hi := 15, lo := 0, acc := .ro, reset := 0 }] }
def F.CORE_EXC_TENSOR_tensor : Fld := ⟨R.CORE_EXC_TENSOR, 15, 0⟩
/-- CORE_EXC_ROW (R100). -/
def R.CORE_EXC_ROW : RegDef :=
  { blk := .core, off := 0x18, fields := [{ hi := 23, lo := 0, acc := .ro, reset := 0 }] }
def F.CORE_EXC_ROW_row : Fld := ⟨R.CORE_EXC_ROW, 23, 0⟩
/-- CORE_EXC_COL (R100). -/
def R.CORE_EXC_COL : RegDef :=
  { blk := .core, off := 0x1C, fields := [{ hi := 19, lo := 0, acc := .ro, reset := 0 }] }
def F.CORE_EXC_COL_col : Fld := ⟨R.CORE_EXC_COL, 19, 0⟩
/-- CORE_EXC_BLOCK (R100). -/
def R.CORE_EXC_BLOCK : RegDef :=
  { blk := .core, off := 0x20, fields := [{ hi := 19, lo := 0, acc := .ro, reset := 0 }] }
def F.CORE_EXC_BLOCK_block : Fld := ⟨R.CORE_EXC_BLOCK, 19, 0⟩
/-- CORE_EXC_TIME (R100). -/
def R.CORE_EXC_TIME : RegDef :=
  { blk := .core, off := 0x24, fields := [{ hi := 31, lo := 0, acc := .ro, reset := 0 }] }
def F.CORE_EXC_TIME_time : Fld := ⟨R.CORE_EXC_TIME, 31, 0⟩
/-- CORE_RESIDUE_CNT (R101). -/
def R.CORE_RESIDUE_CNT : RegDef :=
  { blk := .core, off := 0x28, fields := [{ hi := 31, lo := 16, acc := .ro, reset := 0 },
      { hi := 15, lo := 0, acc := .ro, reset := 0 }] }
def F.CORE_RESIDUE_CNT_lasting : Fld := ⟨R.CORE_RESIDUE_CNT, 31, 16⟩
def F.CORE_RESIDUE_CNT_transient : Fld := ⟨R.CORE_RESIDUE_CNT, 15, 0⟩
/-- CORE_EDGE_CFG (R99). -/
def R.CORE_EDGE_CFG : RegDef :=
  { blk := .core, off := 0x2C, fields := [{ hi := 24, lo := 16, acc := .ldr 0, reset := 0 },
      { hi := 8, lo := 0, acc := .ldr 0, reset := 0, resv := [(1, 15), (257, 511)] }] }
def F.CORE_EDGE_CFG_wide_base : Fld := ⟨R.CORE_EDGE_CFG, 24, 16⟩
def F.CORE_EDGE_CFG_slots : Fld := ⟨R.CORE_EDGE_CFG, 8, 0⟩
/-- CORE_OUTCONV (R130). -/
def R.CORE_OUTCONV : RegDef :=
  { blk := .core, off := 0x30, fields := [{ hi := 11, lo := 10, acc := .ro, reset := 0 },
      { hi := 9, lo := 8, acc := .ro, reset := 0 },
      { hi := 3, lo := 0, acc := .ro, reset := 0 }] }
def F.CORE_OUTCONV_policy : Fld := ⟨R.CORE_OUTCONV, 11, 10⟩
def F.CORE_OUTCONV_round : Fld := ⟨R.CORE_OUTCONV, 9, 8⟩
def F.CORE_OUTCONV_fmt : Fld := ⟨R.CORE_OUTCONV, 3, 0⟩

/-! ### Block `judge` -/

/-- JDG_CMD (R483). -/
def R.JDG_CMD : RegDef :=
  { blk := .judge, off := 0, fields := [{ hi := 7, lo := 0, acc := .wo, reset := 0 }] }
def F.JDG_CMD_cmd : Fld := ⟨R.JDG_CMD, 7, 0⟩
/-- JDG_REQ_LO (R483). -/
def R.JDG_REQ_LO : RegDef :=
  { blk := .judge, off := 4, fields := [{ hi := 31, lo := 12, acc := .rw, reset := 0 }] }
def F.JDG_REQ_LO_req : Fld := ⟨R.JDG_REQ_LO, 31, 12⟩
/-- JDG_REQ_HI (R483). -/
def R.JDG_REQ_HI : RegDef :=
  { blk := .judge, off := 8, fields := [{ hi := 8, lo := 0, acc := .rw, reset := 0 }] }
def F.JDG_REQ_HI_req_hi : Fld := ⟨R.JDG_REQ_HI, 8, 0⟩
/-- JDG_STATE (R483). -/
def R.JDG_STATE : RegDef :=
  { blk := .judge, off := 0xC, fields := [{ hi := 31, lo := 31, acc := .ro, reset := 0 },
      { hi := 30, lo := 30, acc := .ro, reset := 0 },
      { hi := 29, lo := 29, acc := .ro, reset := 0 },
      { hi := 28, lo := 28, acc := .ro, reset := 0 },
      { hi := 15, lo := 8, acc := .ro, reset := 1 },
      { hi := 7, lo := 0, acc := .ro, reset := 0 }] }
def F.JDG_STATE_approved : Fld := ⟨R.JDG_STATE, 31, 31⟩
def F.JDG_STATE_identity : Fld := ⟨R.JDG_STATE, 30, 30⟩
def F.JDG_STATE_error : Fld := ⟨R.JDG_STATE, 29, 29⟩
def F.JDG_STATE_ready : Fld := ⟨R.JDG_STATE, 28, 28⟩
def F.JDG_STATE_keys : Fld := ⟨R.JDG_STATE, 15, 8⟩
def F.JDG_STATE_busy : Fld := ⟨R.JDG_STATE, 7, 0⟩
/-- JDG_STATUS (R483). -/
def R.JDG_STATUS : RegDef :=
  { blk := .judge, off := 0x10, fields := [{ hi := 31, lo := 24, acc := .sq, reset := 0 },
      { hi := 7, lo := 0, acc := .sq, reset := 0 }] }
def F.JDG_STATUS_seq : Fld := ⟨R.JDG_STATUS, 31, 24⟩
def F.JDG_STATUS_code : Fld := ⟨R.JDG_STATUS, 7, 0⟩
/-- JDG_DBG (R483). -/
def R.JDG_DBG : RegDef :=
  { blk := .judge, off := 0x14, fields := [{ hi := 1, lo := 0, acc := .ro, reset := 0 }] }
def F.JDG_DBG_granted : Fld := ⟨R.JDG_DBG, 1, 0⟩
/-- JDG_FLOOR (R483). -/
def R.JDG_FLOOR : RegDef :=
  { blk := .judge, off := 0x18, fields := [{ hi := 31, lo := 0, acc := .ro, reset := 0 }] }
def F.JDG_FLOOR_floor : Fld := ⟨R.JDG_FLOOR, 31, 0⟩

/-! ### Block `trace` -/

/-- TRC_CTRL (R518). -/
def R.TRC_CTRL : RegDef :=
  { blk := .trace, off := 0, fields := [{ hi := 1, lo := 1, acc := .wo, reset := 0 },
      { hi := 0, lo := 0, acc := .wo, reset := 0 }] }
def F.TRC_CTRL_perf_clear : Fld := ⟨R.TRC_CTRL, 1, 1⟩
def F.TRC_CTRL_trigger : Fld := ⟨R.TRC_CTRL, 0, 0⟩
/-- TRC_STATUS (R518). -/
def R.TRC_STATUS : RegDef :=
  { blk := .trace, off := 4, fields := [{ hi := 31, lo := 24, acc := .sq, reset := 0 },
      { hi := 23, lo := 8, acc := .ro, reset := 0 },
      { hi := 7, lo := 0, acc := .sq, reset := 0 }] }
def F.TRC_STATUS_seq : Fld := ⟨R.TRC_STATUS, 31, 24⟩
def F.TRC_STATUS_unit : Fld := ⟨R.TRC_STATUS, 23, 8⟩
def F.TRC_STATUS_code : Fld := ⟨R.TRC_STATUS, 7, 0⟩
/-- TRC_TRIG_CFG (R518). -/
def R.TRC_TRIG_CFG : RegDef :=
  { blk := .trace, off := 8, fields := [{ hi := 13, lo := 8, acc := .rw, reset := 0 },
      { hi := 5, lo := 0, acc := .rw, reset := 0 }] }
def F.TRC_TRIG_CFG_freeze_on : Fld := ⟨R.TRC_TRIG_CFG, 13, 8⟩
def F.TRC_TRIG_CFG_en : Fld := ⟨R.TRC_TRIG_CFG, 5, 0⟩
/-- TRC_TRIG_TIME_LO (R518). -/
def R.TRC_TRIG_TIME_LO : RegDef :=
  { blk := .trace, off := 0xC, fields := [{ hi := 31, lo := 0, acc := .ro, reset := 0 }] }
def F.TRC_TRIG_TIME_LO_time : Fld := ⟨R.TRC_TRIG_TIME_LO, 31, 0⟩
/-- TRC_TRIG_TIME_HI (R518). -/
def R.TRC_TRIG_TIME_HI : RegDef :=
  { blk := .trace, off := 0x10, fields := [{ hi := 31, lo := 0, acc := .ro, reset := 0 }] }
def F.TRC_TRIG_TIME_HI_time : Fld := ⟨R.TRC_TRIG_TIME_HI, 31, 0⟩
/-- TRC_FRZ_CTRL (R518). -/
def R.TRC_FRZ_CTRL : RegDef :=
  { blk := .trace, off := 0x14, fields := [{ hi := 15, lo := 8, acc := .rw, reset := 3 },
      { hi := 2, lo := 2, acc := .rw, reset := 0 },
      { hi := 1, lo := 1, acc := .wo, reset := 0 },
      { hi := 0, lo := 0, acc := .wo, reset := 0 }] }
def F.TRC_FRZ_CTRL_hops : Fld := ⟨R.TRC_FRZ_CTRL, 15, 8⟩
def F.TRC_FRZ_CTRL_drive : Fld := ⟨R.TRC_FRZ_CTRL, 2, 2⟩
def F.TRC_FRZ_CTRL_release : Fld := ⟨R.TRC_FRZ_CTRL, 1, 1⟩
def F.TRC_FRZ_CTRL_freeze : Fld := ⟨R.TRC_FRZ_CTRL, 0, 0⟩
/-- TRC_FRZ_STATE (R518). -/
def R.TRC_FRZ_STATE : RegDef :=
  { blk := .trace, off := 0x18, fields := [{ hi := 31, lo := 16, acc := .ro, reset := 0 },
      { hi := 15, lo := 12, acc := .ro, reset := 0 },
      { hi := 3, lo := 3, acc := .ro, reset := 0 },
      { hi := 2, lo := 2, acc := .ro, reset := 0 },
      { hi := 1, lo := 1, acc := .ro, reset := 0 },
      { hi := 0, lo := 0, acc := .ro, reset := 0 }] }
def F.TRC_FRZ_STATE_id : Fld := ⟨R.TRC_FRZ_STATE, 31, 16⟩
def F.TRC_FRZ_STATE_sources : Fld := ⟨R.TRC_FRZ_STATE, 15, 12⟩
def F.TRC_FRZ_STATE_scan : Fld := ⟨R.TRC_FRZ_STATE, 3, 3⟩
def F.TRC_FRZ_STATE_pin_low : Fld := ⟨R.TRC_FRZ_STATE, 2, 2⟩
def F.TRC_FRZ_STATE_held : Fld := ⟨R.TRC_FRZ_STATE, 1, 1⟩
def F.TRC_FRZ_STATE_frozen : Fld := ⟨R.TRC_FRZ_STATE, 0, 0⟩
/-- TRC_PHOTO_CTRL (R518). -/
def R.TRC_PHOTO_CTRL : RegDef :=
  { blk := .trace, off := 0x1C, fields := [{ hi := 5, lo := 4, acc := .rw, reset := 0 },
      { hi := 2, lo := 2, acc := .wo, reset := 0 },
      { hi := 0, lo := 0, acc := .rw, reset := 0 }] }
def F.TRC_PHOTO_CTRL_level : Fld := ⟨R.TRC_PHOTO_CTRL, 5, 4⟩
def F.TRC_PHOTO_CTRL_abort_scan : Fld := ⟨R.TRC_PHOTO_CTRL, 2, 2⟩
def F.TRC_PHOTO_CTRL_armed : Fld := ⟨R.TRC_PHOTO_CTRL, 0, 0⟩
/-- TRC_PHOTO_BASE_LO (R518). -/
def R.TRC_PHOTO_BASE_LO : RegDef :=
  { blk := .trace, off := 0x20, fields := [{ hi := 31, lo := 20, acc := .rw, reset := 0 }] }
def F.TRC_PHOTO_BASE_LO_base : Fld := ⟨R.TRC_PHOTO_BASE_LO, 31, 20⟩
/-- TRC_PHOTO_BASE_HI (R518). -/
def R.TRC_PHOTO_BASE_HI : RegDef :=
  { blk := .trace, off := 0x24, fields := [{ hi := 8, lo := 0, acc := .rw, reset := 0 }] }
def F.TRC_PHOTO_BASE_HI_base_hi : Fld := ⟨R.TRC_PHOTO_BASE_HI, 8, 0⟩
/-- TRC_PHOTO_SIZE (R518). -/
def R.TRC_PHOTO_SIZE : RegDef :=
  { blk := .trace, off := 0x28, fields := [{ hi := 16, lo := 0, acc := .rw, reset := 0 }] }
def F.TRC_PHOTO_SIZE_size_mib : Fld := ⟨R.TRC_PHOTO_SIZE, 16, 0⟩
/-- TRC_PHOTO_STATE (R518). -/
def R.TRC_PHOTO_STATE : RegDef :=
  { blk := .trace, off := 0x2C, fields := [{ hi := 18, lo := 16, acc := .ro, reset := 0 },
      { hi := 15, lo := 8, acc := .ro, reset := 0 },
      { hi := 2, lo := 2, acc := .ro, reset := 0 },
      { hi := 1, lo := 1, acc := .ro, reset := 0 },
      { hi := 0, lo := 0, acc := .ro, reset := 0 }] }
def F.TRC_PHOTO_STATE_level_done : Fld := ⟨R.TRC_PHOTO_STATE, 18, 16⟩
def F.TRC_PHOTO_STATE_section : Fld := ⟨R.TRC_PHOTO_STATE, 15, 8⟩
def F.TRC_PHOTO_STATE_redacted : Fld := ⟨R.TRC_PHOTO_STATE, 2, 2⟩
def F.TRC_PHOTO_STATE_clamped : Fld := ⟨R.TRC_PHOTO_STATE, 1, 1⟩
def F.TRC_PHOTO_STATE_done : Fld := ⟨R.TRC_PHOTO_STATE, 0, 0⟩

/-! ### Block `traceQ` -/

/-- TRC_Q_BASE_LO (R518). -/
def R.TRC_Q_BASE_LO : RegDef :=
  { blk := .traceQ, off := 0, fields := [{ hi := 31, lo := 20, acc := .rw, reset := 0 }] }
def F.TRC_Q_BASE_LO_base : Fld := ⟨R.TRC_Q_BASE_LO, 31, 20⟩
/-- TRC_Q_BASE_HI (R518). -/
def R.TRC_Q_BASE_HI : RegDef :=
  { blk := .traceQ, off := 4, fields := [{ hi := 8, lo := 0, acc := .rw, reset := 0 }] }
def F.TRC_Q_BASE_HI_base_hi : Fld := ⟨R.TRC_Q_BASE_HI, 8, 0⟩
/-- TRC_Q_SIZE (R518). -/
def R.TRC_Q_SIZE : RegDef :=
  { blk := .traceQ, off := 8, fields := [{ hi := 16, lo := 0, acc := .rw, reset := 0x40 }] }
def F.TRC_Q_SIZE_size_mib : Fld := ⟨R.TRC_Q_SIZE, 16, 0⟩
/-- TRC_Q_POST (R518). -/
def R.TRC_Q_POST : RegDef :=
  { blk := .traceQ, off := 0xC, fields := [{ hi := 16, lo := 0, acc := .rw, reset := 0x10 }] }
def F.TRC_Q_POST_post_mib : Fld := ⟨R.TRC_Q_POST, 16, 0⟩
/-- TRC_Q_MODE (R518). -/
def R.TRC_Q_MODE : RegDef :=
  { blk := .traceQ, off := 0x10, fields := [{ hi := 5, lo := 5, acc := .ro, reset := 0 },
      { hi := 4, lo := 4, acc := .ro, reset := 0 },
      { hi := 3, lo := 3, acc := .ro, reset := 0 },
      { hi := 2, lo := 2, acc := .rw, reset := 0 },
      { hi := 1, lo := 0, acc := .rw, reset := 0, resv := [(3, 3)] }] }
def F.TRC_Q_MODE_triggered : Fld := ⟨R.TRC_Q_MODE, 5, 5⟩
def F.TRC_Q_MODE_stopped : Fld := ⟨R.TRC_Q_MODE, 4, 4⟩
def F.TRC_Q_MODE_wrapped : Fld := ⟨R.TRC_Q_MODE, 3, 3⟩
def F.TRC_Q_MODE_en : Fld := ⟨R.TRC_Q_MODE, 2, 2⟩
def F.TRC_Q_MODE_mode : Fld := ⟨R.TRC_Q_MODE, 1, 0⟩
/-- TRC_Q_NEXT (R518). -/
def R.TRC_Q_NEXT : RegDef :=
  { blk := .traceQ, off := 0x14, fields := [{ hi := 31, lo := 0, acc := .ro, reset := 0 }] }
def F.TRC_Q_NEXT_next : Fld := ⟨R.TRC_Q_NEXT, 31, 0⟩
/-- TRC_Q_LOST (R518). -/
def R.TRC_Q_LOST : RegDef :=
  { blk := .traceQ, off := 0x18, fields := [{ hi := 31, lo := 0, acc := .ro, reset := 0 }] }
def F.TRC_Q_LOST_lost : Fld := ⟨R.TRC_Q_LOST, 31, 0⟩

/-! ### The map -/

/-- The registers of block `ident`. -/
def regsOfIdent : List RegDef :=
  [R.HUB_ID_PART,
   R.HUB_ID_STEP,
   R.HUB_ID_BIB,
   R.HUB_ID_SERIAL_LO,
   R.HUB_ID_SERIAL_HI]

/-- The registers of block `update`. -/
def regsOfUpdate : List RegDef :=
  [R.UPD_STROBE,
   R.UPD_PENDING,
   R.UPD_STATE]

/-- The registers of block `modExc`. -/
def regsOfModExc : List RegDef :=
  [R.STA_MOD_EXC_STATUS,
   R.STA_MOD_EXC_TENSOR,
   R.STA_MOD_EXC_ROW,
   R.STA_MOD_EXC_COL,
   R.STA_MOD_EXC_BLOCK,
   R.STA_MOD_EXC_TIME]

/-- The registers of block `lap`. -/
def regsOfLap : List RegDef :=
  [R.GRP_LAP_SEED_LO,
   R.GRP_LAP_SEED_HI,
   R.GRP_LAP_INDEX_LO,
   R.GRP_LAP_INDEX_HI,
   R.GRP_LAP_POS_LO,
   R.GRP_LAP_POS_HI,
   R.GRP_LAP_POLICY,
   R.GRP_LAP_LOSS_SCALE,
   R.GRP_LAP_CLIP,
   R.GRP_LAP_GATE_LIMIT,
   R.GRP_LAP_TAIL,
   R.GRP_LAP_VERDICT,
   R.GRP_LAP_OVERRUN,
   R.GRP_LAP_STATUS,
   R.GRP_LAP_FEED_LO,
   R.GRP_LAP_FEED_HI]

/-- The registers of block `landing`. -/
def regsOfLanding : List RegDef :=
  [R.RLY_LAND_LO,
   R.RLY_LAND_HI,
   R.RLY_LAND_STATUS]

/-- The registers of block `groups`. -/
def regsOfGroups : List RegDef :=
  [R.GRP_TABLE_LO,
   R.GRP_TABLE_HI,
   R.GRP_SEL,
   R.GRP_CTRL,
   R.GRP_EPOCH,
   R.GRP_STATUS,
   R.GRP_STALE_CNT,
   R.GRP_RED_ESC_CNT,
   R.GRP_RED_FP32_CNT,
   R.GRP_RED_STEP_LO,
   R.GRP_RED_STEP_HI,
   R.GRP_RED_STATE,
   R.GRP_MBR_CFG,
   R.GRP_MBR_BOOK_LO,
   R.GRP_MBR_BOOK_HI]

/-- The registers of block `snap`. -/
def regsOfSnap : List RegDef :=
  [R.SNP_CTRL,
   R.SNP_CFG,
   R.SNP_STATUS,
   R.SNP_INTERVAL,
   R.SNP_MTBF,
   R.SNP_COST,
   R.SNP_LAST,
   R.SNP_FILL,
   R.SNP_PLAN_LO,
   R.SNP_PLAN_HI,
   R.SNP_VAULT_LO,
   R.SNP_VAULT_HI,
   R.SNP_BUDDY0,
   R.SNP_BUDDY1,
   R.SNP_WARD0,
   R.SNP_WARD1,
   R.SNP_RESTORE_LO,
   R.SNP_RESTORE_HI]

/-- The registers of block `pacer`. -/
def regsOfPacer : List RegDef :=
  [R.PCR_CTRL,
   R.PCR_STATE,
   R.PCR_STATUS,
   R.PCR_DELAY,
   R.PCR_TIME_LO,
   R.PCR_TIME_HI,
   R.PCR_TIME_FRAC,
   R.PCR_MARK_ERR]

/-- The registers of block `spt`. -/
def regsOfSpt : List RegDef :=
  [R.PCR_SPT_CMP_LO,
   R.PCR_SPT_CMP_HI,
   R.PCR_SPT_PERIOD,
   R.PCR_SPT_CTRL]

/-- The registers of block `power`. -/
def regsOfPower : List RegDef :=
  [R.PWR_CTRL,
   R.PWR_STATE,
   R.PWR_STATUS,
   R.PWR_CAP,
   R.PWR_SAG,
   R.PWR_RIDE,
   R.PWR_FLOOR,
   R.PWR_PHASE,
   R.PWR_PLAN_LO,
   R.PWR_PLAN_HI,
   R.PWR_MEAS,
   R.PWR_RIPPLE,
   R.PWR_THERM,
   R.PWR_EVENTS]

/-- The registers of block `images`. -/
def regsOfImages : List RegDef :=
  [R.IMG_CTRL,
   R.IMG_SRC_LO,
   R.IMG_SRC_HI,
   R.IMG_STATE,
   R.IMG_STATUS,
   R.IMG_STORE_LO,
   R.IMG_STORE_HI,
   R.IMG_ID_LO,
   R.IMG_ID_HI]

/-- The registers of block `intSrc`. -/
def regsOfIntSrc : List RegDef :=
  [R.HUB_INT_SRC]

/-- The registers of block `intPend`. -/
def regsOfIntPend : List RegDef :=
  [R.HUB_INT_PEND]

/-- The registers of block `intMask`. -/
def regsOfIntMask : List RegDef :=
  [R.HUB_INT_MASK]

/-- The registers of block `intTgt`. -/
def regsOfIntTgt : List RegDef :=
  [R.HUB_INT_THRESH,
   R.HUB_INT_CLAIM,
   R.HUB_INT_COMPLETE,
   R.HUB_INT_RUNNING]

/-- The registers of block `intCfg`. -/
def regsOfIntCfg : List RegDef :=
  [R.HUB_INT_CFG,
   R.HUB_INT_STATUS]

/-- The registers of block `xzSum`. -/
def regsOfXzSum : List RegDef :=
  [R.HUB_XZ_SUM]

/-- The registers of block `hub`. -/
def regsOfHub : List RegDef :=
  [R.HUB_XZ_STATUS]

/-- The registers of block `hub0`. -/
def regsOfHub0 : List RegDef :=
  [R.HUB_HOST_READY,
   R.HUB_PCI_STATUS,
   R.HUB_PCI_B2,
   R.HUB_ORD_BASE_LO,
   R.HUB_ORD_BASE_HI,
   R.HUB_ORD_TAIL,
   R.HUB_ORD_HEAD,
   R.HUB_ORD_CFG,
   R.HUB_ORD_STATUS,
   R.HUB_CMP_BASE_LO,
   R.HUB_CMP_BASE_HI,
   R.HUB_CMP_HEAD,
   R.HUB_CMP_TAIL,
   R.HUB_RST_CTRL,
   R.HUB_RST_CAUSE]

/-- The registers of block `hbm`. -/
def regsOfHbm : List RegDef :=
  [R.HUB_HBM_CTRL,
   R.HUB_HBM_STATUS,
   R.HUB_HBM_ECC_CNT,
   R.HUB_HBM_ERR_ADDR_LO,
   R.HUB_HBM_ERR_ADDR_HI]

/-- The registers of block `fault`. -/
def regsOfFault : List RegDef :=
  [R.HUB_FLT_CMD,
   R.HUB_FLT_STATUS,
   R.HUB_FLT_UNIT,
   R.HUB_FLT_SEL,
   R.HUB_FLT_SPARES,
   R.HUB_FLT_TEST,
   R.HUB_FW_CTRL,
   R.HUB_FW_STATUS,
   R.HUB_FLT_LOG_HEAD]

/-- The registers of block `link`. -/
def regsOfLink : List RegDef :=
  [R.RLY_CTRL,
   R.RLY_STATE,
   R.RLY_STATUS,
   R.RLY_ERR_CNT,
   R.RLY_PEER,
   R.RLY_PEER_EXPECT,
   R.RLY_RTT,
   R.RLY_OFFSET_LO,
   R.RLY_OFFSET_HI,
   R.RLY_BATONS,
   R.RLY_HB,
   R.RLY_DROP]

/-- The registers of block `die`. -/
def regsOfDie : List RegDef :=
  [R.STA_DIE_EXC_STATUS,
   R.STA_DIE_EXC_TENSOR,
   R.STA_DIE_EXC_ROW,
   R.STA_DIE_EXC_COL,
   R.STA_DIE_EXC_BLOCK,
   R.STA_DIE_EXC_TIME,
   R.CLU_XZ_STATUS]

/-- The registers of block `clu`. -/
def regsOfClu : List RegDef :=
  [R.CLU_MODE_ALLOW,
   R.CLU_EXC_STATUS,
   R.CLU_EXC_TENSOR,
   R.CLU_EXC_ROW,
   R.CLU_EXC_COL,
   R.CLU_EXC_BLOCK,
   R.CLU_EXC_TIME,
   R.CLU_SCALE_CFG,
   R.CLU_SCALE_STATUS,
   R.STA_CFG,
   R.STA_STATUS,
   R.GOV_CFG,
   R.GOV_STATUS,
   R.GOV_OVR_LAYER,
   R.GOV_OVR_MODE,
   R.GOV_OVR_ALIGN,
   R.GOV_OVR_OUTCONV,
   R.SCT_CFG,
   R.SCT_CALL,
   R.SCT_STATUS,
   R.SCT_COUNT,
   R.SCT_GEN_REMAP0,
   R.SCT_GEN_REMAP1,
   R.SCT_GEN_REMAP2,
   R.SCT_GEN_REMAP3,
   R.CLU_VEC_CFG,
   R.CLU_VEC_STATUS,
   R.CLU_VEC_EVENTS,
   R.CLU_VEC_LAP,
   R.CLU_VEC_LAPKEY0,
   R.CLU_VEC_LAPKEY1,
   R.CLU_VEC_LAPKEY2,
   R.CLU_VEC_LAPKEY3,
   R.CLU_VEC_START_LO,
   R.CLU_VEC_START_HI,
   R.CLU_VEC_GEN_SEL,
   R.CLU_VEC_GEN_CTR_LO,
   R.CLU_VEC_GEN_CTR_HI,
   R.CLU_VEC_GEN_STATE,
   R.CLU_SEQ_CTRL,
   R.CLU_SEQ_STATUS,
   R.CPY_SUBMIT,
   R.CPY_CTRL,
   R.CPY_STATUS,
   R.CPY_ERR_CNT,
   R.CPY_STATE,
   R.RLY_SEND,
   R.RLY_SEND_STATUS,
   R.CLU_TRC_CFG]

/-- The registers of block `core`. -/
def regsOfCore : List RegDef :=
  [R.CORE_MODE,
   R.CORE_ARRAY_STATUS,
   R.CORE_COLMAP,
   R.CORE_ALIGN,
   R.CORE_EXC_STATUS,
   R.CORE_EXC_TENSOR,
   R.CORE_EXC_ROW,
   R.CORE_EXC_COL,
   R.CORE_EXC_BLOCK,
   R.CORE_EXC_TIME,
   R.CORE_RESIDUE_CNT,
   R.CORE_EDGE_CFG,
   R.CORE_OUTCONV]

/-- The registers of block `judge`. -/
def regsOfJudge : List RegDef :=
  [R.JDG_CMD,
   R.JDG_REQ_LO,
   R.JDG_REQ_HI,
   R.JDG_STATE,
   R.JDG_STATUS,
   R.JDG_DBG,
   R.JDG_FLOOR]

/-- The registers of block `trace`. -/
def regsOfTrace : List RegDef :=
  [R.TRC_CTRL,
   R.TRC_STATUS,
   R.TRC_TRIG_CFG,
   R.TRC_TRIG_TIME_LO,
   R.TRC_TRIG_TIME_HI,
   R.TRC_FRZ_CTRL,
   R.TRC_FRZ_STATE,
   R.TRC_PHOTO_CTRL,
   R.TRC_PHOTO_BASE_LO,
   R.TRC_PHOTO_BASE_HI,
   R.TRC_PHOTO_SIZE,
   R.TRC_PHOTO_STATE]

/-- The registers of block `traceQ`. -/
def regsOfTraceQ : List RegDef :=
  [R.TRC_Q_BASE_LO,
   R.TRC_Q_BASE_HI,
   R.TRC_Q_SIZE,
   R.TRC_Q_POST,
   R.TRC_Q_MODE,
   R.TRC_Q_NEXT,
   R.TRC_Q_LOST]

/-- The registers of each block (R520 to R523). -/
def blkRegs : Blk → List RegDef
  | .ident => regsOfIdent
  | .update => regsOfUpdate
  | .modExc => regsOfModExc
  | .lap => regsOfLap
  | .landing => regsOfLanding
  | .groups => regsOfGroups
  | .snap => regsOfSnap
  | .pacer => regsOfPacer
  | .spt => regsOfSpt
  | .power => regsOfPower
  | .images => regsOfImages
  | .intSrc => regsOfIntSrc
  | .intPend => regsOfIntPend
  | .intMask => regsOfIntMask
  | .intTgt => regsOfIntTgt
  | .intCfg => regsOfIntCfg
  | .xzSum => regsOfXzSum
  | .hub => regsOfHub
  | .hub0 => regsOfHub0
  | .hbm => regsOfHbm
  | .fault => regsOfFault
  | .link => regsOfLink
  | .die => regsOfDie
  | .clu => regsOfClu
  | .core => regsOfCore
  | .judge => regsOfJudge
  | .trace => regsOfTrace
  | .traceQ => regsOfTraceQ

/-- Where a plain address lies: its block kind, unit number and offset (R520 to R523); none: reserved. -/
def locate (a : Nat) : Option (Blk × Nat × Nat) :=
  let off := a % 0x4000
  if a < 0x0010_0000 then
    match a / 0x1_0000 with
    | 0 => some (.ident, 0, a)
    | 1 => some (.update, 0, a - 0x0001_0000)
    | 2 => some (.modExc, 0, a - 0x0002_0000)
    | 3 => some (.lap, 0, a - 0x0003_0000)
    | 4 => some (.landing, 0, a - 0x0004_0000)
    | 5 => some (.groups, 0, a - 0x0005_0000)
    | 6 => some (.snap, 0, a - 0x0006_0000)
    | 7 => if 0x100 ≤ off ∧ off < 0x300 ∧ a < 0x0007_4000 then some (.spt, (off - 0x100) / 16, off % 16)
           else some (.pacer, 0, a - 0x0007_0000)
    | 8 => some (.power, 0, a - 0x0008_0000)
    | 9 => some (.images, 0, a - 0x0009_0000)
    | 10 => some (.intSrc, ((a - 0x000A_0000) / 0x4000) * 1024 + off / 4, if off < 0x1000 then off % 4 else 0x4000)
    | 11 =>
      let o := a - 0x000B_0000
      if o < 0x200 then some (.intPend, o / 4, o % 4)
      else if o < 0x400 then some (.intMask, (o - 0x200) / 4, o % 4)
      else if o < 0x490 then some (.intTgt, (o - 0x400) / 16, o % 16)
      else if 0x500 ≤ o then some (.intCfg, 0, o - 0x500) else none
    | 12 => some (.xzSum, 0, a - 0x000C_0000)
    | _ => none
  else if 0x0100_0000 ≤ a ∧ a < 0x0200_0000 then
    let q := (a - 0x0100_0000) / 0x0040_0000
    let o := (a - 0x0100_0000) % 0x0040_0000
    if o < 0x4000 then some (if o < 0x20 then .hub else .hub0, q, o)
    else if 0x1_0000 ≤ o ∧ o < 0x3_0000 then some (.hbm, q * 8 + (o - 0x1_0000) / 0x4000, off)
    else if 0x3_0000 ≤ o ∧ o < 0x3_4000 ∧ q = 0 then some (.fault, 0, off)
    else if 0x4_0000 ≤ o ∧ o < 0x8_0000 then some (.link, q * 16 + (o - 0x4_0000) / 0x4000, off)
    else none
  else if 0x0200_0000 ≤ a ∧ a < 0x0A80_0000 then
    let d := (a - 0x0200_0000) / 0x0080_0000
    let o := (a - 0x0200_0000) % 0x0080_0000
    if 0x8000 ≤ o ∧ o < 0xC000 then some (.die, d, o - 0x8000)
    else if 0x0010_0000 ≤ o then
      let n := (o - 0x0010_0000) / 0x1_0000
      let p := (o - 0x0010_0000) % 0x1_0000
      if n < 105 then
        if p < 0x4000 then some (.clu, d * 105 + n, p)
        else if p < 0xC000 ∧ off < 0xD00 then
          some (.core, (d * 105 + n) * 52 + (if p < 0x8000 then 0 else 26) + off / 0x80, off % 0x80)
        else none
      else none
    else none
  else if 0x1000_0000 ≤ a ∧ a < 0x1000_4000 then some (.judge, 0, off)
  else if 0x1100_0000 ≤ a ∧ a < 0x1100_4000 then
    if 0x100 ≤ off ∧ off < 0x180 then some (.traceQ, (off - 0x100) / 0x20, off % 0x20) else some (.trace, 0, off)
  else none

/-- Is the place of a register one that exists: the blocks of HB0 alone exist at q = 0 (R522, R567). -/
def unitOk (b : Blk) (u : Nat) : Bool :=
  match b with
  | .hub0 => u == 0
  | _ => true

/-- The register at a plain address, with its unit number; none: reserved (R524). -/
def regAt (a : Nat) : Option (RegDef × Nat) :=
  match locate a with
  | none => none
  | some (b, u, o) => if unitOk b u then ((blkRegs b).find? (fun r => r.off == o)).map (fun r => (r, u)) else none

end Sys2Proof.Machine
end

