-- ==== Sys2Proof/Machine/Bits.lean ====
section
/-!
DEFINITION. Bit fields, byte order (R4), sparse tables, rounding to a quantum (R120), exact powers of two.
-/

namespace Sys2Proof.Machine

/-- Bits [hi:lo] of n. -/
def bits (n hi lo : Nat) : Nat := n / 2 ^ lo % 2 ^ (hi + 1 - lo)

/-- Bit i of n. -/
def bit (n i : Nat) : Bool := n / 2 ^ i % 2 == 1

/-- n with bits [hi:lo] replaced by v. -/
def setBits (n hi lo v : Nat) : Nat :=
  n - bits n hi lo * 2 ^ lo + v % 2 ^ (hi + 1 - lo) * 2 ^ lo

/-- 1 or 0. -/
def b2n (b : Bool) : Nat := if b then 1 else 0

/-- The w-bit two's complement pattern n as a signed integer. -/
def sext (w n : Nat) : Int := if n % 2 ^ w < 2 ^ (w - 1) then (n % 2 ^ w : Nat) else (n % 2 ^ w : Nat) - (2 ^ w : Nat)

/-- The w-bit two's complement pattern of i. -/
def unsx (w : Nat) (i : Int) : Nat := (i % (2 ^ w : Nat)).toNat

/-- Little-endian bytes as a number (R4). -/
def leNat : List Byte → Nat
  | [] => 0
  | b :: bs => b.toNat + 256 * leNat bs

/-- The k low bytes of n, little-endian (R4). -/
def toBytes : Nat → Nat → List Byte
  | 0, _ => []
  | k + 1, n => BitVec.ofNat 8 n :: toBytes k (n / 256)

/-- n mod m counted up by one, saturating. -/
def satInc (n max : Nat) : Nat := if n < max then n + 1 else max

/-- n + k, saturating at max. -/
def satAdd (n k max : Nat) : Nat := if n + k ≤ max then n + k else max

/-! ### Sparse tables: association lists in strictly rising key order -/

/-- The entry at key k, or d. -/
def slGet {α : Type} (d : α) : List (Nat × α) → Nat → α
  | [], _ => d
  | (j, v) :: l, k => if j == k then v else slGet d l k

/-- The entry at key k. -/
def slFind {α : Type} : List (Nat × α) → Nat → Option α
  | [], _ => none
  | (j, v) :: l, k => if j == k then some v else slFind l k

/-- The table with entry v at key k. -/
def slSet {α : Type} : List (Nat × α) → Nat → α → List (Nat × α)
  | [], k, v => [(k, v)]
  | (j, w) :: l, k, v =>
    if j == k then (k, v) :: l else if k < j then (k, v) :: (j, w) :: l else (j, w) :: slSet l k v

/-- The table without key k. -/
def slDel {α : Type} : List (Nat × α) → Nat → List (Nat × α)
  | [], _ => []
  | (j, w) :: l, k => if j == k then slDel l k else (j, w) :: slDel l k

/-! ### Exact integers and powers of two -/

/-- floor(log2 |m|) of a nonzero integer. -/
def ilog2 (m : Int) : Int := (Nat.log2 m.natAbs : Nat)

/-- floor of m / 2^k. -/
def floorShift (m : Int) (k : Nat) : Int := m / (2 ^ k : Nat)

/-- m / d rounded to nearest, ties to even; d > 0. -/
def rneDiv (m : Int) (d : Nat) : Int :=
  let q := m / (d : Int)
  let r := m % (d : Int)
  if 2 * r < d then q else if (d : Int) < 2 * r then q + 1 else if q % 2 = 0 then q else q + 1

/-- m / d with one 16-bit draw r (R120, stochastic): up when floor(rho * 2^16) + r reaches 2^16. -/
def stochDiv (m : Int) (d : Nat) (r : Nat) : Int :=
  let q := m / (d : Int)
  let rho16 := (m % (d : Int)) * 65536 / (d : Int)
  if 65536 ≤ rho16 + r then q + 1 else q

/-- The two rounding modes of R120; the stochastic one carries its draw. -/
inductive Rnd where
  | rne
  | stoch (r : Nat)
  deriving DecidableEq, Repr

/-- m / d rounded by the mode of R120. -/
def Rnd.div (md : Rnd) (m : Int) (d : Nat) : Int :=
  match md with
  | .rne => rneDiv m d
  | .stoch r => stochDiv m d r

/-- The rational num / den * 2^e as a multiple count of 2^q, rounded by the mode. -/
def Rnd.at (md : Rnd) (num : Int) (den : Nat) (e q : Int) : Int :=
  if q ≤ e then md.div (num * (2 ^ (e - q).toNat : Nat)) den else md.div num (den * 2 ^ (q - e).toNat)

/-- floor(log2 |num / den * 2^e|), num nonzero, den positive. -/
def ratLog2 (num : Int) (den : Nat) (e : Int) : Int :=
  let g := ilog2 num - (Nat.log2 den : Nat)
  -- |num/den| lies in (2^(g-1), 2^(g+1))
  let ge := if 0 ≤ g then decide (den * 2 ^ g.toNat ≤ num.natAbs) else decide (den ≤ num.natAbs * 2 ^ (-g).toNat)
  (if ge then g else g - 1) + e

/-- Does |num1/den1 * 2^e1| exceed |num2/den2 * 2^e2|. -/
def magLt (num2 : Int) (den2 : Nat) (e2 : Int) (num1 : Int) (den1 : Nat) (e1 : Int) : Bool :=
  let a := num1.natAbs * den2
  let b := num2.natAbs * den1
  if e2 ≤ e1 then decide (b < a * 2 ^ (e1 - e2).toNat) else decide (b * 2 ^ (e2 - e1).toNat < a)

/-- m * 2^d for d of either sign, rounding to nearest even when bits leave. -/
def shiftRne (m : Int) (d : Int) : Int :=
  if 0 ≤ d then m * (2 ^ d.toNat : Nat) else rneDiv m (2 ^ (-d).toNat)

/-- The least of a list of integers, none of an empty one. -/
def minI : List Int → Option Int
  | [] => none
  | x :: xs => some (xs.foldl min x)

/-- The greatest of a list of integers, none of an empty one. -/
def maxI : List Int → Option Int
  | [] => none
  | x :: xs => some (xs.foldl max x)

/-- CRC over a byte string, reflected, with the given polynomial, start value and final XOR (width in bits). -/
def crcRefl (w poly init xor : Nat) (bs : List Byte) : Nat :=
  let one := fun (c : Nat) => c / 2 ^^^ c % 2 * poly
  let c := bs.foldl (fun c b => (List.range 8).foldl (fun c _ => one c) (c ^^^ b.toNat)) init
  (c ^^^ xor) % 2 ^ w

/-- CRC-32C (Castagnoli). -/
def crc32c (bs : List Byte) : Nat := crcRefl 32 0x82F63B78 0xFFFFFFFF 0xFFFFFFFF bs

/-- CRC over a byte string, most significant bit first. -/
def crcMsb (w poly init : Nat) (bs : List Byte) : Nat :=
  let one := fun (c : Nat) => if c / 2 ^ (w - 1) % 2 == 1 then (c * 2 % 2 ^ w) ^^^ poly else c * 2 % 2 ^ w
  bs.foldl (fun c b => (List.range 8).foldl (fun c _ => one c) (c ^^^ (b.toNat * 2 ^ (w - 8)))) init

/-- Put x into a list in rising order of f, before equal ones. -/
def insOn {α : Type} (f : α → Nat) (x : α) : List α → List α
  | [] => [x]
  | y :: l => if f x ≤ f y then x :: y :: l else y :: insOn f x l

/-- A list in rising order of f; equal ones keep their order. -/
def sortOn {α : Type} (f : α → Nat) : List α → List α
  | [] => []
  | x :: l => insOn f x (sortOn f l)

end Sys2Proof.Machine
end

