-- ==== Sys2Proof/Machine/Cells.lean ====
section
/-!
DEFINITION. The cells of an array: digits (R33), the product of a cell and the running column sum (R31, R32), fused columns
and strides (R35, R36), the edge combiner (R37), linked cells (R39), and the places of columns (R40, R41, R49, R50).
-/

namespace Sys2Proof.Machine

/-! ### Digits (R33) -/

/-- A 4-bit digit with its top flag (R31). -/
structure Digit where
  d : BitVec 4 := 0
  top : Bool := false
  deriving DecidableEq, Repr

/-- The value of a digit: signed, -8 to 7, when its top flag is set; else unsigned, 0 to 15 (R32). -/
def Digit.val (x : Digit) : Int := if x.top then x.d.toInt else (x.d.toNat : Int)

/-- Digit m of an integer operand of n digits; the top flag stands on the last only (R33). -/
def digit (n : Nat) (v : Int) (m : Nat) : Digit := { d := BitVec.ofInt 4 (v / (16 ^ m : Nat)), top := m + 1 == n }

/-- The digit vector of an integer operand of 4n bits, least significant digit first (R33). -/
def digits (n : Nat) (v : Int) : List Digit := (List.range n).map (digit n v)

/-- The operand a digit vector stands for (R33). -/
def digitsVal : List Digit → Int
  | [] => 0
  | x :: xs => x.val + 16 * digitsVal xs

/-! ### Cells and columns (R31, R32) -/

/-- A row register: main lane, its top flag, and the high lane of the 8-bit operations (R31). -/
structure RowReg where
  main : BitVec 4 := 0
  top : Bool := false
  high : BitVec 4 := 0
  deriving DecidableEq, Repr

/-- A cell's registers (R31): active and shadow weight digit, row register, partial sum of the column. -/
structure Cell where
  active : Digit := {}
  shadow : Digit := {}
  row : RowReg := {}
  psum : BitVec 14 := 0
  deriving DecidableEq, Repr

/-- One multiply-add of a cell: the product joins the partial sum from the row above (R32). -/
def cellMac (w a : Digit) (p : BitVec 14) : BitVec 14 := p + BitVec.ofInt 14 (w.val * a.val)

/-- The partial sums that leave each row of a column, from the top down, starting from p (R32). -/
def columnSums : List Digit → List Digit → BitVec 14 → List (BitVec 14)
  | w :: ws, a :: as, p => cellMac w a p :: columnSums ws as (cellMac w a p)
  | _, _, _ => []

/-- The sum that leaves the last row of a column (R32). -/
def columnSum : List Digit → List Digit → BitVec 14 → BitVec 14
  | w :: ws, a :: as, p => columnSum ws as (cellMac w a p)
  | _, _, p => p

/-! ### The edge combiner (R37) -/

/-- The sum S(n, t, g*k + m) of the column that holds digit m of the weights qw, for the stride of digit t of the
elements qx (R35, R36). -/
def strideSum (k s : Nat) (qw qx : List Int) (t m : Nat) : BitVec 14 :=
  columnSum (qw.map (fun v => digit k v m)) (qx.map (fun v => digit s v t)) 0

/-- The combiner's result before its width: the column sums of all strides with their weights 16^(m+t) (R37). -/
def combine (k s : Nat) (S : Nat → Nat → BitVec 14) : Int :=
  ((List.range s).map (fun t => ((List.range k).map (fun m => (16 ^ (m + t) : Nat) * (S t m).toInt)).sum)).sum

/-- y(n, g), delivered as a signed integer of p + 5 bits (R37). -/
def combined (k s : Nat) (qw qx : List Int) : Int :=
  (BitVec.ofInt (4 * k + 4 * s + 5) (combine k s (strideSum k s qw qx))).toInt

/-! ### Linked cells (R39) -/

/-- The cells of a fused group add or subtract their digits from the lowest up, each passing its carry on (R39):
`f` joins two digit values. -/
def linkCells (f : Int → Int → Int) : List Digit → List Digit → Int → Int
  | [x], [w], c => f x.val w.val + c
  | x :: xs, w :: ws, c => (f x.val w.val + c) % 16 + 16 * linkCells f xs ws ((f x.val w.val + c) / 16)
  | _, _, _ => 0

/-- x + w formed by n linked cells. -/
def linkAdd (n : Nat) (x w : Int) : Int := linkCells (· + ·) (digits n x) (digits n w) 0

/-- x - w formed by n linked cells. -/
def linkSub (n : Nat) (x w : Int) : Int := linkCells (· - ·) (digits n x) (digits n w) 0

/-- The population count of a digit pattern. -/
def popc4 (n : BitVec 4) : Nat := (List.range 4).countP (fun i => n.getLsbD i)

/-- The bits in which n raw digit patterns of x and w differ; top flags have no effect (R39). -/
def linkXor (n : Nat) (x w : Int) : Nat :=
  (((digits n x).zip (digits n w)).map (fun p => popc4 (p.1.d ^^^ p.2.d))).sum

/-! ### Where columns lie (R40, R41, R49, R50) -/

/-- The physical column of logical array column j under the excluded column (R49). -/
def physCol (retired j : Nat) : Nat := if j < retired then j else j + 1

/-- The physical column at which the right quadrants take their row inputs; the row path breaks just before it (R50). -/
def rowInput (retired : Nat) : Nat := if retired ≤ 16 then 17 else 16

/-- The first row of a quadrant (R40); the full array starts at row 0. -/
def quadRow (quad : Bool) (q : Nat) : Nat := if quad && 2 ≤ q then 16 else 0

/-- The physical columns a digit passes in a quadrant's rows, from its input on; it crosses the excluded column through the
bypass register outside the cells (R49, R50). -/
def rowPath (retired : Nat) (quad : Bool) (q : Nat) : List Nat :=
  (List.range 33).filter (fun p => p != retired &&
    (if !quad then true else if q % 2 == 0 then decide (p < rowInput retired) else decide (rowInput retired ≤ p)))

/-- The physical columns that hold logical weight column g, digit 0 first (R35, R41). -/
def weightPlace (retired : Nat) (quad : Bool) (q k g : Nat) : List Nat :=
  ((rowPath retired quad q).drop (g * k)).take k

end Sys2Proof.Machine
end

