-- ==== Sys2Proof/Machine/Formats.lean ====
section
/-!
DEFINITION. Number formats and carriers (R103 to R117, R596): the value and class every stored pattern carries, and the
rounding and encoding of a value into stored bits (R118 to R126).
-/

namespace Sys2Proof.Machine

/-- The ten formats (R103). -/
inductive Fmt where
  | fp32 | bf16 | fp16 | e4m3 | e5m2 | int8 | int4 | b8 | b4 | a8
  deriving DecidableEq, Repr

/-- The format of a code; codes 0xA to 0xF are reserved (R103). -/
def Fmt.ofCode : Nat → Option Fmt
  | 0 => some .fp32
  | 1 => some .bf16
  | 2 => some .fp16
  | 3 => some .e4m3
  | 4 => some .e5m2
  | 5 => some .int8
  | 6 => some .int4
  | 7 => some .b8
  | 8 => some .b4
  | 9 => some .a8
  | _ => none

/-- Is the format one of the five floating formats (R104). -/
def Fmt.isFloat : Fmt → Bool
  | .fp32 | .bf16 | .fp16 | .e4m3 | .e5m2 => true
  | _ => false

/-- Is the format stored as carriers (R103). -/
def Fmt.isBlock : Fmt → Bool
  | .b8 | .b4 => true
  | _ => false

/-- Bits per element (R103). -/
def Fmt.width : Fmt → Nat
  | .fp32 => 32
  | .bf16 | .fp16 => 16
  | .int4 | .b4 => 4
  | _ => 8

/-- Bytes of a carrier (R112, R113). -/
def Fmt.carrierBytes : Fmt → Nat
  | .b8 => 128
  | _ => 64

/-- Outlier slots of a carrier (R112, R113). -/
def Fmt.slotCount : Fmt → Nat
  | .b8 => 9
  | _ => 4

/-- Does an output of this format need a scale entry (R133). -/
def Fmt.needsScale : Fmt → Bool
  | .fp32 | .bf16 | .fp16 => false
  | _ => true

/-- The class of an element (R93). -/
inductive Cls where
  | fin | zero | inf | nan
  deriving DecidableEq, Repr

/-- A decoded element: class, sign, exact value m * 2^e, stored integer code, and whether it came from an outlier slot. -/
structure Elem where
  cls : Cls
  neg : Bool := false
  m : Int := 0
  e : Int := 0
  code : Int := 0
  slot : Bool := false
  deriving DecidableEq, Repr

/-- Parameters of a floating format: exponent bits, fraction bits, bias (R104). -/
structure FloatFmt where
  eb : Nat
  t : Nat
  bias : Int
  deriving DecidableEq, Repr

/-- The floating parameters of a format (R104); integer formats are given FP32's, which nothing uses. -/
def Fmt.flt : Fmt → FloatFmt
  | .bf16 => ⟨8, 7, 127⟩
  | .fp16 => ⟨5, 10, 15⟩
  | .e4m3 => ⟨4, 3, 7⟩
  | .e5m2 => ⟨5, 2, 15⟩
  | _ => ⟨8, 23, 127⟩

/-- Decode a floating pattern (R105); the second component tells a flushed subnormal (R106). -/
def decodeFloat (f : Fmt) (n : Nat) : Elem × Bool :=
  let p := f.flt
  let fr := n % 2 ^ p.t
  let ex := n / 2 ^ p.t % 2 ^ p.eb
  let s := n / 2 ^ (p.t + p.eb) % 2 == 1
  let normal : Elem :=
    let mag : Int := (2 ^ p.t + fr : Nat)
    { cls := .fin, neg := s, m := if s then -mag else mag, e := (ex : Int) - p.bias - p.t }
  if ex == 0 then ({ cls := .zero, neg := s }, fr != 0)
  else if ex == 2 ^ p.eb - 1 then
    match f with
    | .e4m3 => if fr == 7 then ({ cls := .nan }, false) else (normal, false)
    | _ => if fr == 0 then ({ cls := .inf, neg := s }, false) else ({ cls := .nan }, false)
  else (normal, false)

/-- An element of integer code c and scale exponent x (R107, R108). -/
def codeElem (c : Int) (x : Int) : Elem :=
  if c == 0 then { cls := .zero, code := 0, e := x } else { cls := .fin, neg := decide (c < 0), m := c, e := x, code := c }

/-- Counter indices of a statistics record (R163). -/
def ctr.elements : Nat := 0
def ctr.zeroOut : Nat := 1
def ctr.inFlush : Nat := 2
def ctr.outFlush : Nat := 3
def ctr.saturation : Nat := 4
def ctr.satBlock : Nat := 5
def ctr.zeroBlock : Nat := 6
def ctr.crush : Nat := 7
def ctr.outlierMoved : Nat := 8
def ctr.sidecarExcess : Nat := 9
def ctr.outlierStored : Nat := 10
def ctr.alignLoss : Nat := 11
def ctr.alignZero : Nat := 12
def ctr.nanOut : Nat := 13
def ctr.infOut : Nat := 14
def ctr.invalid : Nat := 15
def ctr.reconversion : Nat := 16
def ctr.fallback : Nat := 17
def ctr.adaptation : Nat := 18

/-- Statistics events of one operation: counts by counter index, and for every finite nonzero output its exponent and
its magnitude rounded upward to FP32 (R162 to R164). -/
structure Evs where
  ctr : List (Nat × Nat) := []
  outs : List (Int × Nat) := []
  deriving DecidableEq, Repr

/-- k events of counter i. -/
def Evs.one (i k : Nat) : Evs := if k == 0 then {} else { ctr := [(i, k)] }

/-- Both event lists. -/
def Evs.add (a b : Evs) : Evs :=
  { ctr := b.ctr.foldl (fun l p => slSet l p.1 (slGet 0 l p.1 + p.2)) a.ctr, outs := a.outs ++ b.outs }

/-- The sum of event lists. -/
def Evs.sum (l : List Evs) : Evs := l.foldl Evs.add {}

/-- How many events of counter i. -/
def Evs.count (a : Evs) (i : Nat) : Nat := slGet 0 a.ctr i

/-- The INT4 or B4 code j of packed bytes (R107). -/
def nibbleAt (bs : List Byte) (j : Nat) : Int :=
  sext 4 (bits ((bs.getD (j / 2) 0).toNat) (if j % 2 == 0 then 3 else 7) (if j % 2 == 0 then 0 else 4))

/-- The stored code j of a run in a byte or nibble integer format. -/
def codeAt (f : Fmt) (bs : List Byte) (j : Nat) : Int :=
  match f with
  | .int4 | .b4 => nibbleAt bs j
  | _ => sext 8 ((bs.getD j 0).toNat)

/-- Decode one element of a format that is stored as elements: element j of the byte run; tau is the tensor scale
exponent of the integer formats (R105, R107). The event is an input flush (R106). -/
def decodeAt (f : Fmt) (tau : Int) (bs : List Byte) (j : Nat) : Elem × Evs :=
  match f with
  | .int8 | .int4 => (codeElem (codeAt f bs j) tau, {})
  | _ =>
    let w := f.width / 8
    let r := decodeFloat f (leNat ((bs.drop (j * w)).take w))
    (r.1, Evs.one ctr.inFlush (b2n r.2))

/-- Decode a whole B8 or B4 carrier: 96 elements with their block scale bytes, and the carrier's input events, once
per decoding (R114 to R116, R596). -/
def decodeCarrier (f : Fmt) (bs : List Byte) : List Elem × List Nat × Evs :=
  let bb := f.carrierBytes / 4
  let sig := (List.range 3).map (fun i => (bs.getD (3 * bb + i) 0).toNat)
  let flags := (bs.getD (3 * bb + 3) 0).toNat
  let nOut := flags % 16
  let slotAt := fun (i : Nat) =>
    let o := 3 * bb + 4 + 3 * i
    ((bs.getD o 0).toNat, leNat ((bs.drop (o + 1)).take 2))
  let slots := (List.range (min nOut f.slotCount)).map slotAt
  let rec rising : List (Nat × Nat) → Bool
    | a :: b :: l => decide (a.1 < b.1) && rising (b :: l)
    | _ => true
  let bad := decide (f.slotCount < nOut) || !rising slots || slots.any (fun p => decide (95 < p.1))
  if bad then ((List.range 96).map (fun j => { cls := .nan, code := codeAt f (bs.drop (j / 32 * bb)) (j % 32) }),
               sig, Evs.one ctr.invalid 1)
  else
    let base := fun (j : Nat) =>
      let s := sig.getD (j / 32) 0
      let c := codeAt f (bs.drop (j / 32 * bb)) (j % 32)
      if s == 0 then ({ cls := .zero, code := c } : Elem)
      else if s == 255 then { cls := .nan, code := c }
      else codeElem c ((s : Int) - 127)
    let els := (List.range 96).map (fun j =>
      match slots.find? (fun p => p.1 == j) with
      | some p => if sig.getD (j / 32) 0 == 255 then base j
                  else { (decodeFloat .bf16 p.2).1 with slot := true, code := (base j).code }
      | none => base j)
    let fl := slots.countP (fun p => (decodeFloat .bf16 p.2).2)
    (els, sig, Evs.one ctr.inFlush fl)

/-- An A8 channel descriptor (R110, R111). -/
inductive A8Desc where
  | unused
  | invalid
  | scaled (sm : Nat) (se : Int) (zp : Nat)
  deriving DecidableEq, Repr

/-- Decode an A8 channel descriptor (R110, R111). -/
def a8Desc (d : Nat) : A8Desc :=
  let sc := bits d 31 0
  if sc == 0 && bits d 63 56 == 0 then .unused
  else
    let r := decodeFloat .fp32 sc
    if bits d 63 56 != 0 || bit sc 31 || r.1.cls != .fin then .invalid else .scaled r.1.m.toNat r.1.e (bits d 39 32)

/-- Decode one A8 code under its channel descriptor: the integer a - z enters the array, the scale is applied at
output conversion (R111). The value given is (a - z) * 2^0. -/
def a8Elem (d : A8Desc) (a : Nat) : Elem × Evs :=
  match d with
  | .unused => ({ cls := .zero }, {})
  | .invalid => ({ cls := .nan }, Evs.one ctr.invalid 1)
  | .scaled _ _ z => (codeElem ((a : Int) - z) 0, {})

/-! ### Encoding -/

/-- An exact rational num / den * 2^e. -/
structure Q where
  num : Int
  den : Nat := 1
  e : Int := 0
  deriving DecidableEq, Repr

/-- floor(log2 |y|). -/
def Q.log2 (y : Q) : Int := ratLog2 y.num y.den y.e

/-- y / 2^k. -/
def Q.scale (y : Q) (k : Int) : Q := { y with e := y.e - k }

/-- |a| < |b|. -/
def Q.magLt (a b : Q) : Bool := Machine.magLt a.num a.den a.e b.num b.den b.e

/-- The FP32 pattern of a positive magnitude rounded upward (R162): a magnitude below 2^-126 becomes 2^-126, one above
the largest finite value becomes infinity. -/
def fp32Up (y : Q) : Nat :=
  let e := y.log2
  if e < -126 then 0x00800000
  else
    let q := e - 23
    -- ceiling of |y| / 2^q
    let n := y.num.natAbs
    let c := if q ≤ y.e then (n * 2 ^ (y.e - q).toNat + y.den - 1) / y.den
             else let d := y.den * 2 ^ (q - y.e).toNat
                  (n + d - 1) / d
    let (c, e) := if c == 2 ^ 24 then (2 ^ 23, e + 1) else (c, e)
    if 127 < e then 0x7F800000 else (e + 127).toNat * 2 ^ 23 + (c - 2 ^ 23)

/-- The NaN pattern a format writes (R104). -/
def Fmt.nanBits : Fmt → Nat
  | .fp32 => 0x7FC00000
  | .bf16 => 0x7FC0
  | .fp16 => 0x7E00
  | .e4m3 => 0x7F
  | _ => 0x7E

/-- The pattern of plus or minus infinity in a floating format; E4M3 has none and writes its NaN (R121). -/
def Fmt.infBits (f : Fmt) (neg : Bool) : Nat :=
  let p := f.flt
  match f with
  | .e4m3 => 0x7F
  | _ => b2n neg * 2 ^ (p.t + p.eb) + (2 ^ p.eb - 1) * 2 ^ p.t

/-- The largest finite pattern of a floating format (R104). -/
def Fmt.maxBits (f : Fmt) (neg : Bool) : Nat :=
  let p := f.flt
  b2n neg * 2 ^ (p.t + p.eb) +
    (match f with
     | .e4m3 => 0x7E
     | _ => (2 ^ p.eb - 2) * 2 ^ p.t + (2 ^ p.t - 1))

/-- Encode a finite nonzero scaled value into a floating format (R121): the pattern and its events. -/
def encodeFloat (f : Fmt) (md : Rnd) (y : Q) : Nat × Evs :=
  let p := f.flt
  let neg := decide (y.num < 0)
  let e := y.log2
  let c := (md.at y.num y.den y.e (e - p.t)).natAbs
  let (c, e) := if c == 2 ^ (p.t + 1) then (2 ^ p.t, e + 1) else (c, e)
  let emin : Int := 1 - p.bias
  let emax : Int := match f with
    | .e4m3 => 8
    | _ => p.bias
  if e < emin then (b2n neg * 2 ^ (p.t + p.eb), Evs.one ctr.outFlush 1)
  else if emax < e || (f == .e4m3 && e == 8 && decide (14 < c)) then
    match f with
    | .e4m3 | .e5m2 => (f.maxBits neg, Evs.one ctr.saturation 1)
    | _ => (f.infBits neg, Evs.one ctr.infOut 1)
  else (b2n neg * 2 ^ (p.t + p.eb) + (e + p.bias).toNat * 2 ^ p.t + (c - 2 ^ p.t), {})

/-- Clamp to -lim .. lim, telling whether it clamped. -/
def clampSym (c : Int) (lim : Int) : Int × Bool :=
  if lim < c then (lim, true) else if c < -lim then (-lim, true) else (c, false)

/-- The rounded code of a finite scaled value in an integer or block format of b bits (R123, R124). -/
def encodeCode (b : Nat) (md : Rnd) (y : Q) : Int × Bool :=
  clampSym (md.at y.num y.den y.e 0) (2 ^ (b - 1) - 1 : Nat)

/-- An output before encoding: its class and, when finite, its exact value (R118, R119). -/
structure OutVal where
  cls : Cls
  neg : Bool := false
  inv : Bool := false
  y : Q := { num := 0 }
  /-- A position of a carrier that nothing is converted into: a zero, and no event of any kind. -/
  absent : Bool := false
  deriving DecidableEq, Repr

/-- The zero of a carrier position that holds no output. -/
def OutVal.none : OutVal := { cls := .zero, absent := true }

/-- The class events of an output (R118). -/
def OutVal.evs (o : OutVal) : Evs :=
  if o.absent then {} else Evs.sum [Evs.one ctr.elements 1,
    match o.cls with
    | .fin => { outs := [(o.y.log2, fp32Up o.y)] }
    | .zero => Evs.one ctr.zeroOut 1
    | .inf => Evs.one ctr.infOut 1
    | .nan => Evs.one ctr.nanOut 1,
    Evs.one ctr.invalid (b2n o.inv)]

/-- Encode one output of a floating or integer format under the output scale 2^tau (R119 to R123). -/
def encodeElem (f : Fmt) (md : Rnd) (tau : Int) (o : OutVal) : Nat × Evs :=
  let ev := o.evs
  match f with
  | .int8 | .int4 =>
    let b := f.width
    match o.cls with
    | .fin =>
      let r := encodeCode b md (o.y.scale tau)
      (unsx b r.1, ev.add (Evs.one ctr.saturation (b2n r.2)))
    | .inf => (unsx b (if o.neg then -(2 ^ (b - 1) - 1 : Nat) else (2 ^ (b - 1) - 1 : Nat)), ev)
    | _ => (0, ev)
  | _ =>
    match o.cls with
    | .fin =>
      let r := encodeFloat f md (o.y.scale tau)
      (r.1, ev.add r.2)
    | .zero => (0, ev)
    | .inf => (f.infBits o.neg, ev)
    | .nan => (f.nanBits, ev)

/-- Encode one A8 output under the channel scale sm * 2^se and zero point (R126). Under sm = 0, an unused channel, the range of
R153 holds 0 alone, so a nonzero output clamps. -/
def encodeA8 (md : Rnd) (sm : Nat) (se : Int) (z : Nat) (o : OutVal) : Nat × Evs :=
  let ev := o.evs
  match o.cls with
  | .nan => (z, ev)
  | .inf => (if o.neg then 0 else 255, ev)
  | .zero => (z, ev)
  | .fin =>
    let c := if sm == 0 then (if o.y.num < 0 then -256 else 256) else md.at o.y.num (o.y.den * sm) (o.y.e - se) 0
    let a := c + z
    if a < 0 then (0, ev.add (Evs.one ctr.saturation 1))
    else if 255 < a then (255, ev.add (Evs.one ctr.saturation 1))
    else (a.toNat, ev)

/-! ### Block outputs (R124, R125, R146 to R150) -/

/-- The largest code C of a block format (R146). -/
def Fmt.blockC : Fmt → Nat
  | .b8 => 127
  | _ => 7

/-- sigma(x): the least scale byte in 0x01 to 0xFE under which |x| rounds to a code of at most C; 0xFE when none does
(R146). The least one lies within two steps of floor(log2 |x|) - floor(log2 C). -/
def sigmaOf (f : Fmt) (x : Q) : Nat :=
  let fits := fun (s : Int) => decide ((Rnd.rne.at x.num x.den x.e (s - 127)).natAbs ≤ f.blockC)
  let g := x.log2 - (if f == .b8 then 6 else 2) + 127
  let cand := [g - 1, g, g + 1, g + 2].filter fits
  let s := match cand with
    | [] => 0xFE
    | c :: _ => c
  if s < 1 then 1 else if 0xFE < s then 0xFE else s.toNat

/-- Insert an index by descending magnitude, lower index first among equals (R146). -/
def insertMag (y : Nat → Q) (i : Nat) : List Nat → List Nat
  | [] => [i]
  | j :: l => if (y j).magLt (y i) then i :: j :: l else j :: insertMag y i l

/-- The candidates of one block, in descending magnitude (R146): l ranks its finite nonzero elements. -/
def blockCandidates (f : Fmt) (y : Nat → Q) : List Nat → List Nat
  | a :: b :: l =>
    if Rnd.rne.at (y b).num (y b).den (y b).e ((sigmaOf f (y a) : Int) - 127) == 0
    then a :: blockCandidates f y (b :: l) else []
  | _ => []

/-- The slot pattern of an outlier selected by magnitude (R125, R150). -/
def slotBits (y : Q) : Nat × Evs :=
  let neg := decide (y.num < 0)
  let r := encodeFloat .bf16 .rne y
  if r.2.count ctr.infOut == 1 then (Fmt.bf16.maxBits neg, Evs.one ctr.saturation 1) else r

/-- One encoded block or carrier output: its bytes and events. -/
structure CarrierOut where
  bytes : List Byte
  evs : Evs
  deriving DecidableEq, Repr

/-- Pack block codes into bytes (R107, R108). -/
def packCodes (f : Fmt) : List Int → List Byte
  | [] => []
  | [a] => [BitVec.ofInt 8 (if f == .b8 then a else a % 16)]
  | a :: b :: l =>
    match f with
    | .b8 => BitVec.ofInt 8 a :: packCodes f (b :: l)
    | _ => BitVec.ofInt 8 (a % 16 + 16 * (b % 16)) :: packCodes f l

/-- Encode a carrier of 96 outputs under the ceiling sigma_t; `md j` is the rounding of element j
(R124, R125, R146 to R150). A block that holds no output at all has scale byte 0x00 too, and reports no zero block event:
that event tells a block's content. An element of a NaN block reports no invalid event even where `inv` is set: a DESIGN CHOICE
(log 97), since R125 and R118 differ there. -/
def encodeCarrier (f : Fmt) (sigT : Nat) (md : Nat → Rnd) (os : List OutVal) : CarrierOut :=
  let o := fun (i : Nat) => os.getD i OutVal.none
  let y := fun (i : Nat) => (o i).y
  let idx := List.range 96
  let nonfin := idx.filter (fun i => (o i).cls == .nan || (o i).cls == .inf)
  let left := nonfin.drop f.slotCount
  let nanBlk := fun (b : Nat) => left.any (fun i => i / 32 == b)
  let nfSlots := (nonfin.take f.slotCount).filter (fun i => !nanBlk (i / 32))
  let ranked := fun (b : Nat) =>
    if nanBlk b then [] else
      ((List.range 32).map (· + 32 * b)).foldl
        (fun l i => if (o i).cls == .fin then insertMag y i l else l) []
  let cands := (List.range 3).flatMap (fun b => blockCandidates f y (ranked b))
  let order := cands.foldl (fun l i => insertMag y i l) []
  let chosen := order.take (f.slotCount - nfSlots.length)
  let crushed := fun (b : Nat) => cands.any (fun i => i / 32 == b && !chosen.contains i)
  let slots := idx.filter (fun i => nfSlots.contains i || chosen.contains i)
  let slotVal := fun (i : Nat) =>
    match (o i).cls with
    | .nan => (0x7FC0, ({} : Evs))
    | .inf => (if (o i).neg then 0xFF80 else 0x7F80, {})
    | _ => slotBits (y i)
  let block := fun (b : Nat) =>
    let inb := (List.range 32).map (· + 32 * b)
    if nanBlk b then
      ((0xFF : Nat), inb.map (fun _ => (0 : Int)), Evs.sum ((inb.filter (fun i => !(o i).absent)).map (fun i =>
        ({ ctr := [(ctr.elements, 1), (ctr.nanOut, 1)],
           outs := if (o i).cls == .fin then [((y i).log2, fp32Up (y i))] else [] } : Evs))), false)
    else
      let rest := (ranked b).filter (fun i => !chosen.contains i)
      let evO := Evs.sum (inb.map (fun i => (o i).evs))
      match rest with
      | [] => (0, inb.map (fun _ => 0), evO.add (Evs.one ctr.zeroBlock (b2n (inb.any (fun i => !(o i).absent)))), false)
      | r :: _ =>
        let sig := min (sigmaOf f (y r)) (max 1 (min sigT 0xFE))
        let enc := inb.map (fun i =>
          if rest.contains i then encodeCode f.width (md i) ((y i).scale ((sig : Int) - 127)) else (0, false))
        let nsat := enc.countP (fun c => c.2)
        let allSat := nsat == rest.length
        let zero := enc.all (fun c => c.1 == 0)
        ((if zero then 0 else sig), enc.map (fun c => c.1),
          Evs.sum [evO, Evs.one ctr.saturation nsat, Evs.one ctr.satBlock (b2n allSat),
            Evs.one ctr.zeroBlock (b2n zero), Evs.one ctr.crush (b2n (crushed b))], decide (0 < nsat))
  let blks := (List.range 3).map block
  let sv := slots.map (fun i => (i, slotVal i))
  let slotSat := sv.any (fun p => p.2.2.count ctr.saturation != 0)
  let sat := blks.any (fun b => b.2.2.2) || slotSat
  let crushF := (List.range 3).any (fun b => !nanBlk b && crushed b)
  let cnt := slots.length + 16 * b2n crushF + 32 * b2n sat
  let slotBytes := sv.flatMap (fun p => BitVec.ofNat 8 p.1 :: toBytes 2 p.2.1)
  let pad := List.replicate (3 * f.slotCount - slotBytes.length + (if f == .b8 then 1 else 0)) (0 : Byte)
  { bytes := blks.flatMap (fun b => packCodes f b.2.1) ++ blks.map (fun b => BitVec.ofNat 8 b.1)
      ++ [BitVec.ofNat 8 cnt] ++ slotBytes ++ pad,
    evs := Evs.sum (blks.map (fun b => b.2.2.1) ++ sv.map (fun p => p.2.2)
      ++ [Evs.one ctr.outlierStored slots.length]) }

end Sys2Proof.Machine
end

