-- ==== Sys2Proof/Machine/ArrayMath.lean ====
section
/-!
DEFINITION. The arithmetic of a core's array: alignment (R65 to R69), the outlier sidecar (R71 to R73), wavefront
products (R32 to R39, R91), class results (R94), narrow runs (R76) and wide records (R79, R80).
-/

namespace Sys2Proof.Machine

/-! ### The mode word (R44) -/

/-- Digits of a width code: 4, 8, 12, 16 or 24 bits (R44). -/
def widthDigits : Nat → Nat
  | 0 => 1
  | 1 => 2
  | 2 => 3
  | 3 => 4
  | _ => 6

/-- The width code of a number of digits (R44). -/
def digitsWidth : Nat → Nat
  | 1 => 0
  | 2 => 1
  | 3 => 2
  | 4 => 3
  | _ => 4

def mode.op (m : Nat) : Nat := bits m 31 28
def mode.wWidth (m : Nat) : Nat := bits m 27 25
def mode.aWidth (m : Nat) : Nat := bits m 24 22
def mode.quad (m : Nat) : Bool := bit m 21
def mode.runLog2 (m : Nat) : Nat := bits m 19 16
/-- Fused columns k of a mode word (R35). -/
def mode.k (m : Nat) : Nat := widthDigits (mode.wWidth m)
/-- Strides s of a mode word (R36). -/
def mode.s (m : Nat) : Nat := widthDigits (mode.aWidth m)
/-- Product width p = 4k + 4s (R37). -/
def mode.p (m : Nat) : Nat := 4 * mode.k m + 4 * mode.s m

/-- Largest permitted run_log2 of a product width (R45 check 4, R77). -/
def maxRunLog2 (p : Nat) : Nat := if p < 26 then min 10 (26 - p) else 0

/-- Logical weight columns of the array or of a quadrant (R35, R41). -/
def weightCols (k : Nat) (quad : Bool) : Nat := (if quad then 16 else 32) / k

/-! ### Alignment (R65 to R72) -/

/-- floor(log2 |x|) of a finite nonzero element. -/
def Elem.exp (x : Elem) : Int := ilog2 x.m + x.e

/-- Rows of a block's finite nonzero elements by falling exponent, lower row first among equals (R71). -/
def rankRows (els : List Elem) : List Nat :=
  let fin := (List.range els.length).filter (fun i => (els.getD i { cls := .zero }).cls == .fin)
  let ex := fun (i : Nat) => (els.getD i { cls := .zero }).exp
  let rec ins (i : Nat) : List Nat → List Nat
    | [] => [i]
    | j :: l => if ex j < ex i then i :: j :: l else j :: ins i l
  fin.foldl (fun l i => ins i l) []

/-- The rows moved to the sidecar from a floating block under threshold T, and the sidecar excess event (R71, R72). -/
def moveOutliers (els : List Elem) (T : Nat) : List Nat × Bool :=
  if T == 0 then ([], false) else
    let r := rankRows els
    let ex := fun (i : Nat) => (els.getD i { cls := .zero }).exp
    match r with
    | a :: b :: l =>
      if ex a - ex b ≤ T then ([], false) else
        match l with
        | c :: l2 =>
          if ex b - ex c ≤ T then ([a], false) else
            match l2 with
            | d :: _ => ([a, b], decide ((T : Int) < ex c - ex d))
            | [] => ([a, b], false)
        | [] => ([a], false)
    | _ => ([], false)

/-- An operand block as it enters the array: integer codes, exponent offset (R69), rows in the sidecar, elements. -/
structure Block where
  q : List Int
  lam : Option Int
  mv : List Nat
  els : List Elem
  deriving DecidableEq, Repr

/-- Align a floating block to width w under outlier threshold T (R66, R71, R72), with its events (R68). -/
def alignFloat (els : List Elem) (w T : Nat) : Block × Evs :=
  let mvx := moveOutliers els T
  let mv := mvx.1
  let rows := (List.range els.length).filter
    (fun i => (els.getD i { cls := .zero }).cls == .fin && !mv.contains i)
  let el := fun (i : Nat) => els.getD i { cls := .zero }
  let evM := (Evs.one ctr.outlierMoved mv.length).add (Evs.one ctr.sidecarExcess (b2n mvx.2))
  match maxI (rows.map (fun i => (el i).exp)) with
  | none => ({ q := els.map (fun _ => 0), lam := none, mv := mv, els := els }, evM)
  | some E0 =>
    let qAt := fun (E : Int) (i : Nat) => Rnd.rne.at (el i).m 1 (el i).e (E - w + 2)
    let carry := rows.any (fun i => (qAt E0 i).natAbs == 2 ^ (w - 1))
    let E := if carry then E0 + 1 else E0
    let u := E - w + 2
    let q := (List.range els.length).map (fun i => if rows.contains i then qAt E i else 0)
    let exact := fun (i : Nat) =>
      let x := el i
      if u ≤ x.e then q.getD i 0 == x.m * (2 ^ (x.e - u).toNat : Nat) else q.getD i 0 * (2 ^ (u - x.e).toNat : Nat) == x.m
    let lossy := rows.filter (fun i => !exact i)
    let zeroed := lossy.countP (fun i => q.getD i 0 == 0)
    ({ q := q, lam := some u, mv := mv, els := els },
     Evs.sum [evM, Evs.one ctr.alignLoss lossy.length, Evs.one ctr.alignZero zeroed])

/-- A B4 or B8 block enters by its codes; its finite outlier slots go to the sidecar whole (R69, R72, R115). -/
def alignBlock (els : List Elem) (sig : Nat) : Block :=
  { q := els.map (fun x => if x.slot || x.cls != .fin then 0 else x.code),
    lam := if sig == 0 || sig == 255 then none else some ((sig : Int) - 127),
    mv := (List.range els.length).filter
      (fun i => let x := els.getD i { cls := .zero }; x.slot && x.cls == .fin),
    els := els }

/-- An integer or A8 block enters by its codes with exponent offset 0 (R69). -/
def alignInt (els : List Elem) : Block :=
  { q := els.map (fun x => if x.cls == .fin then x.m else 0), lam := some 0, mv := [], els := els }

/-! ### Products and class results -/

/-- The sum over the rows of the products of codes (R37). -/
def dot : List Int → List Int → Int
  | a :: as, b :: bs => a * b + dot as bs
  | _, _ => 0

/-- The population count of a 32-bit pattern. -/
def popc (n : Nat) : Nat := (List.range 32).countP (fun i => bit n i)

/-- The result of one wavefront in one column under a cell operation other than multiply-add (R91), formed by n linked cells
per element (R39). -/
def cellOp (op n : Nat) (ws xs : List Int) : Int :=
  let z := ws.zip xs
  match op with
  | 1 => (z.map (fun p => ((linkSub n p.2 p.1).natAbs : Int))).foldl (· + ·) 0
  | 2 => ((maxI (z.map (fun p => linkAdd n p.2 p.1)))).getD 0
  | 3 => ((minI (z.map (fun p => linkAdd n p.2 p.1)))).getD 0
  | 4 => (z.countP (fun p => decide (0 < linkSub n p.2 p.1)) : Nat)
  | _ => ((z.map (fun p => linkXor n p.2 p.1)).foldl (· + ·) 0 : Nat)

/-- Flags of a wide record (R79). -/
structure Flags where
  nan : Bool := false
  inv : Bool := false
  pinf : Bool := false
  ninf : Bool := false
  deriving DecidableEq, Repr

/-- Both sets of flags. -/
def Flags.or (a b : Flags) : Flags := ⟨a.nan || b.nan, a.inv || b.inv, a.pinf || b.pinf, a.ninf || b.ninf⟩

/-- Is any flag set. -/
def Flags.any (a : Flags) : Bool := a.nan || a.inv || a.pinf || a.ninf

/-- The class result of one column and wavefront, over the unmasked rows below depth (R94). -/
def classFlags (ws xs : List Elem) : Flags :=
  let z := ws.zip xs
  let nan := z.any (fun p => p.1.cls == .nan || p.2.cls == .nan)
  let inv := z.any (fun p => (p.1.cls == .inf && p.2.cls == .zero) || (p.1.cls == .zero && p.2.cls == .inf))
  let isInf := fun (p : Elem × Elem) =>
    (p.1.cls == .inf && (p.2.cls == .fin || p.2.cls == .inf)) || (p.2.cls == .inf && p.1.cls == .fin)
  let pos := z.any (fun p => isInf p && p.1.neg == p.2.neg)
  let neg := z.any (fun p => isInf p && p.1.neg != p.2.neg)
  if nan || inv || (pos && neg) then { nan := true, inv := inv } else { pinf := pos, ninf := neg }

/-- The sidecar products of one column and wavefront: exact m * 2^e, one per row moved on either side (R73). -/
def sidecar (wb xb : Block) : List (Int × Int) :=
  let rows := (List.range wb.els.length).filter (fun i => wb.mv.contains i || xb.mv.contains i)
  rows.filterMap (fun i =>
    let a := wb.els.getD i { cls := .zero }
    let b := xb.els.getD i { cls := .zero }
    if a.cls == .fin && b.cls == .fin then some (a.m * b.m, a.e + b.e) else none)

/-! ### Wide records (R79, R80) -/

/-- How contributions meet: a sum, or the max or min of R91. -/
inductive Acm where
  | sum | max | min
  deriving DecidableEq, Repr

/-- The accumulation of a cell operation (R91). -/
def acmOf (op : Nat) : Acm :=
  match op with
  | 2 => .max
  | 3 => .min
  | _ => .sum

/-- A wide record (R79). -/
structure Wide where
  fl : Flags := {}
  shedN : Nat := 0
  shedMax : Int := 0
  F : Int := 0
  V : Int := 0
  res : Nat := 0
  deriving DecidableEq, Repr

/-- The record with value V * 2^F and its residue. -/
def Wide.val (w : Wide) (V F : Int) : Wide := { w with V := V, F := F, res := (V % 7).toNat }

/-- Does the residue held with a record match its value (R79, R87). -/
def Wide.resOk (w : Wide) : Bool := (w.res : Int) == w.V % 7

/-- The 128 bits of a wide record (R79). -/
def Wide.enc (w : Wide) : Nat :=
  b2n w.fl.nan * 2 ^ 127 + b2n w.fl.inv * 2 ^ 126 + b2n w.fl.pinf * 2 ^ 125 + b2n w.fl.ninf * 2 ^ 124
    + w.res % 8 * 2 ^ 121 + w.shedN * 2 ^ 108 + unsx 12 w.shedMax * 2 ^ 96 + unsx 16 w.F * 2 ^ 80 + unsx 80 w.V

/-- A wide record from its 128 bits (R79). -/
def Wide.dec (n : Nat) : Wide :=
  { fl := ⟨bit n 127, bit n 126, bit n 125, bit n 124⟩, shedN := bits n 120 108, shedMax := sext 12 (bits n 107 96),
    F := sext 16 (bits n 95 80), V := sext 80 (bits n 79 0), res := bits n 123 121 }

/-- The least G' above G at which both operands fit below 2^78 after rounding (R80 step 3); fuel bounds the search. -/
def shedExp (V F a ea : Int) : Nat → Int → Int
  | 0, G => G
  | n + 1, G =>
    if (shiftRne V (F - G)).natAbs < 2 ^ 78 ∧ (shiftRne a (ea - G)).natAbs < 2 ^ 78 then G
    else shedExp V F a ea n (G + 1)

/-- Add a contribution a * 2^ea into a record (R80); the flag tells a wide shed. -/
def Wide.add (w : Wide) (a ea : Int) : Wide × Bool :=
  if a == 0 then (w, false)
  else if w.V == 0 then (w.val a ea, false)
  else
    let G := min w.F ea
    let A := shiftRne w.V (w.F - G)
    let B := shiftRne a (ea - G)
    if A.natAbs < 2 ^ 78 ∧ B.natAbs < 2 ^ 78 then (w.val (A + B) G, false)
    else
      -- |V| < 2^79 and |a| < 2^62 bound the exponent that fits, so the search starts near it
      let top := max (ilog2 w.V + w.F) (ilog2 a + ea)
      let G' := shedExp w.V w.F a ea 8 (max (G + 1) (top - 78))
      ({ w.val (shiftRne w.V (w.F - G') + shiftRne a (ea - G')) G' with
          shedN := satInc w.shedN 8191, shedMax := if w.shedN == 0 then G' else max w.shedMax G' }, true)

/-- A contribution meeting a record by sum, max or min (R91). `empty`: no contribution has reached it since it was zeroed;
the first one is then the record's max or min. DESIGN CHOICE (log 91): R91 does not say what a zeroed record is to them. -/
def Wide.meet (acm : Acm) (empty : Bool) (w : Wide) (a ea : Int) : Wide × Bool :=
  match acm with
  | .sum => w.add a ea
  | .max => if empty || decide (shiftRne w.V (w.F - min w.F ea) < shiftRne a (ea - min w.F ea))
            then (w.val a ea, false) else (w, false)
  | .min => if empty || decide (shiftRne a (ea - min w.F ea) < shiftRne w.V (w.F - min w.F ea))
            then (w.val a ea, false) else (w, false)

/-- A contribution whose class result is not finite sets the record's flags and adds nothing (R80, R94). -/
def Wide.flag (w : Wide) (f : Flags) : Wide := { w with fl := w.fl.or f }

/-- The class of an output from its record's flags (R118) and its exact value before the scales (R119). -/
def Wide.out (w : Wide) (sm : Nat) (se : Int) : OutVal :=
  if w.fl.nan || w.fl.inv then { cls := .nan, inv := w.fl.inv }
  else if w.fl.pinf && w.fl.ninf then { cls := .nan }
  else if w.fl.pinf then { cls := .inf }
  else if w.fl.ninf then { cls := .inf, neg := true }
  else if w.V == 0 || sm == 0 then { cls := .zero }
  else { cls := .fin, neg := decide (w.V < 0), y := { num := w.V * sm, e := w.F + se } }

/-! ### Narrow runs (R75, R76) -/

/-- A narrow slot row: frame f(n), count c(n), whether its generation is current, entries that hold a value (an entry
that is not listed is 0 and no contribution has reached it). -/
structure SlotRow where
  f : Int := 0
  c : Nat := 0
  cur : Bool := true
  S : List (Nat × Int) := []
  deriving DecidableEq, Repr

/-- One contribution to the wide path: entry, a, exponent. -/
structure Contrib where
  g : Nat
  a : Int
  ea : Int
  deriving DecidableEq, Repr

/-- Promote a row: every entry to the edge bank, every entry and the count to 0 (R76). -/
def SlotRow.promote (r : SlotRow) : SlotRow × List Contrib :=
  ({ r with c := 0, S := [] }, r.S.map (fun p => { g := p.1, a := p.2, ea := r.f }))

/-- Add one committed wavefront into its slot row (R76); cap is 2^run_log2, none for the operations of R91. -/
def SlotRow.addWave (r0 : SlotRow) (acm : Acm) (cap : Option Nat) (gs : List Contrib) : SlotRow × List Contrib :=
  match minI (gs.map (fun x => x.ea)) with
  | none => (r0, [])
  | some emin =>
    let fresh := r0.c == 0 || !r0.cur
    let p0 : SlotRow × List Contrib := if fresh && decide (0 < r0.c) then r0.promote else (r0, [])
    let r1 : SlotRow := if fresh then { p0.1 with c := 0, cur := true, f := emin } else r0
    let fNew := min r1.f emin
    let big := acm == .sum &&
      (r1.S.any (fun x => decide (2 ^ 30 ≤ (shiftRne x.2 (r1.f - fNew)).natAbs)) ||
       gs.any (fun x => decide (2 ^ 30 ≤ (shiftRne x.a (x.ea - fNew)).natAbs)))
    let close := (match cap with
      | some n => r1.c == n
      | none => false) || big
    let p2 : SlotRow × List Contrib := if close then r1.promote else (r1, [])
    let f2 := if close then emin else fNew
    let scaled := p2.1.S.map (fun x => (x.1, shiftRne x.2 (p2.1.f - f2)))
    let step := fun (acc : List (Nat × Int) × List Contrib) (x : Contrib) =>
      let t := shiftRne x.a (x.ea - f2)
      match acm with
      | .sum =>
        if 2 ^ 30 ≤ t.natAbs then (acc.1, acc.2 ++ [x])
        else (slSet acc.1 x.g (slGet 0 acc.1 x.g + t), acc.2)
      | .max => (slSet acc.1 x.g (match slFind acc.1 x.g with
                   | some v => max v t
                   | none => t), acc.2)
      | .min => (slSet acc.1 x.g (match slFind acc.1 x.g with
                   | some v => min v t
                   | none => t), acc.2)
    let fin := gs.foldl step (scaled, [])
    ({ f := f2, c := p2.1.c + 1, cur := true, S := fin.1 }, p0.2 ++ p2.2 ++ fin.2)

/-- The residue comparison of R87 over one wavefront.
`ys` are the combiner's results, `qw` the codes of each unmasked column, `qx` the codes of the wavefront. -/
def residueOk (ys : List Int) (qw : List (List Int)) (qx : List Int) : Bool :=
  let rho := (List.range qx.length).map (fun i => (qw.map (fun w => w.getD i 0)).foldl (· + ·) 0 % 7)
  (ys.foldl (· + ·) 0) % 7 == (dot qx rho) % 7

end Sys2Proof.Machine
end

