-- ==== Sys2Proof/Machine/State.lean ====
section
/-!
DEFINITION. The state of the module as plain data, its reset value, and the reasons a step can stop.
Tables keyed by a number are association lists in rising key order; a key that is not listed stands for the default.
-/

namespace Sys2Proof.Machine

/-! ## Cores and clusters -/

/-- One stationary column of a pass: logical weight column and its block (R57, R65). -/
structure PassCol where
  g : Nat
  blk : Block
  deriving DecidableEq, Repr

/-- A pass in progress: its descriptor (R57), its loaded stationary operand, its masked wavefronts, the next wavefront
to feed, and the wavefronts that failed the residue check (R88). -/
structure PassRun where
  desc : Nat
  cols : List PassCol
  mask : Nat
  next : Nat
  failed : List Nat
  /-- A retry interrupted the pass: its operand is reloaded, and its next wavefront carries the swap token (R88). -/
  resume : Bool := false
  /-- Channel scales m * 2^e of A8 operands: by weight column, by wavefront (R111, R119). -/
  sw : List (Nat × (Nat × Int)) := []
  sa : List (Nat × (Nat × Int)) := []
  deriving DecidableEq, Repr

/-- A finished pass whose records wait for output conversion (R82). -/
structure Finished where
  desc : Nat
  cols : List Nat
  mask : Nat
  /-- The pass ran in QB or QD, so its columns use the entries from 16 up (R75). -/
  right : Bool := false
  /-- The cell operation it ran under (R131). -/
  op : Nat := 0
  sw : List (Nat × (Nat × Int)) := []
  sa : List (Nat × (Nat × Int)) := []
  /-- Output region of the first conversion of a strict tensor's records, which stay held; whether a reconversion has taken
  them (R144, R145). -/
  dst : Option Nat := none
  again : Bool := false
  deriving DecidableEq, Repr

/-- What the edge holds of a narrow slot row (R75): frame exponent f(n), contribution count c(n), whether its generation is
current, and the entries that a contribution has reached since the row was last promoted. -/
structure NarrowRow where
  f : Int := 0
  c : Nat := 0
  cur : Bool := true
  used : List Nat := []
  deriving DecidableEq, Repr

/-- A core's state besides its registers and memories. `runs`: passes in progress, oldest first, each with its quadrant;
`retry`: the stationary operands of the three most recent passes (R88); `rows`: what the edge holds of each narrow slot
row, whose entries stand in the staging store (R75); `cells`: the registers of the array's cells, by physical column, row 0
first (R31); `bypass`: the row digits in the bypass register of the excluded column, by row (R49); `inFlight`: wavefronts a quadrant may still feed while a failed one waits for its retry (R88); `empty`: wide
records that no contribution has reached since they were zeroed (R79, R91); `done`: records waiting for conversion
(R82); `held`: wide records of strict tensors waiting for the verdict (R145); `lastingPend`: a lasting residue fault
whose remap is not yet written (R262). -/
structure Core where
  runs : List PassRun := []
  retry : List PassRun := []
  rows : List (Nat × NarrowRow) := []
  cells : List (Nat × List Cell) := []
  bypass : List (Nat × RowReg) := []
  inFlight : List (Nat × Nat) := []
  empty : List Nat := []
  done : List Finished := []
  held : List Nat := []
  lastingPend : Bool := false
  deriving DecidableEq, Repr

/-- One lane generator (R220 to R222): the counter n of draws computed, the queue of draws not taken (oldest first),
and a counter placement waiting for the next start hurdle. -/
structure Lane where
  n : Nat := 0
  q : List Nat := []
  place : Option Nat := none
  deriving DecidableEq, Repr

/-- A kernel in progress (R213): pool offset of its first instruction and its length in instructions. -/
structure Kernel where
  off : Nat
  count : Nat
  deriving DecidableEq, Repr

/-- A Scout call in the queue or running: pool offset of its descriptor, whether it is a range call (R207). -/
structure ScoutCall where
  off : Nat
  range : Bool
  executed : Bool := false
  est : Nat := 0
  untrusted : Bool := false
  deriving DecidableEq, Repr

/-- A send in the queue: its descriptor's pool offset, whether it has started, its first-hop link, the descriptor as it stood at the
start, and the next packet to read (R308, R309). -/
structure Send where
  off : Nat
  started : Bool := false
  link : Nat := 0
  desc : Nat := 0
  next : Nat := 0
  deriving DecidableEq, Repr

/-- A cluster's state besides its registers and memories. -/
structure Cluster where
  /-- The schedule item the stopped sequencer holds (R261). -/
  heldItem : Option Instr := none
  abandoned : Bool := false
  ended : Bool := false
  atGate : Bool := false
  /-- The governed layer of the last hurdle (R453). -/
  layer : Nat := 0
  hurdles : Nat := 0
  /-- Vector registers: key 64 * register + lane (R213). -/
  vreg : List (Nat × Word) := []
  preg : List (Nat × BitVec 64) := []
  lanes : List (Nat × Lane) := []
  /-- The lap key loaded at the last start hurdle (R221). -/
  key : Nat := 0
  /-- HBM address of the start record, as the last start hurdle sampled it (R221); none: no start hurdle has. -/
  start : Option Nat := none
  kernel : Option Kernel := none
  /-- Index of the next vector instruction. -/
  ip : Int := 0
  /-- Why the cluster stops before its next pass: a vector kernel's fault (R234, R238). -/
  stopNext : Bool := false
  calls : List ScoutCall := []
  copies : List Nat := []
  copyIdx : Nat := 0
  copyStopped : Bool := false
  /-- The descriptor at hand has failed once on a quarantined logical place and is to be translated again (R284). -/
  copyRetry : Bool := false
  /-- The bytes that descriptors of the running list have written since its last `fence`, as they were before (R279). -/
  copyOld : List Host.Cell := []
  copiesDone : Nat := 0
  sends : List Send := []
  sendsDone : Nat := 0
  /-- Forward and backward heat slots begun in the lap, and whether the present heat is empty (R244, R246). -/
  fwd : Nat := 0
  bwd : Nat := 0
  emptyHeat : Bool := false
  /-- The slot under way: its instant and the instant it ends, in ns; and when the cluster's last work ended (R259). -/
  slot : Option (Nat × Nat) := none
  last : Nat := 0
  refillPend : Bool := false
  /-- It has been refilled and is to run refresh again before the next start hurdle (R359). -/
  refreshPend : Bool := false
  /-- It still runs refresh of the lap before, and meets the start hurdle when it has ended that (R257). -/
  late : Bool := false
  /-- Update kernels it has ended in the lap (R257). -/
  opts : Nat := 0
  /-- The position came from another cluster: its lanes reload the start record (R221). -/
  reload : Bool := false
  /-- It stalls while an image takes effect in its region (R447). -/
  stalled : Bool := false
  /-- The copy to the mirror at the end of refresh is due (R358). -/
  mirrorPend : Bool := false
  govHold : Bool := false
  /-- The override mask, mode, align and outconv still in force for a layer although another override was strobed, until its
  next evaluation (R185). -/
  pinned : List (Nat × (Nat × Nat × Nat × Nat)) := []
  /-- Overrides that took effect on this cluster at a resume, before the evaluation: by layer, mask, mode, align and outconv
  (R46, R185). -/
  early : List (Nat × (Nat × Nat × Nat × Nat)) := []
  /-- Conversion buffers of strict tensors (R166). -/
  bufs : List (Nat × Evs) := []
  /-- `theta_now` and `src_now` of the scale entries that a conversion of the lap has rewritten, as they were before it
  (R136): by tensor, bits [73:64] of the entry. -/
  thetaOld : List (Nat × Nat) := []
  /-- Tensors whose range call was queued in the lap (R203). -/
  ranged : List Nat := []
  /-- Changes of the adaptation offset at the last commit, by tensor (R143, R163, R167). -/
  adapted : List (Nat × Nat) := []
  deriving DecidableEq, Repr

/-- A tensor's conversion in the lap (R137 to R145): the merged maximum under scan, the merged Scout estimate, whether
it was untrusted, elements and saturations of the first conversion, its verdict, and whether it is being reconverted. -/
structure TensorConv where
  max : Option Q := none
  maxReady : Bool := false
  est : Option Int := none
  estReady : Bool := false
  untrusted : Bool := false
  written : Nat := 0
  sats : Nat := 0
  /-- The verdict on the first conversion: true when its budget was exceeded (R142). -/
  verdict : Option Bool := none
  /-- The policy of the first conversion, of which R144 reads lookback and scout. -/
  pol : Nat := 3
  reconv : Bool := false
  /-- The exact minimum and maximum of each A8 column in the present lap, from the extra read of scan (R137, R152). -/
  ranges : List (Nat × (Q × Q)) := []
  /-- The lap's FP32 minimum (rounded down) and maximum (rounded up) of each A8 column converted (R152). -/
  chans : List (Nat × (Nat × Nat)) := []
  /-- Output regions of a strict tensor that no pass or copy reads before its verdict, as places lo to hi - 1 (R145). -/
  regions : List (Nat × Nat) := []
  deriving DecidableEq, Repr

/-- The reduced group summary of a tensor (R172, R173): members, whether a part had `sat` set, histogram base, largest
exponent and magnitude, counters 0 to 18, the 66 bins from `bin_under` to `bin_over`, channel ranges, and whether it is
complete. -/
structure GroupSum where
  members : Nat
  sat : Bool
  base : Int
  maxExp : Option Int
  maxMag : Nat
  ctrs : List Nat
  bins : List Nat
  chans : List (Nat × (Nat × Nat)) := []
  complete : Bool
  deriving DecidableEq, Repr

/-! ## The lap (R239 to R266) -/

/-- The lap control state: what the lap logic sampled at the start hurdle, and where the lap stands. -/
structure Lap where
  seed : Nat := 0
  lam : Nat := 0
  pi : Nat := 0
  lamSet : Bool := false
  piSet : Bool := false
  policyW : Nat := 0x100
  lossScale : Nat := 0x3F800000
  clip : Nat := 0
  tail : Nat := 0x2710
  limit : Nat := 0
  /-- The step list and the feed ring (R339, R242). -/
  list : Nat := 0
  feedBase : Nat := 0
  feedLog2 : Nat := 8
  /-- Step of R245 the lap is in: 0 none, 1 start hurdle to 9 snapshot. -/
  step : Nat := 0
  b : Nat := 0
  heatsTaken : Nat := 0
  /-- Heats of the lap that the feed has staged: number, `tokens`, `tok_addr`, `pos_addr` of the descriptor (R242, R244). -/
  staged : List (Nat × (Nat × Nat × Nat)) := []
  /-- An update kernel of the lap has run to its end (R257). -/
  optDone : Bool := false
  /-- Heats of the lap that the feed rejected, and the instants of overrun slots counted so far (R244, R259). -/
  rejected : List Nat := []
  lateSlots : List Nat := []
  /-- The gradient factor of the commit verdict, FP32 (R254). -/
  gscale : Nat := 0
  feedEmptySaid : Bool := false
  overrunSaid : Bool := false
  reasons : Nat := 0
  voted : Bool := false
  /-- This module joined a gate group under its new epoch and takes part in the lap's gate only (R251). -/
  joined : Bool := false
  /-- The next start hurdle is a replay hurdle: lanes reload their start records (R221, R398). -/
  replay : Bool := false
  /-- Results of the first gate step and of the second, the verdict (R249). -/
  gate1 : List Byte := []
  gate2 : List Byte := []
  deriving DecidableEq, Repr

/-! ## Site time and power (R409 to R440) -/

/-- A level that moves at the ramp limit (R423, R429): from v0 at site time t0 ns toward v1, in uW. -/
structure Ramp where
  t0 : Nat := 0
  v0 : Nat := 0
  v1 : Nat := 0
  deriving DecidableEq, Repr

/-- Site time, split timers and supply (R409 to R440). Site time: the counter in units of 1/256 ns (R409), the error still
to slew (R412), the s of the last code that passed its CRC and whether it was accepted, the s of the next mark, and
whether the next accepted mark loads the counter. Timers: held CMP_LO writes (R438), actions that wait for the clocks
(R530), and the actions delivered and not yet performed: a lap boundary with its instant, an order scan, a plan step.
Supply: last SUPPLY_PHASE edge and period in ns, the plan's steps to come as (ns, W), floor and cap ramps, a cap write
held in a ride, the thermal cap, codes reported in the lap, the input stage disconnected above the absolute maximum,
THERMTRIP_N asserted. Draw: the last one measured in W with its instant since an exempt event (R425), whether ballast is
called for (R426), when a commanded Blocks entry begins, in ns (R433), the lowest bus voltage since a ride or a Blocks
entry began, in mV (R421), and whether the stacks refresh themselves (R433). -/
structure Pacer where
  time : Nat := 0
  slew : Int := 0
  lastS : Option Nat := none
  goodCodes : Nat := 0
  markS : Option Nat := none
  loadNext : Bool := true
  sptLo : List (Nat × Word) := []
  acts : List Nat := []
  lapDue : Option Nat := none
  scanDue : Bool := false
  planDue : Bool := false
  edge : Option Nat := none
  period : Nat := 0
  plan : List (Nat × Nat) := []
  floor : Ramp := {}
  cap : Ramp := { v0 := 5000000000, v1 := 5000000000 }
  capHeld : Option Word := none
  therm : Option Nat := none
  said : List Nat := []
  overMax : Bool := false
  thermtrip : Bool := false
  /-- Bring-up waits until the bus has stayed above `sag_dv` (R580). -/
  waitBus : Bool := false
  drawn : Option (Nat × Nat) := none
  ballast : Bool := false
  sink : Option Nat := none
  lowMv : Option Nat := none
  stacksRest : Bool := false
  deriving DecidableEq, Repr

/-! ## Starter, host, fault state -/

/-- The Starter's running stacks (R537): per target, (source, prio) with the top first; and whether the stewards have
reported ready since their last restart (R540). -/
structure Starter where
  stk : List (Nat × List (Nat × Nat)) := []
  stewReady : Bool := false
  deriving DecidableEq, Repr

/-- What the configuration space of the physical function shows besides the vendor (R548). -/
structure PciFunction where
  device : Nat := 0xA980
  revision : Nat := 0xA1
  classCode : Nat := 0x120000
  deriving DecidableEq, Repr

/-- The PCIe endpoint and the host side (R547 to R569): the MSI-X table by word (4 * entry + word; a word that is not
listed is 0, but for the vector control words, whose mask bit is 1), pending bits, enable and function mask. -/
structure HostIf where
  msix : List (Nat × Word) := []
  pba : Nat := 0
  /-- Latched causes of ALERT_N (R565), bits 0 and 1. -/
  alerts : Nat := 0
  msixEn : Bool := false
  /-- The endpoint has a lasting fault (R365): a physical condition, which no command makes (log 80). -/
  faulty : Bool := false
  funcMask : Bool := false
  /-- Binary logarithm of the BAR2 size (R549). -/
  bar2 : Nat := 41
  func : PciFunction := {}
  /-- Site time at which the REG_POLL at the head of the orders ring started (R556). -/
  pollAt : Option Nat := none
  /-- Pairs of the REG_WRITE at the head that are written, when a freeze began while it was performed (R486, R556). -/
  pairsDone : Nat := 0
  /-- Boundary scan: values for the pins, and the instruction that drives them: 0 none, 1 EXTEST, 2 CLAMP, 3 HIGHZ (R566). -/
  scanCells : Nat := 0
  scanMode : Nat := 0
  deriving DecidableEq, Repr

/-- The remap table in effect (R25 to R29, R376). -/
structure RemapTable where
  /-- Units in quarantine, by the kinds and layouts of R380: kind * 2^24 + unit. -/
  quar : List Nat := []
  /-- Physical core of each logical core, by cluster number; a cluster that is not listed has cores 0 to 49 (R25). -/
  coreMap : List (Nat × List Nat) := []
  /-- Physical cluster of each logical cluster, by physical die; a die that is not listed has clusters 0 to 99 (R25). -/
  cluMap : List (Nat × List Nat) := []
  /-- Physical die of each logical die (R25). -/
  dieMap : List Nat := List.range 16
  /-- The die that holds the alternate role in good standing; none: no qualified alternate (R17, R363). -/
  alt : Option Nat := some 16
  /-- Repaired HBM rows: stack * 32 + channel, row. -/
  rows : List (Nat × Nat) := []
  /-- Mappings written here that take effect at the next start hurdle, as whole lists like `coreMap` and `cluMap` (R29, R357). -/
  coreNext : List (Nat × List Nat) := []
  cluNext : List (Nat × List Nat) := []
  /-- CORE_COLMAP and SCT_GEN_REMAPn of clusters that are off, by plain address; of a cluster that is not off its registers hold
  the entries (R51, R210). -/
  regs : List (Nat × Word) := []
  deriving DecidableEq, Repr

/-- Entries of a list of a remap copy, behind their number. -/
def remapList (l : List (List Nat)) : List Nat := l.length :: l.flatMap (fun x => x.length :: x)

/-- The CRC-32C that ends a copy of the remap table (R376), over its generation and its content. DESIGN CHOICE (log 30): the order and
width of what it covers. -/
def remapCrc (gen : Nat) (t : RemapTable) : Nat :=
  let maps := fun (l : List (Nat × List Nat)) => remapList (l.map (fun p => p.1 :: p.2))
  let words := remapList [t.quar, t.dieMap, t.alt.toList] ++ maps t.coreMap ++ maps t.cluMap ++ maps t.coreNext ++ maps t.cluNext
    ++ remapList (t.rows.map (fun p => [p.1, p.2])) ++ remapList (t.regs.map (fun p => [p.1, p.2.toNat]))
  crc32c ((gen :: words).flatMap (toBytes 8))

/-- A copy of the remap table in flash (R376): its generation, the table, with the register values of every cluster, and its CRC. -/
structure RemapCopy where
  gen : Nat := 0
  tab : RemapTable := {}
  crc : Nat := remapCrc gen tab
  deriving DecidableEq, Repr

/-- The state of the fault engine besides its registers. -/
structure Flt extends RemapTable where
  degraded : Bool := false
  /-- Physical dies retired and waiting for their takeover, in the order of R28. -/
  takeovers : List Nat := []
  /-- Clusters and cores whose mapping takes effect at the next start hurdle: kind * 2^24 + unit (R357). -/
  mapDue : List Nat := []
  /-- HBM rows to repair at the next start hurdle (R365). -/
  rowsDue : List (Nat × Nat) := []
  /-- The remap table differs from its newest flash copy (R377). -/
  dirty : Bool := false
  /-- The two flash copies of the remap table (R375, R376). -/
  copy0 : RemapCopy := {}
  copy1 : RemapCopy := {}
  /-- Firmware switch (R373): the inactive slot's second verification has ended; the stewards restart; failures so far. -/
  fwOk : Bool := false
  fwRestart : Bool := false
  /-- A write of `switch` waits for the Judge's running command (R481). -/
  fwAsk : Bool := false
  fwFails : Nat := 0
  /-- A block of the slot that the stewards restart from is lost: that slot does not boot (R373). -/
  fwLost : Bool := false
  /-- Columns that a column test found lasting and whose exclusion is not yet adopted (R102, R360). -/
  tested : List Nat := []
  /-- Cores and clusters retired while a takeover runs in their quadrant, which get their spare after it: time of detection, and
  kind * 2^24 + unit (R28, R374). -/
  queued : List (Nat × Nat) := []
  /-- Words of SRAM in which a read found a lasting error whose unit is to be quarantined (R270, R355). -/
  sramBad : List Nat := []
  deriving DecidableEq, Repr

/-- A key slot (R464): public key, purposes, state 0 empty, 1 in force, 2 revoked. -/
structure JKey where
  pub : List Byte := []
  purpose : Nat := 0
  st : Nat := 0
  deriving DecidableEq, Repr

/-- One of the two copies of the key table in the Judge partition, with its stored digest; none: the empty table with which the module
left the factory (R460, R464, R471). -/
structure KeyCopy where
  tab : List (Nat × JKey) := []
  dig : Option (List Byte) := none
  deriving DecidableEq, Repr

/-- The Judge besides its registers (R460 to R485): the debug authorization (purposes, expiry); key slots 1 to 7; the
admin counter, the debug counter, the firmware floor and its advances; `approved` of the policy record; PUF helper data
and key check; the private key in Judge RAM; certificates; the boot record's slot; security version and digest of the
running firmware (none: the stewards are held); what VERIFY_FW reported last, by slot; the challenge outstanding
(counter, purposes, c); enrolments so far; the DOE responses are outputs. `ok`: the self-tests of the power-on passed. -/
structure Judge where
  grant : Option (Nat × Nat) := none
  keys : List (Nat × JKey) := []
  admin : Nat := 0
  dbg : Nat := 0
  floor : Nat := 0
  floorAdv : Nat := 0
  policy : Bool := false
  helper : Option (List Byte × List Byte) := none
  priv : Option (List Byte) := none
  certs : List (Nat × List Byte) := []
  boot : Nat := 0
  fw : Option (Nat × List Byte) := none
  verified : List (Nat × List Byte) := []
  chal : Option (Nat × Nat × List Byte) := none
  enrols : Nat := 0
  fwNone : Bool := false
  /-- `approved` of the policy record as at the last power-on (R462). -/
  inEffect : Bool := false
  ok : Bool := false
  /-- A DOE request that waits for the Judge (R552). -/
  doe : Option (List Byte) := none
  /-- The key table's two copies in flash; `keys` is what the Judge works with (R460). -/
  copies : List KeyCopy := [{}, {}]
  /-- The mailbox command that runs, and what a self-test will find (R481). -/
  run : Option (Nat × List (Fin 2 × Bool)) := none
  /-- Challenges issued before the one outstanding: the 64 bytes c of each (R477). -/
  past : List (List Byte) := []
  deriving DecidableEq, Repr

/-! ## Relay links (R294 to R327) -/

/-- A planned or emergency swap of one direction: lane out, lane in, switch frame, whether it is confirmed, how often
it was requested, and whether it is an emergency swap (R314, R315). -/
structure Swap where
  out : Nat
  inn : Nat
  frame : Nat
  acked : Bool := false
  tries : Nat := 1
  emergency : Bool := false
  deriving DecidableEq, Repr

/-- The lanes of one direction (R294): active physical lanes ascending, the lane under retraining with its attempts,
the lane last taken out in turn, the swap in progress. The spare and its state are fields of RLY_STATE. -/
structure Wire where
  act : List Nat := [0, 1, 2, 3]
  retrain : Option (Nat × Nat) := none
  last : Nat := 4
  swap : Option Swap := none
  deriving DecidableEq, Repr

/-- A head or body flit that waits for a baton or for its acknowledgement: 244 payload bytes; `owner`: the cluster number
and descriptor offset of the send it belongs to (R308); `src`: the link a forwarded flit came by; `tail`: the last flit of its packet. -/
structure TxFlit where
  vc : Nat
  kind : Nat
  payload : List Byte
  owner : Option (Nat × Nat) := none
  src : Option Nat := none
  tail : Bool := true
  /-- Group of the packet, when this module built it. -/
  group : Option Nat := none
  deriving DecidableEq, Repr

/-- A packet being received on a virtual channel: where its body flits go, and what has arrived. -/
inductive Assembly where
  | deliver (bytes : List Byte)
  | forward (l : Nat) (bytes : List Byte)
  | drop
  deriving DecidableEq, Repr

/-- A link's state besides its registers. `txSeq`: next `fseq`; `rxSeq`: `fseq` expected next; `queue`: flits waiting for
a baton, `replay`: sent and unacknowledged (R299); `held`, `owed`: batons held and batons to return by virtual channel
(R301); `busy`: the source of the packet of which a channel has sent a part (none: this module; R305); `bad`: the flit whose replay
is awaited and when it was bad (R300); `errs`: located byte errors as (frame, lane); `ctl`: kind, frame and payload of the freeze,
swap or swap-ack flit taken last (R298); `parked`: channel, kind and payload of flits behind a packet that waits for its epoch
(R332); `exch`: number and t1 of the time exchange under way (R320). -/
structure LinkSt where
  tx : Wire := {}
  rx : Wire := {}
  txSeq : Nat := 0
  rxSeq : Nat := 0
  queue : List TxFlit := []
  replay : List (Nat × TxFlit) := []
  held : List Nat := [0, 0, 0, 0]
  owed : List Nat := [0, 0, 0, 0]
  ackDue : Bool := false
  bad : Option (Nat × Nat) := none
  /-- The awaited flit was replayed over new lanes (R300). -/
  swapped : Bool := false
  busy : List (Nat × Option Nat) := []
  asm : List (Nat × Assembly) := []
  /-- Packets received whole and not yet acted on: virtual channel, packet head and payload bytes. -/
  inbox : List (Nat × List Byte) := []
  txFrame : Nat := 0
  rxFrame : Nat := 0
  errs : List (Nat × Nat) := []
  ctl : Option (Nat × Nat × List Byte) := none
  parked : List (Nat × Nat × List Byte) := []
  exch : Option (Nat × Nat) := none
  msgNo : Nat := 0
  trainTries : Nat := 0
  /-- Whether the peer's training signal was detected: an attempt is under way (R318). -/
  training : Bool := false
  aligned : Bool := false
  alignNs : Nat := 0
  hbSuspended : Bool := false
  /-- Requalification of the retired link runs through TRAIN and ALIGN (R364). -/
  requal : Bool := false
  /-- A head or body flit came while the module was frozen or the clock stopped (R321). -/
  missed : Bool := false
  deriving DecidableEq, Repr

/-! ## Reduction (R335 to R349) -/

/-- Where a segment's own contribution comes from and where its result goes (R339): a place, or by what stands at that place a field
of a tensor's module summary (by its offset in a record, R172), the channel ranges of a tensor, a layer's check word with its
complement (R183); or, in a gate step, a field of the gate word (R249). -/
inductive SegIO where
  | places (src dst : Nat)
  | sum (tensor off dst : Nat)
  | chan (tensor dst : Nat)
  | check (clu layer dst : Nat)
  | gate (field : Nat)
  deriving DecidableEq, Repr

/-- A block result of a B16 segment: scale entry index, whether it escaped, floor(log2) of its largest finite result
(R343, R347). -/
structure BlkRes where
  idx : Nat
  escaped : Bool
  exp : Option Int
  deriving DecidableEq, Repr

/-- A segment of the running step (R336, R339): `own` is the contribution when it lies in no place; `b16`: elements of
B16 segments before it in the list (R344); `up`: combined; `got`: result elements written; `res`: result bytes of a
segment without places. -/
structure Seg where
  op : Nat
  group : Nat
  count : Nat
  aux : Nat := 0
  io : SegIO
  own : List Byte := []
  b16 : Nat := 0
  up : Bool := false
  got : Nat := 0
  res : List (Nat × List Byte) := []
  blks : List BlkRes := []
  deriving DecidableEq, Repr

/-- An input of a segment that has arrived: reduce-up or gather-up data of a rank from an element on. -/
structure RedIn where
  group : Nat
  seg : Nat
  rank : Nat
  elem0 : Nat
  data : List Byte
  deriving DecidableEq, Repr

/-- The reduction controller (R339): `phase` 1 the step list, 2 the first gate step, 3 the second; `stop`: the record
the list stopped before; `late`, `esc`: reported in the step (R337, R346); `b16`: the finished B16 segments of the list, for
the commit (R347). -/
structure Red where
  phase : Nat := 0
  segs : List Seg := []
  stop : Option Nat := none
  late : Bool := false
  esc : Bool := false
  b16 : List Seg := []
  inp : List RedIn := []
  deriving DecidableEq, Repr

/-! ## Group membership (R367 to R371) -/

/-- What a member knows of a tree neighbour: beats missed in a row, site time of the last beat, and until when its count
is suspended for Blocks (R367, R435). -/
structure Nbr where
  missed : Nat := 0
  last : Nat := 0
  suspended : Nat := 0
  deriving DecidableEq, Repr

/-- A decree: group, new epoch, base epoch, number of entries, and those held: rank and new bib, none for a hole
(R371). -/
structure Decree where
  group : Nat
  epoch : Nat
  base : Nat
  total : Nat
  ents : List (Nat × Option Nat)
  deriving DecidableEq, Repr

/-- The group controller. Tables by group * 2^16 + rank: neighbours, probes under way (number, attempt); `confirmed`:
failures collected for a decree; `parts`: decrees not yet whole; `adopted`: the last decree adopted, by group; `noVote`:
groups in which this member votes no more (R368). -/
structure Mbr where
  nbrs : List (Nat × Nbr) := []
  probes : List (Nat × (Nat × Nat)) := []
  probeNo : Nat := 0
  confirmed : List Nat := []
  parts : List Decree := []
  adopted : List (Nat × Decree) := []
  /-- The last decree that was refused for want of a route, by group (R368). -/
  refused : List (Nat × Decree) := []
  noVote : List Nat := []
  deriving DecidableEq, Repr

/-! ## Snapshots, restore and fills (R383 to R405) -/

/-- A fill named in an adopted decree of the data-parallel group (R400, R403). -/
structure FillRec where
  rank : Nat
  epoch : Nat
  failed : Nat
  spare : Nat
  done : Bool := false
  rollback : Bool := false
  deriving DecidableEq, Repr

/-- The fill this module receives as a spare: the lap to be replayed and its data position, the holder asked, the first
chunk wanted, the bytes of the chunk in flight, whether it was resent, the request's 48 bytes, the lap cut received, and
the bytes of accepted chunks (R400 to R403). -/
structure OwnFill where
  rank : Nat
  epoch : Nat
  failed : Nat
  lap : Nat
  pos : Nat
  holder : Nat
  next : Nat := 0
  digest : List Byte := []
  buf : List Byte := []
  resent : Bool := false
  req : List Byte := []
  /-- Requests made before the present one: a chunk that answers one of them comes to nothing. -/
  olds : List (List Byte) := []
  cut : List (Nat × List Byte) := []
  stream : List Byte := []
  deriving DecidableEq, Repr

/-- A fill this module serves: its request, the spare, and the chunk in flight (R402). -/
structure FillServe where
  rank : Nat
  spare : Nat
  spareRank : Nat
  req : List Byte
  chunk : Nat
  resent : Bool := false
  deriving DecidableEq, Repr

/-- One copy of a running snapshot: its buddy, whether it still runs, the chunks acknowledged and those resent, whether
the manifest went out, whether it is complete (R395). -/
structure SnpCopy where
  bib : Nat
  ok : Bool
  acks : List Nat := []
  resent : List Nat := []
  manifest : Bool := false
  complete : Bool := false
  deriving DecidableEq, Repr

/-- A running snapshot (R383 to R395): the lap, its data position, the time of the cut, the bank it reads, its sections
(kind, stream offset, length, place), the stream's first four sections, the next chunk to read, the digests so far and
the copies. -/
structure SnpRun where
  lap : Nat
  pos : Nat
  time : Nat
  bank : Nat
  sects : List (Nat × Nat × Nat × Nat)
  head : List Byte
  bytes : Nat
  next : Nat := 0
  digests : List (List Byte) := []
  /-- Chunks read whose bytes a copy has still to acknowledge: a resent chunk is the one that was read (R395). -/
  sent : List (Nat × List Byte) := []
  copies : List SnpCopy
  deriving DecidableEq, Repr

/-- A slot of a ward area (R392): lap, state 0 free, 1 writing, 2 complete, keep, the lengths of its chunks, the manifest
bytes received, the order of completion. -/
structure VaultSlot where
  lap : Nat := 0
  st : Nat := 0
  keep : Bool := false
  chunks : List (Nat × Nat) := []
  /-- The digest that came with each chunk (R394). -/
  digests : List (Nat × List Byte) := []
  manifest : List Byte := []
  seq : Nat := 0
  deriving DecidableEq, Repr

/-- A restore under way (R397, R398): the descriptor's 64 bytes, the source asked (0 local, 1, 2) and those left to ask for
the present item, the manifest when it is found with its source and the sources after it, the bytes of the chunks taken,
the next chunk, the bytes of the item in flight. -/
structure Restore where
  desc : List Byte
  src : Nat := 0
  srcs : List Nat
  manifest : Option (List Byte) := none
  home : Nat := 0
  rest : List Nat := []
  got : List Byte := []
  chunk : Nat := 0
  buf : List Byte := []
  deriving DecidableEq, Repr

/-- The snapshot logic besides its registers: the run in progress; whether the next commit is a snapshot lap by `now`
(R396); a snapshot due at the next start hurdle; the last cut record by lap (R401); lap cuts held, by rank; the slots of
the two wards; a chunk being received from a ward; a manifest being received; the last durations and lap lengths; EPOCH
verdicts and the time counted from (R396). -/
structure Snp where
  run : Option SnpRun := none
  now : Bool := false
  due : Option Nat := none
  cuts : List (Nat × List (Nat × List Byte)) := []
  slots : List (Nat × VaultSlot) := []
  rxBuf : List (Nat × (List Byte × List Byte)) := []
  costs : List Nat := []
  lapNs : List Nat := []
  epochs : Nat := 0
  since : Nat := 0
  restore : Option Restore := none
  fills : List FillRec := []
  own : Option OwnFill := none
  serve : List FillServe := []
  /-- Fill requests that came between a commit verdict and the next start hurdle (R402): spare rank and request. -/
  late : List (Nat × List Byte) := []
  deriving DecidableEq, Repr

/-! ## Structure images (R441 to R449) -/

/-- A section of an image (R442): type, update group, logical die and cluster it addresses, data. -/
structure Sect where
  typ : Nat
  group : Nat
  ldie : Nat
  lclu : Nat
  data : List Byte
  /-- HBM address of the section's copy in the image store (R445). -/
  src : Nat := 0
  deriving DecidableEq, Repr

/-- A verified image: scope, logical die and cluster, identifier, digest, sections (R441). -/
structure Image where
  scope : Nat
  ldie : Nat
  lclu : Nat
  id : Nat
  digest : List Byte
  sects : List Sect
  deriving DecidableEq, Repr

/-- The image loader besides its registers: the sections in effect with the region each belongs to (scope, logical die,
logical cluster), a verified image that waits, whether `apply` was written for it, the digest of the module image in
effect, the mirror address of each logical cluster and the mesh routes of each physical die, as their section holds them (R358,
R443, R445); the address of an image being verified, the section that an application writes next, and whether a lasting fault met
its region (R444, R447, R449). -/
structure ImgSt where
  store : List ((Nat × Nat × Nat) × Sect) := []
  waiting : Option Image := none
  applying : Bool := false
  digest : List Byte := []
  mirrors : List (Nat × Nat) := []
  routes : List (Nat × List Byte) := []
  loading : Option Nat := none
  sect : Option Nat := none
  hit : Bool := false
  deriving DecidableEq, Repr

/-! ## Claims (R450 to R452) -/

/-- A claim of the claims sections in effect, with the region of the image it came from (scope, logical die, logical
cluster), and whether it is granted or waits since `reqAt`. -/
structure Claim where
  scope : Nat
  ldie : Nat
  lclu : Nat
  res : Nat
  cls : Nat
  whenN : Nat
  id : Nat
  startUs : Nat
  endUs : Nat
  base : Nat
  len : Nat
  granted : Bool := false
  waiting : Bool := false
  reqAt : Nat := 0
  /-- Its split timer was armed when it was preempted (R452). -/
  rearm : Bool := false
  /-- It was preempted and waits: of its range it keeps what no other claim holds (R452). -/
  lost : Bool := false
  deriving DecidableEq, Repr

/-! ## Trace, freeze and photo-finish (R486 to R519) -/

/-- An open wait of a waiter of R493: start, awaited object (R494), lap at the start, whether it timed out, and whether
it spans a freeze or Blocks (R492). -/
structure Wait where
  tStart : Nat
  what : Nat
  obj : Nat
  bib : Nat
  lap : Nat
  timedOut : Bool := false
  frz : Bool := false
  blk : Bool := false
  /-- Time spent frozen or in Blocks, which does not count toward a sync timeout (R496). -/
  stopped : Nat := 0
  deriving DecidableEq, Repr

/-- A trace record in a queue: the end of its wait and its 32 bytes (R492). -/
structure TraceRec where
  tEnd : Nat
  bytes : List Byte
  deriving DecidableEq, Repr

/-- A quadrant's trace unit besides its registers (R495 to R500): the queue, records written since enable, enable and
trigger times, the pre-ring slot after the last written, the oldest pre-trigger slot, and records dropped since the last
loss record with their earliest and latest end. -/
structure TraceUnit where
  queue : List TraceRec := []
  count : Nat := 0
  tEnable : Nat := 0
  tTrigger : Nat := 0
  preNext : Nat := 0
  preOldest : Nat := 0
  lostN : Nat := 0
  lostMin : Nat := 0
  lostMax : Nat := 0
  /-- Lap of the first record dropped, and whether a record found the queue full (R495). -/
  lostLap : Nat := 0
  lostFull : Bool := false
  deriving DecidableEq, Repr

/-- One source of a freeze (R507, R512): kind, id, bib, site time. -/
structure FrzSrc where
  kind : Nat
  id : Nat
  bib : Nat
  time : Nat
  deriving DecidableEq, Repr

/-- The freeze logic besides its registers (R504 to R508): the id counter, the first 8 sources and the number of all,
`release` written, whether FREEZE_N is driven, the stop time, and the 16 ids seen most recently. -/
structure FrzSt where
  idCtr : Nat := 0
  srcs : List FrzSrc := []
  total : Nat := 0
  released : Bool := false
  driven : Bool := false
  tStop : Nat := 0
  /-- Site time at which the functional clocks stopped last, by a freeze or in Blocks (R496). -/
  haltAt : Nat := 0
  /-- How long they stood still before that, in ns (R487). -/
  stood : Nat := 0
  seen : List Nat := []
  deriving DecidableEq, Repr

/-- The scan-out in progress (R509 to R515): requested and scanned level, the grant's expiry copied at its start (none:
no limit), clamped, aborted, whether it spans Blocks, its region and its start. -/
structure Photo where
  req : Nat
  level : Nat
  expiry : Option Nat
  clamped : Bool
  blk : Bool := false
  base : Nat
  t0 : Nat
  deriving DecidableEq, Repr

/-! ## What memories show (R270, R287) -/

/-- The physical condition of the memories: what the next read of an access of HBM shows, by its address, and of an aligned 32 B word
of SRAM, by its place: one flipped bit or more, and whether the retry meets two or more as well. No command makes an upset of this
table, and the read that meets one uses it up (log 115). -/
structure Upsets where
  hbm : List (Nat × HbmUpset) := []
  sram : List (Nat × (Bool × Bool)) := []
  deriving DecidableEq, Repr

/-! ## Performance counters (R487 to R490) -/

/-- Counters whose count the spec leaves to timing (log 88), in running time: ns in which the functional clocks did not stand. The
time of the last `perf_clear`; of the last read of such a counter, by the plain address of its LO word; from when a unit counts, and
until when a unit in quarantine counted, both by kind * 2^24 + unit. -/
structure Perf where
  since : Nat := 0
  read : List (Nat × Nat) := []
  start : List (Nat × Nat) := []
  stop : List (Nat × Nat) := []
  deriving DecidableEq, Repr

/-! ## Reasons a step can stop -/

/-- The machine stops: no rule of the spec stops the module on a command, so no command raises a fault. -/
inductive Fault where
  /-- Raised by nothing in this model; kept so that the interface has a fault type. Safe. -/
  | none
  deriving DecidableEq, Repr

/-- Why a command has no meaning. -/
inductive Refusal where
  /-- The command is not modelled: raised only by an arm of exec that says so. Safe. -/
  | notModelled (mnemonic : String)
  deriving DecidableEq, Repr

/-! ## The state -/

/-- What leaves the module, in order (the model's own record of its outputs). -/
inductive Emit where
  | msix (vec : Nat) (addr : Nat) (data : Word)
  /-- A frame on a link: its 268 bytes, byte j on the active lane of logical index j mod 4 (R295). -/
  | flit (l : Nat) (lanes : List Nat) (bytes : List Byte)
  /-- The bib and link number that a side sends in ALIGN, whose form the spec leaves open (R319). -/
  | align (l bib link : Nat)
  | data (bytes : List Byte)
  | word (v : Word)
  | poisoned
  | unsupported
  | smbus (bytes : List Byte)
  | nack
  /-- A DOE response: vendor ID and type of its object, and its body (R473). -/
  | doe (vendor typ : Nat) (bytes : List Byte)
  | jtag (n : Nat)
  deriving DecidableEq, Repr

/-- Does an output leave over PCIe, a Relay link or the sideband (R566). -/
def Emit.onPins : Emit → Bool
  | .word _ | .jtag _ => false
  | .msix _ _ _ | .flit _ _ _ | .align _ _ _ | .data _ | .poisoned | .unsupported | .smbus _ | .nack | .doe _ _ _ => true

/-- The state of the module. -/
structure State where
  /-- Commands that wait, first in, first out. -/
  pending : List Instr := []
  /-- Register values in effect, by plain address; a register not listed holds its reset value. -/
  regs : List (Nat × Word) := []
  /-- Buffers of staged fields that hold a write (R527), by plain address. -/
  staged : List (Nat × Word) := []
  /-- Values latched by a LO read for the registers read after it (R237, R438, R487), by plain address. -/
  latch : List (Nat × Word) := []
  /-- The four memory tiers, by the place of R267. -/
  mem : List Host.Cell := []
  flash : List Host.Cell := []
  cores : List (Nat × Core) := []
  clus : List (Nat × Cluster) := []
  tensors : List (Nat × TensorConv) := []
  /-- Output regions of strict tensors as their conversions have named them, which reads wait for from the lap's first pass
  of the tensor (R145). -/
  outRegs : List (Nat × List (Nat × Nat)) := []
  /-- Module summaries by tensor: merged records of 512 bytes (R169). -/
  sums : List (Nat × List Byte) := []
  /-- Tensors whose module merge met two values of hist_base in the lap (R169, R173). -/
  mism : List Nat := []
  /-- Group summaries of the lap, by tensor (R172). -/
  gsums : List (Nat × GroupSum) := []
  lap : Lap := {}
  red : Red := {}
  /-- The data-parallel and the pipeline gate group of the image in effect (R249, R443). -/
  gates : Option (Nat × Nat) := none
  pacer : Pacer := {}
  starter : Starter := {}
  host : HostIf := {}
  flt : Flt := {}
  links : List (Nat × LinkSt) := []
  mbr : Mbr := {}
  snp : Snp := {}
  img : ImgSt := {}
  claims : List Claim := []
  waits : List (Nat × Wait) := []
  traces : List (Nat × TraceUnit) := []
  frz : FrzSt := {}
  photo : Option Photo := none
  perf : Perf := {}
  upsets : Upsets := {}
  jdg : Judge := {}
  /-- Sender of the last packet landed in a window (R311, R494). -/
  landBib : List (Nat × Nat) := []
  /-- Last recalibration of a channel (32 * stack + channel): site time and stack temperature (R289). -/
  recals : List (Nat × (Nat × Int)) := []
  /-- Site time and stack temperature of the training of a stack (R286). -/
  trained : List (Nat × (Nat × Int)) := []
  /-- Recalibrations asked for in a freeze or in Blocks: channel, temperature, failed attempts (R290). -/
  recalWait : List (Nat × (Int × Nat)) := []
  /-- Power domains by number (R23); a domain that is not listed is off. -/
  doms : List (Nat × DomState) := []
  /-- Index of the next free value (the model's own counter, log 4). -/
  freeCtr : Nat := 0
  out : List Emit := []
  deriving DecidableEq, Repr

/-- The module right after a power-on reset. -/
def State.reset : State := {}

end Sys2Proof.Machine
end

