-- ==== Sys2Proof/Machine/Ops.lean ====
section
/-!
DEFINITION. The named operations over memory and registers: bytes of the four tiers (R267), registers and their fields,
status words that count by sequence (R5, R529), and the pending bits of the Starter (R535 to R539).
-/

namespace Sys2Proof.Machine

/-! ## Memory -/

/-- What a byte that no command has written reads as (log 1). -/
def Mem.dflt : Byte := 0

/-- The byte at place a. -/
def Mem.get (m : List Host.Cell) (a : Nat) : Byte := slGet Mem.dflt m a

/-- The memory with byte b at place a; a byte that equals what an unlisted place reads as is not listed. -/
def Mem.set (m : List Host.Cell) (a : Nat) (b : Byte) : List Host.Cell :=
  match m with
  | [] => if b == Mem.dflt then [] else [(a, b)]
  | (k, v) :: l =>
    if k < a then (k, v) :: Mem.set l a b
    else if k == a then (if b == Mem.dflt then l else (a, b) :: l)
    else if b == Mem.dflt then (k, v) :: l else (a, b) :: (k, v) :: l

/-- n bytes from place a upward. -/
def Mem.read (m : List Host.Cell) (a : Nat) : Nat → List Byte
  | 0 => []
  | n + 1 => Mem.get m a :: Mem.read m (a + 1) n

/-- The memory with the bytes bs from place a upward. -/
def Mem.write (m : List Host.Cell) (a : Nat) : List Byte → List Host.Cell
  | [] => m
  | b :: bs => Mem.write (Mem.set m a b) (a + 1) bs

/-- The memory without the cells of places lo ≤ a < hi. -/
def Mem.clear (m : List Host.Cell) (lo hi : Nat) : List Host.Cell := m.filter (fun p => p.1 < lo || hi ≤ p.1)

/-- The canonical form: places strictly rising, no byte listed that equals what an unlisted place reads as. -/
def Mem.wf : List Host.Cell → Bool
  | [] => true
  | [(_, b)] => b != Mem.dflt
  | (a, b) :: (k, v) :: l => b != Mem.dflt && decide (a < k) && Mem.wf ((k, v) :: l)

/-- The tiers of R267. -/
inductive Tier where
  | hbm | pool | near | stage
  deriving DecidableEq, Repr

/-- The code of a tier (R267). -/
def Tier.code : Tier → Nat
  | .hbm => 0
  | .pool => 1
  | .near => 2
  | .stage => 3

/-- The physical place of byte `off` of a tier (R267); for HBM the offset itself. An offset beyond its tier wraps there: a check of
R268 rejects it before, but for a wide record beyond the near store, of which the spec says nothing (DESIGN CHOICE, log 118). -/
def place (t : Tier) (d cl c off : Nat) : Nat :=
  match t with
  | .hbm => off % 2 ^ 41
  | .pool => 2 ^ 61 + 2 ^ 60 + d * 2 ^ 55 + cl * 2 ^ 48 + off % 2 ^ 22
  | .near => 2 * 2 ^ 61 + 2 ^ 60 + d * 2 ^ 55 + cl * 2 ^ 48 + c * 2 ^ 42 + off % 2 ^ 20
  | .stage => 3 * 2 ^ 61 + 2 ^ 60 + d * 2 ^ 55 + cl * 2 ^ 48 + c * 2 ^ 42 + off % 2 ^ 16

/-- Byte off of a cluster pool. -/
def poolAt (c : Clu) (off : Nat) : Nat := place .pool c.die c.cl 0 off

/-- Byte off of a core's near store. -/
def nearAt (c : CoreId) (off : Nat) : Nat := place .near c.clu.die c.clu.cl c.core off

/-- Byte off of a core's staging store. -/
def stageAt (c : CoreId) (off : Nat) : Nat := place .stage c.clu.die c.clu.cl c.core off

/-- The number of a cluster: die * 105 + cluster. -/
def cluU (c : Clu) : Nat := c.die * 105 + c.cl

/-- The number of a core: cluster * 52 + core. -/
def coreU (c : CoreId) : Nat := cluU c.clu * 52 + c.core

/-- Read n bytes at a place. -/
def State.ldBytes (s : State) (a n : Nat) : List Byte := Mem.read s.mem a n

/-- Read n bytes at a place as a little-endian number (R4). -/
def State.ld (s : State) (a n : Nat) : Nat := leNat (s.ldBytes a n)

/-- Write bytes at a place. -/
def State.stBytes (s : State) (a : Nat) (bs : List Byte) : State := { s with mem := Mem.write s.mem a bs }

/-- Write the n low bytes of v at a place, little-endian (R4). -/
def State.st (s : State) (a n v : Nat) : State := s.stBytes a (toBytes n v)

/-- Read n bytes of HBM as a number. -/
def State.ldH (s : State) (a n : Nat) : Nat := s.ld (a % 2 ^ 41) n

/-- Write n bytes of HBM. -/
def State.stH (s : State) (a n v : Nat) : State := s.st (a % 2 ^ 41) n v

/-! ## Registers -/

/-- The value in effect of register r of unit u. -/
def State.rd (s : State) (r : RegDef) (u : Nat) : Word := slGet r.resetVal s.regs (r.addr u)

/-- The state with register r of unit u holding v. -/
def State.wr (s : State) (r : RegDef) (u : Nat) (v : Word) : State := { s with regs := slSet s.regs (r.addr u) v }

/-- The value in effect of field f of unit u. -/
def State.get (s : State) (f : Fld) (u : Nat) : Nat := bits (s.rd f.reg u).toNat f.hi f.lo

/-- The state with field f of unit u holding v. -/
def State.put (s : State) (f : Fld) (u v : Nat) : State :=
  s.wr f.reg u (BitVec.ofNat 32 (setBits (s.rd f.reg u).toNat f.hi f.lo v))

/-- Is the one-bit field set. -/
def State.flag (s : State) (f : Fld) (u : Nat) : Bool := s.get f u != 0

/-- The state with several fields written. -/
def State.puts (s : State) (u : Nat) (l : List (Fld × Nat)) : State := l.foldl (fun s p => s.put p.1 u p.2) s

/-- Count field f up by one, saturating at its width. -/
def State.satUp (s : State) (f : Fld) (u : Nat) : State := s.put f u (satInc (s.get f u) (2 ^ (f.hi + 1 - f.lo) - 1))

/-- Count field f up by k, saturating at its width. -/
def State.satUpBy (s : State) (f : Fld) (u k : Nat) : State := s.put f u (satAdd (s.get f u) k (2 ^ (f.hi + 1 - f.lo) - 1))

/-- The 64-bit number of two registers. -/
def State.get64 (s : State) (lo hi : RegDef) (u : Nat) : Nat := (s.rd lo u).toNat + 2 ^ 32 * (s.rd hi u).toNat

/-- Write a 64-bit number into two registers. -/
def State.put64 (s : State) (lo hi : RegDef) (u n : Nat) : State :=
  (s.wr lo u (BitVec.ofNat 32 n)).wr hi u (BitVec.ofNat 32 (n / 2 ^ 32))

/-! ## Unit tables -/

/-- A core's state. -/
def State.core (s : State) (c : CoreId) : Core := slGet {} s.cores (coreU c)

/-- The state with a core's state replaced. -/
def State.setCore (s : State) (c : CoreId) (x : Core) : State := { s with cores := slSet s.cores (coreU c) x }

/-- A cluster's state. -/
def State.clu (s : State) (c : Clu) : Cluster := slGet {} s.clus (cluU c)

/-- The state with a cluster's state replaced. -/
def State.setClu (s : State) (c : Clu) (x : Cluster) : State := { s with clus := slSet s.clus (cluU c) x }

/-- A tensor's conversion state. -/
def State.tensor (s : State) (t : Nat) : TensorConv := slGet {} s.tensors t

/-- The state with a tensor's conversion state replaced. -/
def State.setTensor (s : State) (t : Nat) (x : TensorConv) : State := { s with tensors := slSet s.tensors t x }

/-- Does any byte from place lo up to hi lie in an output region that waits for the verdict of its tensor (R145). -/
def State.regionHeld (s : State) (lo hi : Nat) : Bool :=
  s.tensors.any (fun p => p.2.regions.any (fun r => decide (r.1 < hi) && decide (lo < r.2)))

/-- Append an output of the module; while the boundary scan drives the pins, traffic over them is lost (R566). -/
def State.emit (s : State) (e : Emit) : State :=
  if s.host.scanMode != 0 && e.onPins then s else { s with out := s.out ++ [e] }

/-! ## Running, frozen, asleep -/

/-- Are the functional clocks stopped by a freeze (R504, R505). -/
def State.frozen (s : State) : Bool := s.flag F.TRC_FRZ_STATE_frozen 0

/-- Bring-up stage (R571). -/
def State.stage (s : State) : Nat := s.get F.HUB_HOST_READY_stage 0

/-- Is the module in Blocks, or are its clocks stopped for it (R433). -/
def State.asleep (s : State) : Bool := decide (3 ≤ s.get F.PWR_STATE_state 0)

/-- The number of a power domain, 0 to 1,967 (R23). -/
def domNo : Dom → Nat
  | .cluster c => c.die * 109 + c.cl
  | .mesh d => d * 109 + 105
  | .bridge d => d * 109 + 106
  | .dieCtl d => d * 109 + 107
  | .sram d => d * 109 + 108
  | .hbm h => 1853 + h / 8 * 28 + h % 8
  | .link l => 1853 + l / 16 * 28 + 8 + l % 16
  | .fabric q => 1853 + q * 28 + 24
  | .ring q => 1853 + q * 28 + 25
  | .fieldPorts q => 1853 + q * 28 + 26
  | .hubCtl q => 1853 + q * 28 + 27
  | .pcie => 1965
  | .stewards => 1966
  | .judge => 1967

/-- The state of a power domain. -/
def State.dom (s : State) (d : Dom) : DomState := slGet .off s.doms (domNo d)

/-- Is a power domain on. -/
def State.domOn (s : State) (d : Dom) : Bool := s.dom d == .on

/-- Does the PCIe endpoint serve: its domain is on and it has no lasting fault (R365). -/
def State.pcieOn (s : State) : Bool := s.domOn .pcie && !s.host.faulty

/-- Unit numbers of R380: die, cluster, core, column. -/
def unitOf (d cl c col : Nat) : Nat := d * 2 ^ 19 + cl * 2 ^ 12 + c * 2 ^ 6 + col

/-- Is a unit in quarantine: `kind` and `unit` as R380 lays them out. -/
def State.quarIs (s : State) (kind u : Nat) : Bool := s.flt.quar.contains (kind * 2 ^ 24 + u)

/-- Is a cluster or its die in quarantine. -/
def State.cluQuar (s : State) (c : Clu) : Bool :=
  s.quarIs 3 (unitOf c.die c.cl 0 0) || s.quarIs 4 (unitOf c.die 0 0 0)

/-- Is a core, its cluster or its die in quarantine. -/
def State.coreQuar (s : State) (c : CoreId) : Bool :=
  s.quarIs 2 (unitOf c.clu.die c.clu.cl c.core 0) || s.cluQuar c.clu

/-- Are the functional clocks running: no freeze, not asleep. -/
def State.live (s : State) : Bool := !s.frozen && !s.asleep

/-- Does a cluster work: bring-up is complete (R572), clocks running, its domain on, not in quarantine. -/
def State.cluOn (s : State) (c : Clu) : Bool :=
  s.live && s.stage == 0x0F && s.domOn (.cluster c) && !s.cluQuar c && !(s.clu c).stalled

/-- May a cluster's sequencer run its next item: it works, is not stopped and has not abandoned the lap (R261, R262). -/
def State.cluGo (s : State) (c : Clu) : Bool :=
  s.cluOn c && s.get F.CLU_SEQ_STATUS_stop (cluU c) == 0 && !(s.clu c).abandoned

/-- The physical cores that are active in a cluster, in logical order (R25). -/
def State.activeCores (s : State) (c : Clu) : List Nat := slGet (List.range 50) s.flt.coreMap (cluU c)

/-- The physical clusters that are active on a physical die, in logical order (R25). -/
def State.activeClus (s : State) (d : Nat) : List Nat := slGet (List.range 100) s.flt.cluMap d

/-- The state with every mapping of the remap table in effect, those for the next start hurdle too (R29, R357). -/
def State.mapped (s : State) : State :=
  let take := fun (l : List (Nat × List Nat)) (n : List (Nat × List Nat)) => n.foldl (fun l p => slSet l p.1 p.2) l
  { s with flt := { s.flt with
      coreMap := take s.flt.coreMap s.flt.coreNext, cluMap := take s.flt.cluMap s.flt.cluNext, coreNext := [], cluNext := [] } }

/-- Work f on logical positions as they will stand at the next start hurdle, which the mappings in effect do not yet show (R29,
R359). -/
def State.inNext (s : State) (f : State → State) : State :=
  let t := f s.mapped
  { t with flt := { t.flt with
      coreMap := s.flt.coreMap, cluMap := s.flt.cluMap, coreNext := s.flt.coreNext, cluNext := s.flt.cluNext } }

/-- The core with a number below 52. -/
def coreNo (c : Clu) (n : Nat) : CoreId := ⟨c, ⟨n % 52, Nat.mod_lt _ (by decide)⟩⟩

/-- Does an item of a cluster's schedule still run: a kernel, or wavefronts of a pass (R246, R247). -/
def State.cluBusy (s : State) (c : Clu) : Bool :=
  (s.clu c).kernel.isSome || (List.range 52).any (fun n => !(s.core (coreNo c n)).runs.isEmpty)

/-- λ and π advance (R239, R240), and with them the registers in which they are in effect, but for one that a strobe has written
for the next start hurdle (R241, R265). -/
def State.lapNow (s : State) (lam pi : Nat) : State :=
  let t := { s with lap := { s.lap with lam := lam, pi := pi } }
  let t := if s.lap.lamSet then t else t.put64 R.GRP_LAP_INDEX_LO R.GRP_LAP_INDEX_HI 0 lam
  if s.lap.piSet then t else t.put64 R.GRP_LAP_POS_LO R.GRP_LAP_POS_HI 0 pi

/-- Chunks of a snapshot (R383). -/
def SnpRun.n (r : SnpRun) : Nat := (r.bytes + 2 ^ 26 - 1) / 2 ^ 26

/-- The cluster with a number below 1,785. -/
def cluNo (d n : Nat) : Clu := ⟨⟨d % 17, Nat.mod_lt _ (by decide)⟩, ⟨n % 105, Nat.mod_lt _ (by decide)⟩⟩

/-- The cluster of a place in SRAM. -/
def placeClu (a : Nat) : Clu := cluNo (bits a 59 55) (bits a 54 48)

/-- The core of a place in a near or staging store. -/
def placeCore (a : Nat) : CoreId := coreNo (placeClu a) (bits a 47 42)

/-- The active clusters of the module, by die (physical). -/
def State.allClus (s : State) : List Clu := s.flt.dieMap.flatMap (fun d => (s.activeClus d).map (fun n => cluNo d n))

/-- Add k to a 64-bit performance counter whose LO word is at plain address a (R487). -/
def State.perfUp (s : State) (a k : Nat) : State :=
  let n := (slGet 0 s.regs a).toNat + 2 ^ 32 * (slGet 0 s.regs (a + 4)).toNat + k
  { s with regs := slSet (slSet s.regs a (BitVec.ofNat 32 n)) (a + 4) (BitVec.ofNat 32 (n / 2 ^ 32)) }

/-- Add k to performance counter i of a core (R488). -/
def State.perfCore (s : State) (c : CoreId) (i k : Nat) : State := s.perfUp (coreBase (coreU c) + 0x40 + 8 * i) k

/-- Add k to performance counter i of a cluster (R489). -/
def State.perfClu (s : State) (c : Clu) (i k : Nat) : State := s.perfUp (cluBase (cluU c) + 0x340 + 8 * i) k

/-- Add k to performance counter i of a link (R490). -/
def State.perfLink (s : State) (l i k : Nat) : State := s.perfUp (Blk.base .link l + 0x40 + 8 * i) k

/-- Site time in nanoseconds. -/
def State.ns (s : State) : Nat := s.pacer.time / 256

/-- How far one tick moves site time, in 1/256 ns: 4 ns, or 1/256 ns less or more while an error is slewed (R409, R412). -/
def State.tickLen (s : State) : Nat := if 0 < s.pacer.slew then 1023 else if s.pacer.slew < 0 then 1025 else 1024

/-- Has the last tick reached a whole multiple of `us` microseconds of site time (R417). -/
def State.atMultiple (s : State) (us : Nat) : Bool := decide (s.pacer.time % (256000 * us) < s.tickLen)

/-- An exempt event: the ramp bound does not span it (R425). -/
def State.exempt (s : State) : State :=
  { s.satUp F.PWR_EVENTS_exempt 0 with pacer := { s.pacer with drawn := none } }

/-- How long the functional clocks have run, in ns (R487). -/
def State.runNs (s : State) : Nat := s.ns - s.frz.stood - (if s.live then 0 else s.ns - s.frz.haltAt)

/-- A unit's counters count from now on (R487). -/
def State.perfStart (s : State) (key : Nat) : State :=
  { s with perf := { s.perf with start := slSet s.perf.start key s.runNs, stop := slDel s.perf.stop key } }

/-- A unit in quarantine counts no more (R487). -/
def State.perfStop (s : State) (key : Nat) : State :=
  { s with perf := { s.perf with stop := slSet s.perf.stop key s.runNs } }

/-- A cluster's work ends now (R259). -/
def State.worked (s : State) (c : Clu) : State := s.setClu c { s.clu c with last := s.ns }

/-! ## The Starter (R535 to R540) -/

/-- Is steward t quarantined (R365). -/
def State.stewBad (s : State) (t : Nat) : Bool := s.flt.quar.contains (9 * 2 ^ 24 + t)

/-- The lowest-numbered live steward (R540). -/
def State.liveSteward (s : State) : Nat := ((List.range 8).find? (fun t => !s.stewBad t)).getD 0

/-- The target of source n (R538, R540). -/
def State.srcTarget (s : State) (n : Nat) : Nat :=
  let t := if s.flag F.HUB_INT_CFG_mode 0 && decide (n < 256) then n / 32 else s.get F.HUB_INT_SRC_target n
  if t < 8 && s.stewBad t then s.liveSteward else t

/-- The running stack of target t. -/
def State.stack (s : State) (t : Nat) : List (Nat × Nat) := slGet [] s.starter.stk t

/-- The running priority of target t (R537). -/
def State.runPrio (s : State) (t : Nat) : Nat :=
  match s.stack t with
  | [] => 0
  | p :: _ => p.2

/-- The pending bit of source n. -/
def State.srcPend (s : State) (n : Nat) : Bool := bit (s.rd R.HUB_INT_PEND (n / 32)).toNat (n % 32)

/-- Set or clear the pending bit of source n. -/
def State.setPend (s : State) (n : Nat) (b : Bool) : State :=
  s.wr R.HUB_INT_PEND (n / 32)
    (BitVec.ofNat 32 (setBits (s.rd R.HUB_INT_PEND (n / 32)).toNat (n % 32) (n % 32) (b2n b)))

/-- Is source n eligible for target t (R536), and may it be delivered now (R540). -/
def State.eligible (s : State) (t n : Nat) : Bool :=
  let prio := s.get F.HUB_INT_SRC_prio n
  s.srcPend n && prio != 0 && !bit (s.rd R.HUB_INT_MASK (n / 32)).toNat (n % 32)
    && s.srcTarget n == t && decide (s.get F.HUB_INT_THRESH_thresh t < prio) && decide (s.runPrio t < prio)
    && (t == 8 || s.starter.stewReady)
    && (!s.frozen || (decide (2368 ≤ n ∧ n ≤ 2399) && t == 8))
    && s.get F.PWR_STATE_state 0 != 4

/-- Word w of MSI-X table entry v (R561): word 3 is the vector control word, masked at reset. -/
def State.msixWord (s : State) (v w : Nat) : Word := slGet (if w == 3 then 1 else 0) s.host.msix (4 * v + w)

/-- Is vector v masked, by its own bit or the function's (R561). -/
def State.msixMasked (s : State) (v : Nat) : Bool := s.host.funcMask || (s.msixWord v 3).toNat % 2 == 1

/-- Issue the message of vector v, or hold it in the pending bit array while it is masked (R539, R561). -/
def State.message (s : State) (v : Nat) : State :=
  if !s.host.msixEn || s.host.faulty then s
  else if s.msixMasked v then { s with host := { s.host with pba := s.host.pba ||| 2 ^ v } }
  else s.emit (.msix v ((s.msixWord v 0).toNat + 2 ^ 32 * (s.msixWord v 1).toNat) (s.msixWord v 2))

/-- The sources eligible for target t, by scanning the pending words that hold a set bit. -/
def State.eligibleList (s : State) (t : Nat) : List Nat :=
  (List.range 128).flatMap (fun k =>
    if (s.rd R.HUB_INT_PEND k) == 0 then [] else
      ((List.range 32).map (· + 32 * k)).filter (fun n => s.eligible t n))

/-- After a change from s0: each source that has become eligible for the host issues its message (R539). -/
def State.notify (s s0 : State) : State :=
  let old := s0.eligibleList 8
  (s.eligibleList 8).foldl (fun s n =>
    if old.contains n then s else s.message (s.get F.HUB_INT_SRC_vector n)) s

/-- An event of source n (R535): pending unless its prio is 0; a newly eligible host source issues its message. -/
def State.raise (s : State) (n : Nat) : State :=
  if s.get F.HUB_INT_SRC_prio n == 0 then s
  else
    let s' := s.setPend n true
    if s'.eligible 8 n && !s.eligible 8 n then s'.message (s'.get F.HUB_INT_SRC_vector n) else s'

/-! ## Status by sequence (R5, R529) -/

/-- Post code c to status register r of unit u with its unit fields, raising source n: seq counts up (R55 and its kin). -/
def State.post (s : State) (r : RegDef) (u : Nat) (l : List (Fld × Nat)) (c n : Nat) : State :=
  let w := (s.rd r u).toNat
  let w := setBits (setBits w 31 24 (bits w 31 24 + 1)) 7 0 c
  ((s.wr r u (BitVec.ofNat 32 w)).puts u l).raise n

/-- Source k of field die d (R541). -/
def dieSrc (d k : Nat) : Nat := 256 + 64 * d + k

/-! ## Which blocks answer (R506, R524) -/

/-- The power domain of a block (R520 to R523). -/
def blkDom (b : Blk) (u : Nat) : Dom :=
  let q (n : Nat) : Fin 4 := ⟨n % 4, Nat.mod_lt _ (by decide)⟩
  match b with
  | .hub => .hubCtl (q u)
  | .hbm => .hbm ⟨u % 32, Nat.mod_lt _ (by decide)⟩
  | .link => .link ⟨u % 64, Nat.mod_lt _ (by decide)⟩
  | .die => .dieCtl ⟨u % 17, Nat.mod_lt _ (by decide)⟩
  | .clu => .cluster (cluNo (u / 105) (u % 105))
  | .core => .cluster (cluNo (u / 52 / 105) (u / 52 % 105))
  | .judge => .judge
  | _ => .hubCtl 0

/-- Is the unit of a block, or one that holds it, in quarantine (R524). -/
def State.blkQuar (s : State) (b : Blk) (u : Nat) : Bool :=
  match b with
  | .die => s.quarIs 4 (unitOf u 0 0 0)
  | .clu => s.cluQuar (cluNo (u / 105) (u % 105))
  | .core => s.coreQuar (coreNo (cluNo (u / 52 / 105) (u / 52 % 105)) (u % 52))
  | _ => false

/-- Is a register of a block served during a freeze (R506, R543). -/
def frozenOk (b : Blk) (u off : Nat) : Bool :=
  match b with
  | .trace | .traceQ | .hbm | .intSrc | .intPend | .intMask | .intCfg => true
  | .intTgt => u == 8 || off == 0xC
  | _ => false

/-- Does a block answer: its domain is on and not in quarantine, its clock runs; the Pacer and the supply monitor lie in
the always-on region (R23, R524). -/
def State.served (s : State) (b : Blk) (u off : Nat) : Bool :=
  match b with
  | .pacer | .spt | .power => s.stage != 0
  | _ => s.domOn (blkDom b u) && !s.blkQuar b u && !s.asleep && (!s.frozen || frozenOk b u off)

/-- A command that writes a register of a block: it acts while the block answers, and is dropped otherwise (R524). -/
def State.whenServed (s : State) (b : Blk) (u off : Nat) (t : State) : State := if s.served b u off then t else s

end Sys2Proof.Machine
end

