-- ==== Sys2Proof/Machine/Stats.lean ====
section
/-!
DEFINITION. Statistics records (R161 to R169) and how events are counted into them.
-/

namespace Sys2Proof.Machine

/-- Pool place of statistics record i of a cluster (R161, R188). -/
def State.staRec (s : State) (c : Clu) (i : Nat) : Nat := poolAt c (s.get F.STA_CFG_base (cluU c) * 4096 + 512 * i)

/-- The place of the valid statistics record of a tensor in a cluster's table (R161). -/
def State.staFind (s : State) (c : Clu) (tensor : Nat) : Option Nat :=
  ((List.range (s.get F.STA_CFG_records (cluU c))).find? (fun i =>
    s.ld (s.staRec c i) 2 == tensor && (s.ld (s.staRec c i + 12) 1) % 2 == 1)).map (s.staRec c)

/-- Post STA_STATUS (R189, R192). -/
def State.staPost (s : State) (c : Clu) (code tensor : Nat) : State :=
  s.post R.STA_STATUS (cluU c) [(F.STA_STATUS_tensor, tensor)] code (dieSrc c.die 2)

/-- Add k to the 32-bit counter or bin at offset o of the record at place a; reaching 0xFFFF_FFFF sets `sat` and
reports STA_SATURATED once (R165). -/
def State.staUp (s : State) (c : Clu) (tensor a o k : Nat) : State :=
  let v := s.ld (a + o) 4
  if k == 0 || v == 0xFFFFFFFF then s
  else
    let w := satAdd v k 0xFFFFFFFF
    let s := s.st (a + o) 4 w
    if w == 0xFFFFFFFF then (s.st (a + 12) 1 ((s.ld (a + 12) 1) ||| 2)).staPost c 3 tensor else s

/-- Offset in a record of the histogram bin of exponent e (R162, R164). -/
def binOff (base e : Int) : Nat :=
  if e < base then 128 else if base + 63 < e then 388 else 132 + 4 * (e - base).toNat

/-- Is the first max_exp value (16-bit pattern, 0x8000 none) smaller than the second (R168). -/
def expLt (a b : Nat) : Bool := if a == 0x8000 then b != 0x8000 else b != 0x8000 && decide (sext 16 a < sext 16 b)

/-- Count one finite nonzero output of exponent e and FP32-upward magnitude m into a record (R164). -/
def State.staOut (s : State) (c : Clu) (tensor a : Nat) (e : Int) (m : Nat) : State :=
  let s := s.staUp c tensor a (binOff (sext 16 (s.ld (a + 2) 2)) e) 1
  let s := if expLt (s.ld (a + 14) 2) (unsx 16 e) then s.st (a + 14) 2 (unsx 16 e) else s
  if s.ld (a + 16) 4 < m then s.st (a + 16) 4 m else s

/-- Count events into the record at place a (R163 to R165). -/
def State.staAdd (s : State) (c : Clu) (tensor a : Nat) (ev : Evs) : State :=
  let s := ev.ctr.foldl (fun s p => s.staUp c tensor a (20 + 4 * p.1) p.2) s
  ev.outs.foldl (fun s p => s.staOut c tensor a p.1 p.2) s

/-- Count events of a tensor on a cluster; without a record they are dropped (R163, R170). -/
def State.count (s : State) (c : Clu) (tensor : Nat) (ev : Evs) : State :=
  match s.staFind c tensor with
  | none => s
  | some a => s.staAdd c tensor a ev

/-- Clear a record at the first hurdle of a lap: header kept, `members` 1, `flags` valid, the rest none (R167). -/
def State.staClear (s : State) (a : Nat) : State :=
  let s := s.stBytes (a + 8) (toBytes 4 1 ++ [1, 0] ++ toBytes 2 0x8000 ++ List.replicate 80 0)
  s.stBytes (a + 96) (List.replicate 416 0)

/-! ### Scale entries (R155, R156) -/

/-- Pool place of scale entry i of a cluster (R155, R157). -/
def State.sclEnt (s : State) (c : Clu) (i : Nat) : Nat :=
  poolAt c (s.get F.CLU_SCALE_CFG_base (cluU c) * 4096 + 64 * i)

/-- The place of the valid scale entry of a tensor (R155). -/
def State.sclFind (s : State) (c : Clu) (tensor : Nat) : Option Nat :=
  ((List.range (s.get F.CLU_SCALE_CFG_entries (cluU c))).find? (fun i =>
    let w := s.ld (s.sclEnt c i + 4) 4
    w % 65536 == tensor && bit w 16)).map (s.sclEnt c)

/-- The 512 bits of a scale entry at place a. -/
def State.sclWord (s : State) (a : Nat) : Nat := s.ld a 64

/-- Does a scale entry hold a reserved value (R155, R156, R158): a reserved bit, theta_init 0x00 or 0xFF, calm above 7. -/
def sclReserved (e : Nat) : Bool :=
  bits e 511 384 != 0 || bits e 95 78 != 0 || bits e 55 50 != 0 || bits e 22 21 != 0 || bits e 3 0 != 0
    || bits e 31 24 == 0 || bits e 31 24 == 255 || decide (7 < bits e 63 60)

/-- Post CLU_SCALE_STATUS (R159, R160). -/
def State.sclPost (s : State) (c : Clu) (code tensor : Nat) : State :=
  s.post R.CLU_SCALE_STATUS (cluU c) [(F.CLU_SCALE_STATUS_tensor, tensor)] code (dieSrc c.die 1)

/-! ### Stopping a cluster (R261) -/

/-- Post CLU_SEQ_STATUS (R263). -/
def State.seqPost (s : State) (c : Clu) (code : Nat) : State :=
  s.post R.CLU_SEQ_STATUS (cluU c) [] code (dieSrc c.die 5)

/-- Stop a cluster's sequencer with a reason, holding the item that failed (R261). -/
def State.stop (s : State) (c : Clu) (reason : Nat) (item : Instr) : State :=
  let s := (s.put F.CLU_SEQ_STATUS_stop (cluU c) reason).seqPost c 1
  s.setClu c { s.clu c with heldItem := some item }

/-- Post CORE_ARRAY_STATUS (R55). -/
def State.corePost (s : State) (c : CoreId) (code : Nat) : State :=
  s.post R.CORE_ARRAY_STATUS (coreU c) [] code (dieSrc c.clu.die 0)

end Sys2Proof.Machine
end

