-- ==== Sys2Proof/Machine/FaultLog.lean ====
section
/-!
DEFINITION. What the fault engine reports: its status (R380, R381) and the fault log (R375, R378).
-/

namespace Sys2Proof.Machine

/-- Post HUB_FLT_STATUS with the unit of the event (R380, R381). -/
def State.fltPost (s : State) (kind unit code : Nat) : State :=
  (s.put F.HUB_FLT_UNIT_unit 0 unit).post R.HUB_FLT_STATUS 0 [(F.HUB_FLT_STATUS_kind, kind)] code 1360

/-- Write module flash through its interface: while a firmware switch is pending, the inactive slot takes no write (R373, R375). -/
def State.flashPut (s : State) (a : Nat) (bs : List Byte) : State :=
  let slot := if s.get F.HUB_FW_STATUS_active 0 == 0 then 0x11000000 else 0x01000000
  if s.flag F.HUB_FW_STATUS_pending 0 && decide (slot ≤ a ∧ a < slot + 0x10000000) then s
  else { s with flash := Mem.write s.flash a bs }

/-- Write a fault log record (R378): outcome 0 transient, 1 lasting, 2 remapped, 3 escalated, 4 requalified,
5 requalification failed. -/
def State.fltLog (s : State) (kind unit outcome code addr : Nat) : State :=
  let n := s.get F.HUB_FLT_LOG_HEAD_head 0
  let r := toBytes 8 s.ns ++ toBytes 1 kind ++ toBytes 1 outcome ++ toBytes 1 code ++ [0] ++ toBytes 4 unit
    ++ toBytes 4 s.lap.lam ++ toBytes 4 0 ++ toBytes 8 addr
  (s.flashPut (0x21200000 + 32 * n) r).put F.HUB_FLT_LOG_HEAD_head 0 ((n + 1) % 8388608)

/-- The unit of a cluster (R380). -/
def cluUnit (c : Clu) : Nat := unitOf c.die c.cl 0 0

/-- The unit of a core (R380). -/
def coreUnit (c : CoreId) : Nat := unitOf c.clu.die c.clu.cl c.core 0

/-- A retry passed: the record and the status of R355. -/
def State.fltTransient (s : State) (kind unit code addr : Nat) : State :=
  (s.fltLog kind unit 0 code addr).fltPost kind unit 1

/-! ### Reads of SRAM (R270) -/

/-- An error of two bits or more in the word at place a that the retry cleared (R270, R355). -/
def State.sramCleared (s : State) (a : Nat) : State :=
  if bits a 63 61 == 1 then s.fltTransient 3 (cluUnit (placeClu a)) 6 0 else s.fltTransient 2 (coreUnit (placeCore a)) 6 0

/-- A read of the word of SRAM at a place shows `u`: a single-bit error is corrected and counted in the cluster that holds the word;
one of two bits or more is retried once, and where the retry fails it is lasting (R270, R284). -/
def State.sramRead (s : State) (a : Nat) (u : Bool × Bool) : State :=
  if !u.1 then s.satUp F.CPY_ERR_CNT_corrected (cluU (placeClu a))
  else if !u.2 then s.sramCleared a
  else { s with flt := { s.flt with sramBad := s.flt.sramBad ++ [a] } }

/-- Does the word of an upset of SRAM lie among n bytes from place a. -/
def inWords (a n : Nat) (p : Nat × (Bool × Bool)) : Bool := decide (p.1 < a + n ∧ a < p.1 + 32)

/-- Read n bytes of SRAM from place a: each upset in its words shows once. -/
def State.sramMeet (s : State) (a n : Nat) : State :=
  (s.upsets.sram.filter (inWords a n)).foldl (fun s p => s.sramRead p.1 p.2)
    { s with upsets := { s.upsets with sram := s.upsets.sram.filter (fun p => !inWords a n p) } }

/-- Read stretches of SRAM, each a place and a length. -/
def State.sramMeets (s : State) (l : List (Nat × Nat)) : State := l.foldl (fun s p => s.sramMeet p.1 p.2) s

/-- Write n bytes of SRAM from place a: the words it covers only in part are read first (R270). -/
def State.sramPart (s : State) (a n : Nat) : State :=
  let s := if a % 32 == 0 then s else s.sramMeet (a / 32 * 32) 32
  if (a + n) % 32 == 0 then s else s.sramMeet ((a + n) / 32 * 32) 32

end Sys2Proof.Machine
end

