-- ==== Sys2Proof/Config.lean ====
section
/-!
DEFINITION. What the spec leaves open: constants without a body, so that no proof can see their values. Every value
that the spec does not fix is one of these, applied to the operands it depends on, or to the counter freeCtr of State.
-/

namespace Sys2Proof

/-- A fresh free value, by the index of its use. -/
opaque Config.free : Nat → Nat

/-- FP32 base-2 exponential of finite operands, taken where R216's bound admits it. -/
opaque Config.exp2 : Word → Word

/-- FP32 base-2 logarithm of positive finite operands (R216). -/
opaque Config.log2 : Word → Word

/-- FP32 natural exponential of finite operands (R216). -/
opaque Config.exp : Word → Word

/-- FP32 natural logarithm of positive finite operands (R216). -/
opaque Config.ln : Word → Word

/-- FP32 hyperbolic tangent of finite operands (R216). -/
opaque Config.tanh : Word → Word

/-- FP32 logistic sigmoid of finite operands (R216). -/
opaque Config.sigmoid : Word → Word

/-- Which neighbour of the correctly rounded reciprocal is written (R216: within one ulp): 0 below, 1 it, 2 above. -/
opaque Config.rcp : Word → Nat

/-- Which neighbour of the correctly rounded reciprocal square root is written (R216). -/
opaque Config.rsqrt : Word → Nat

/-- The token a lane handles at an instruction's immediate operand: cluster number, lane, immediate (R235, R455). -/
opaque Config.laneToken : Nat → Nat → Word → Nat

/-- Does a select instruction take operand A: operands A, B, C (R214 names no condition). -/
opaque Config.selectA : Word → Word → Word → Bool

/-- A shift by 32 or more: operation (0 left, 1 logical right, 2 arithmetic right), operand, amount. -/
opaque Config.shiftBig : Nat → Word → Word → Word

/-- The scale tau that a convert instruction applies to an INT8 or INT4 operand, and to an output of a tensor without a scale
entry, by its immediate (R217 names none). -/
opaque Config.convertTau : Word → Int

/-- The A8 channel of a lane of a convert instruction that names no tensor with an A8 extension: lane, immediate; scale and zero
point (R217 names none). -/
opaque Config.convertChan : Nat → Word → Nat × Nat

/-- A lane's 32 bits for an element of a block format: code, scale byte of its block, slot pattern of an outlier (R217 gives no
place to them). -/
opaque Config.laneWord : Nat → Nat → Option Nat → Word

/-- The element of a block format in a lane's 32 bits: code, scale byte, slot pattern (R217). -/
opaque Config.lanePart : Word → Nat × Nat × Option Nat

/-- The vector register that takes the lane indices of a sort, by its `dst`; none: no register takes them (R233, R455). -/
opaque Config.sortIndex : Nat → Option Nat

/-- The row and column that a kernel names for the element of a lane: cluster number, lane, immediate (R224). -/
opaque Config.kernelElem : Nat → Nat → Word → Nat × Nat

/-- The home cluster of the governed layer that a hurdle item names on a cluster without an entry of that index, and the index
there (R175 names the home but no field that holds it): cluster number, layer; cluster number, index. -/
opaque Config.layerHome : Nat → Nat → Nat × Nat

/-- The tensor whose working copy a pass reads, by its descriptor; none: it reads none (R257; no field of R57 holds it). -/
opaque Config.workingCopy : Nat → Option Nat

/-- Does the refresh part of a cluster's schedule write the working copy of a tensor: cluster number, tensor (R257). -/
opaque Config.refreshes : Nat → Nat → Bool

/-- The identifier of the loss tensor (R248; the spec names no field that holds it). -/
opaque Config.lossTensor : Nat

/-- The key by which the Scout takes sampled output p of n (R193, R198 fix no order). -/
opaque Config.scoutKey : Nat → Nat → Nat

/-- The ac between two rounds of outputs of a call, by its descriptor and the round (R201 bounds them only). -/
opaque Config.scoutGap : Nat → Nat → Nat

/-- Kwemeloth's PCI vendor ID (R548). -/
opaque Config.vendorId : Nat

/-- Kwemeloth's JEDEC manufacturer code (R566). -/
opaque Config.jedec : Nat

/-- The public key of slot 0 in Judge ROM (R464). -/
opaque Config.romKey : List Byte

/-- The secret that the module's PUF gives for helper data; none: reconstruction fails (R467). -/
opaque Config.pufSecret : List Byte → Option (List Byte)

/-- New helper data of the PUF, by the index of the enrolment (R468). -/
opaque Config.pufHelper : Nat → List Byte

/-- Byte i of a part of a photo record, as its contents lie in it where the spec gives them no layout (R510): the kind of part, its
contents, i. -/
opaque Config.photoPart {α : Type} : Nat → α → Nat → Byte

/-- What an image section of a type whose layout the spec does not give writes, by its type and data (R443): entries of
(kind of target, address, bytes); kinds: 0 cluster register, 1 core register (core * 128 + offset), 2 cluster pool,
3 module register, 4 HBM, 5 the cluster mirror address, 6 the two gate groups, 7 the state of a power domain. -/
opaque Config.sectionWrites : Nat → List Byte → List (Nat × Nat × List Byte)

/-- Do the contents of a section hold a reserved value where the spec does not give its layout (R444, check 8). -/
opaque Config.sectionReserved : Nat → List Byte → Bool

/-- The pool offset in the `arg` of a schedule item that also holds a core or a count: kind, `arg` (R453). -/
opaque Config.itemOffset : Nat → Nat → Nat

end Sys2Proof
end

