-- ==== Sys2Proof/Machine/Domains.lean ====
section
/-!
DEFINITION. Power domains (R23, R432): what a domain loses when it goes off, and what the zones on the other side show
(R533, R534).
-/

namespace Sys2Proof.Machine

/-- Count an event of a zone status register and raise its source (R534). -/
def State.zonePost (s : State) (r : RegDef) (u src : Nat) (l : List (Fld × Nat)) : State :=
  let w := (s.rd r u).toNat
  ((s.wr r u (BitVec.ofNat 32 (setBits w 31 24 (bits w 31 24 + 1)))).puts u l).raise src

/-- A zone of class k toward hub q overran (R532). -/
def State.hubOverrun (s : State) (q k : Nat) : State :=
  s.zonePost R.HUB_XZ_STATUS q (1344 + 128 * q) [(F.HUB_XZ_STATUS_zones, s.get F.HUB_XZ_STATUS_zones q ||| 2 ^ k)]

/-- A zone of hub q was flushed (R533). -/
def State.hubFlush (s : State) (q : Nat) : State :=
  s.zonePost R.HUB_XZ_STATUS q (1344 + 128 * q) [(F.HUB_XZ_STATUS_flushed, 1)]

/-- A zone of die d was flushed (R533). -/
def State.dieFlush (s : State) (d : Nat) : State := s.zonePost R.CLU_XZ_STATUS d (dieSrc d 9) [(F.CLU_XZ_STATUS_flushed, 1)]

/-- Deliver the action of timer n in the functional domains (R415, R435): a lap boundary, an order scan, its source. -/
def State.sptAct (s : State) (n : Nat) : State :=
  let t := s.get F.PCR_SPT_CTRL_target n
  let b := s.get64 R.PCR_SPT_CMP_LO R.PCR_SPT_CMP_HI n
  let s := if t == 1 then { s with pacer := { s.pacer with lapDue := some b, scanDue := true } }
    else if t == 2 then { s with pacer := { s.pacer with scanDue := true } } else s
  if s.flag F.PCR_SPT_CTRL_irq n then s.raise (2240 + n) else s

/-- Deliver the actions that waited for the clocks, in the order of their firing (R531, R533). -/
def State.sptFlush (s : State) : State :=
  if !s.live then s
  else s.pacer.acts.foldl (fun s n => s.sptAct n) { s with pacer := { s.pacer with acts := [] } }

/-! ### Registers of the remap table (R51, R210, R376) -/

/-- The four remap entries of a cluster's Scout, ascending (R210). -/
def genRemaps : List RegDef := [R.SCT_GEN_REMAP0, R.SCT_GEN_REMAP1, R.SCT_GEN_REMAP2, R.SCT_GEN_REMAP3]

/-- Is a plain address that of a register the remap table holds: CORE_COLMAP or SCT_GEN_REMAPn (R376). -/
def isRemapReg (a : Nat) : Bool :=
  match regAt a with
  | some (r, _) => r == R.CORE_COLMAP || genRemaps.contains r
  | none => false

/-- The registers that the remap table holds, of every cluster: those of clusters that are not off stand in their registers. -/
def State.remapRegs (s : State) : List (Nat × Word) :=
  (s.regs.filter (fun p => isRemapReg p.1)).foldl (fun l p => slSet l p.1 p.2) s.flt.regs

/-- The remap table keeps a cluster's registers when its domain goes off. -/
def State.remapKeep (s : State) (c : Clu) : State :=
  let lo := cluBase (cluU c)
  let mine := s.regs.filter (fun p => decide (lo ≤ p.1) && decide (p.1 < lo + 0x10000) && isRemapReg p.1)
  { s with flt := { s.flt with regs := mine.foldl (fun l p => slSet l p.1 p.2) s.flt.regs } }

/-- What a register loads from its entry of the remap table: `retired_col_next` then equals `retired_col` (R51). -/
def remapWord (a : Nat) (v : Word) : Word :=
  match regAt a with
  | some (r, _) => if r == R.CORE_COLMAP then BitVec.ofNat 32 (setBits v.toNat 13 8 (bits v.toNat 5 0)) else v
  | none => v

/-- A cluster whose domain is switched on loads its registers from the remap table in effect (R51, R210, R571). -/
def State.remapLoad (s : State) (c : Clu) : State :=
  let lo := cluBase (cluU c)
  (s.flt.regs.filter (fun p => decide (lo ≤ p.1) && decide (p.1 < lo + 0x10000))).foldl
    (fun s p => { s with regs := slSet s.regs p.1 (remapWord p.1 p.2) }) s

/-! ### What a domain loses (R432) -/

/-- Drop register values in effect, buffers and latches of the addresses lo up to hi. -/
def State.clearRegs (s : State) (lo hi : Nat) : State :=
  let keep : Nat × Word → Bool := fun p => decide (p.1 < lo) || decide (hi ≤ p.1)
  { s with regs := s.regs.filter keep, staged := s.staged.filter keep, latch := s.latch.filter keep }

/-- What the Judge keeps in Judge RAM only (R462, R478). -/
def Judge.lost (j : Judge) : Judge :=
  { j with grant := none, priv := none, fw := none, verified := [], chal := none, fwNone := false, ok := false, doe := none, run := none, past := [] }

/-- Is a plain address that of a performance counter: of a core, a cluster or a link (R488 to R490). -/
def isPerf (a : Nat) : Bool :=
  let die := (a - 0x0200_0000) % 0x0080_0000
  let o := (die - 0x0010_0000) % 0x0001_0000
  if 0x0200_0000 ≤ a && a < 0x0200_0000 + 17 * 0x0080_0000 && 0x0010_0000 ≤ die && die < 0x0010_0000 + 105 * 0x0001_0000 then
    (0x0340 ≤ o && o < 0x0380)
      || (0x4000 ≤ o && o < 0x4000 + 26 * 0x80 && 0x40 ≤ o % 0x80)
      || (0x8000 ≤ o && o < 0x8000 + 26 * 0x80 && 0x40 ≤ o % 0x80)
  else
    let h := (a - 0x0100_0000) % 0x0040_0000
    0x0100_0000 ≤ a && a < 0x0200_0000 && 0x0004_0000 ≤ h && h < 0x0008_0000
      && 0x40 ≤ h % 0x4000 && h % 0x4000 < 0x80

/-- The contents of a domain are lost (R432), but for the counters of a quarantined cluster (R487). -/
def State.domLost (s : State) (d : Dom) : State :=
  match d with
  | .cluster c =>
    let u := cluU c
    let at0 (t : Nat) : Nat := t * 2 ^ 61 + 2 ^ 60 + c.die * 2 ^ 55 + c.cl * 2 ^ 48
    let kept := if s.cluQuar c then s.regs.filter (fun p =>
      decide (cluBase u ≤ p.1) && decide (p.1 < cluBase u + 0x10000) && isPerf p.1) else []
    let s := (s.remapKeep c).clearRegs (cluBase u) (cluBase u + 0x10000)
    { s with
      regs := kept.foldl (fun l p => slSet l p.1 p.2) s.regs
      mem := [1, 2, 3].foldl (fun m t => Mem.clear m (at0 t) (at0 t + 2 ^ 48)) s.mem
      cores := s.cores.filter (fun p => p.1 / 52 != u), clus := slDel s.clus u }
  | .hbm h =>
    let b := Blk.base .hbm h
    let s := s.clearRegs b (b + 0x4000)
    { s with mem := Mem.clear s.mem (h * 2 ^ 36) (h * 2 ^ 36 + 2 ^ 36), recals := s.recals.filter (fun p => p.1 / 32 != h), trained := slDel s.trained h }
  | .link l =>
    let b := Blk.base .link l
    let s := s.clearRegs b (b + 0x4000)
    { s with links := slDel s.links l }
  | .dieCtl d => s.clearRegs (dieBase d + 0x8000) (dieBase d + 0xC000)
  | .hubCtl q => s.clearRegs (hubBase q) (hubBase q + 0x4000)
  | .pcie => { s with host := { s.host with msix := [], pba := 0, msixEn := false, funcMask := false } }
  | .stewards => { s with starter := { s.starter with stk := s.starter.stk.filter (fun p => p.1 == 8), stewReady := false } }
  | .judge => { s with jdg := s.jdg.lost }
  | .mesh d => { s with img := { s.img with routes := slDel s.img.routes d } }
  | .bridge _ | .sram _ | .fabric _ | .ring _ | .fieldPorts _ => s

/-- The logical die of a physical die. -/
def State.ldieOf (s : State) (d : Nat) : Option Nat := (s.flt.dieMap.zipIdx.find? (fun p => p.1 == d)).map (fun p => p.2)

/-- The quadrant that takes the records of a unit: 0 to 16 a field die, 17 + q a hub die (R495). -/
def State.traceQuad (s : State) (unit : Nat) : Nat :=
  if 17 ≤ unit then (unit - 17) % 4
  else match s.ldieOf unit with
    | some ld => ld / 4
    | none => unit / 4 % 4

/-- The zones on the other side of a domain that goes off drop their entries (R533). -/
def State.domFlush (s : State) (d : Dom) : State :=
  match d with
  | .cluster c => s.dieFlush c.die
  | .mesh d | .sram d => s.dieFlush d
  | .bridge d | .dieCtl d => s.hubFlush (s.traceQuad d)
  | .hbm h => s.hubFlush (h / 8)
  | .link l => s.hubFlush (l / 16)
  | .fabric q | .ring q | .fieldPorts q | .hubCtl q => s.hubFlush ((q + 1) % 4)
  | .pcie | .stewards | .judge => s.hubFlush 0

/-- What a domain that was off loads when it is switched on (R51, R210). -/
def State.domLoad (s : State) (d : Dom) : State :=
  match d with
  | .cluster c => (s.remapLoad c).perfStart (3 * 2 ^ 24 + unitOf c.die c.cl 0 0)
  | .link l => s.perfStart (6 * 2 ^ 24 + l)
  | _ => s

/-- Switch a domain (R432): off loses its contents; powered again it loads what the remap table holds for it. -/
def State.domSet (s : State) (d : Dom) (dst : DomState) : State :=
  let off := s.dom d == .off
  let s := if dst == .off && !off then (s.domLost d).domFlush d else s
  let s := { s with doms := slSet s.doms (domNo d) dst }
  if dst != .off && off then s.domLoad d else s

end Sys2Proof.Machine
end

