-- ==== Sys2Proof/Machine/Gf.lean ====
section
/-!
DEFINITION. Reed-Solomon codes: arithmetic of GF(2^w), check symbols, syndromes; the code of a 64 B access of HBM (R287).
-/

namespace Sys2Proof.Machine

/-- A field GF(2^w) by its polynomial, leading term included; x stands for alpha. -/
structure Gf where
  w : Nat
  poly : Nat
  deriving DecidableEq, Repr

/-- a * x: the bit shifted out takes the polynomial away. -/
def Gf.dbl (f : Gf) (a : Nat) : Nat := a * 2 ^^^ a / 2 ^ (f.w - 1) % 2 * f.poly

/-- a * x^j. -/
def Gf.dblN (f : Gf) (a : Nat) : Nat → Nat
  | 0 => a
  | j + 1 => f.dbl (f.dblN a j)

/-- The sum of a * x^i over the low n bits i of b. -/
def Gf.mulN (f : Gf) (a b : Nat) : Nat → Nat
  | 0 => 0
  | n + 1 => b % 2 * a ^^^ f.mulN (f.dbl a) (b / 2) n

/-- a * b. -/
def Gf.mul (f : Gf) (a b : Nat) : Nat := f.mulN a b f.w

/-- alpha^k. -/
def Gf.pow (f : Gf) : Nat → Nat
  | 0 => 1
  | k + 1 => f.dbl (f.pow k)

/-- The coefficients of (y - alpha^0) … (y - alpha^(t - 1)), highest first. -/
def Gf.gen (f : Gf) : Nat → List Nat
  | 0 => [1]
  | t + 1 => (List.zip (f.gen t ++ [0]) (0 :: f.gen t)).map (fun p => p.1 ^^^ f.mul p.2 (f.pow t))

/-- The t check symbols of a message, so that the message with them behind it is a multiple of the generator. -/
def Gf.check (f : Gf) (t : Nat) (msg : List Nat) : List Nat :=
  let g := (f.gen t).drop 1
  msg.foldl (fun r m =>
    let k := m ^^^ r.headD 0
    (List.zip (r.drop 1 ++ [0]) g).map (fun p => p.1 ^^^ f.mul k p.2)) (List.replicate t 0)

/-- The t syndromes of a received word: its polynomial, highest coefficient first, at alpha^0 to alpha^(t - 1). -/
def Gf.syn (f : Gf) (t : Nat) (l : List Nat) : List Nat :=
  (List.range t).map (fun j => l.foldl (fun r c => f.dblN r j ^^^ c) 0)

/-! ### The code of HBM (R287) -/

/-- The field of the HBM code. -/
def gf16 : Gf := { w := 16, poly := 0x1100B }

/-- The 36 symbols that the check symbols cover: 32 of data, the tag 0, three of the address. -/
def hbmSyms (a : Nat) (bs : List Byte) : List Nat :=
  (List.range 32).map (fun i => leNat ((bs.drop (2 * i)).take 2)) ++ [0, bits a 21 6, bits a 37 22, bits a 40 38]

/-- The 64 metadata bits beside an access at address a: tag and check symbols (R286, R287). -/
def hbmMeta (a : Nat) (bs : List Byte) : List Byte := (0 :: gf16.check 3 (hbmSyms a bs)).flatMap (toBytes 2)

/-- What the controller finds in a read (R287). -/
inductive HbmRead where
  | clean | corrected | bad
  deriving DecidableEq, Repr

/-- The symbols that a read of the access at address a finds when it holds the bytes bs and some symbols of its codeword are changed:
symbols 0 to 31 data, 32 the tag, 33 to 35 the address as the read meets it, 36 to 38 the checks; symbol i has degree 38 - i
(log 104). -/
def hbmGot (a : Nat) (bs : List Byte) (flips : List (Fin 39 × BitVec 16)) : List Nat :=
  (hbmSyms a bs ++ gf16.check 3 (hbmSyms a bs)).zipIdx.map (fun p =>
    flips.foldl (fun c f => if f.1.val == p.2 then c ^^^ f.2.toNat else c) p.1)

/-- The symbol that a single error changes, and by what, where the syndromes are those of one. -/
def hbmError (got : List Nat) : Option (Nat × Nat) :=
  match gf16.syn 3 got with
  | [s0, s1, s2] =>
    ((List.range 39).find? (fun i =>
      let x := gf16.pow (38 - i)
      s0 != 0 && s1 == gf16.mul s0 x && s2 == gf16.mul s1 x)).map (fun i => (i, s0))
  | _ => none

/-- What a read of an access with some symbols changed shows (R287). -/
def hbmDecode (a : Nat) (bs : List Byte) (flips : List (Fin 39 × BitVec 16)) : HbmRead :=
  let got := hbmGot a bs flips
  if (gf16.syn 3 got).all (· == 0) then .clean
  else match hbmError got with
    | some p => if 33 ≤ p.1 && p.1 ≤ 35 then .bad else .corrected
    | none => .bad

/-- The 64 bytes that a clean or corrected read delivers (R287). -/
def hbmData (a : Nat) (bs : List Byte) (flips : List (Fin 39 × BitVec 16)) : List Byte :=
  let got := hbmGot a bs flips
  let fixed : List Nat := match hbmError got with
    | some p => got.zipIdx.map (fun (q : Nat × Nat) => if q.2 == p.1 then q.1 ^^^ p.2 else q.1)
    | none => got
  (fixed.take 32).flatMap (toBytes 2)

end Sys2Proof.Machine
end

