-- ==== Sys2Proof/Machine/Frame.lean ====
section
/-!
DEFINITION. Frames of a Relay link (R295): the code RS(134,128) over the two halves of a flit, its decoder, and the lanes that the
bytes of a frame travel on.
-/

namespace Sys2Proof.Machine

/-- The field of the link code (R295). -/
def gf8 : Gf := { w := 8, poly := 0x11D }

/-- The bytes of a list at even places (`odd` false) or at odd ones. -/
def half {α : Type} (odd : Bool) : List α → List α
  | [] => []
  | a :: l => if odd then half false l else a :: half true l

/-- Two lists taken in turn. -/
def riffle {α : Type} : List α → List α → List α
  | a :: l, b :: m => a :: b :: riffle l m
  | l, [] => l
  | [], m => m

/-- The 12 parity bytes of a flit: the check bytes of its two codewords, in turn as the bytes of the flit are (log 105). -/
def parity (bs : List Byte) : List Byte :=
  let c := fun (odd : Bool) => gf8.check 6 ((half odd bs).map (fun b => b.toNat))
  (riffle (c false) (c true)).map (BitVec.ofNat 8)

/-- A frame: a flit and its parity. -/
def mkFrame (bs : List Byte) : List Byte := bs ++ parity bs

/-! ### Correction -/

/-- a to the n-th power. -/
def Gf.powN (f : Gf) (a : Nat) : Nat → Nat
  | 0 => 1
  | n + 1 => f.mul (f.powN a n) a

/-- The inverse of a nonzero element. -/
def Gf.inv (f : Gf) (a : Nat) : Nat :=
  (List.range (f.w - 1)).foldl (fun r _ => f.mul (f.mul r r) (f.mul a a)) 1

/-- The determinant of a square matrix of 1 to 3 rows, in characteristic 2. -/
def Gf.det (f : Gf) : List (List Nat) → Nat
  | [[a]] => a
  | [[a, b], [c, d]] => f.mul a d ^^^ f.mul b c
  | [[a, b, c], [d, e, g], [h, i, j]] =>
    f.mul a (f.mul e j ^^^ f.mul g i) ^^^ f.mul b (f.mul d j ^^^ f.mul g h) ^^^ f.mul c (f.mul d i ^^^ f.mul e h)
  | _ => 0

/-- The solution of a regular system of 1 to 3 equations (Cramer): the matrix by rows and the right side. -/
def Gf.solve (f : Gf) (m : List (List Nat)) (y : List Nat) : List Nat :=
  let d := f.inv (f.det m)
  (List.range y.length).map (fun k => f.mul d (f.det ((List.zip m y).map (fun p => p.1.set k p.2))))

/-- Locate v errors from the syndromes of a word of n symbols: the places, and the patterns that differ; none when no v errors give
these syndromes. The error locator is the v-th degree polynomial whose roots are the errors' places. -/
def Gf.locate (f : Gf) (n v : Nat) (syn : List Nat) : Option (List (Nat × Nat)) :=
  let m := (List.range v).map (fun i => (List.range v).map (fun j => syn.getD (i + j) 0))
  if f.det m == 0 then none
  else
    let lam := f.solve m ((List.range v).map (fun i => syn.getD (v + i) 0))
    let at' := (List.range n).filter (fun i =>
      let x := f.pow (n - 1 - i)
      (lam.zipIdx.foldl (fun r c => r ^^^ f.mul c.1 (f.powN x c.2)) (f.powN x v)) == 0)
    if at'.length != v then none
    else
      let xs := at'.map (fun i => f.pow (n - 1 - i))
      let es := f.solve ((List.range v).map (fun j => xs.map (fun x => f.powN x j))) (syn.take v)
      some (List.zip at' es)

/-- Correct a codeword of RS(134,128): the word and the places of the errors corrected, at most 3; none when no such pattern
explains the syndromes (R295). -/
def rsFix (w : List Nat) : Option (List Nat × List Nat) :=
  let syn := gf8.syn 6 w
  if syn.all (· == 0) then some (w, [])
  else
    ([1, 2, 3].findSome? (fun v => match gf8.locate w.length v syn with
      | none => none
      | some es =>
        let w' := es.foldl (fun w e => w.set e.1 (w.getD e.1 0 ^^^ e.2)) w
        if (gf8.syn 6 w').all (· == 0) then some (w', es.map (fun e => e.1)) else none))

/-- Decode a received frame: its flit, whether a codeword could not be corrected, and the places in the frame of the byte errors
that the decoder located (R295, R299). -/
def frameDecode (b : List Byte) : List Byte × Bool × List Nat :=
  let fix := fun (odd : Bool) =>
    let w := (half odd b).map (fun x => x.toNat)
    match rsFix w with
    | some r => (r.1, false, r.2.map (fun i => 2 * i + b2n odd))
    | none => (w, true, [])
  let e := fix false
  let o := fix true
  (((riffle e.1 o.1).take 256).map (BitVec.ofNat 8), e.2.1 || o.2.1, e.2.2 ++ o.2.2)

/-- The lane that byte j of a frame travels on: the active physical lanes in ascending order are the logical ones (R295). -/
def frameLane (act : List Nat) (j : Nat) : Nat := act.getD (j % 4) 0

end Sys2Proof.Machine
end

