-- ==== Sys2Proof/Machine/Flit.lean ====
section
/-!
DEFINITION. Flits and packets (R297, R298, R304), and what a link does to send them (R299, R301).
-/

namespace Sys2Proof.Machine

/-! ### Link state -/

/-- A link's state. -/
def State.lnk (s : State) (l : Nat) : LinkSt := slGet {} s.links l

/-- The state with a link's state replaced. -/
def State.setLnk (s : State) (l : Nat) (x : LinkSt) : State := { s with links := slSet s.links l x }

/-- Is a link in state UP (R318) with its domain on. -/
def State.linkUp (s : State) (l : Nat) : Bool := s.get F.RLY_STATE_state l == 3

/-- The links in state UP, ascending. -/
def State.upLinks (s : State) : List Nat := (List.range 64).filter s.linkUp

/-- Post a code to RLY_STATUS of a link (R327). -/
def State.rlyPost (s : State) (l code : Nat) : State := s.post R.RLY_STATUS l [] code (1856 + 4 * l)

/-- This module's bib (R548). -/
def State.bib (s : State) : Nat := s.get F.HUB_ID_BIB_bib 0

/-! ### Headers and control flits (R297, R298) -/

/-- Pad with zero bytes, or cut, to n bytes. -/
def padTo (n : Nat) (bs : List Byte) : List Byte := (bs ++ List.replicate (n - bs.length) 0).take n

/-- A flit: header, 244 payload bytes, CRC-32C (R297). -/
def mkFlit (hdr : Nat) (payload : List Byte) : List Byte :=
  let b := toBytes 8 hdr ++ padTo 244 payload
  b ++ toBytes 4 (crc32c b)

/-- The flit of a received frame, after correction (R295). -/
def flitBytes (f : Flit) : List Byte := (frameDecode f.frame).1

/-- Is a flit good: its codewords were corrected, its CRC holds, no reserved bit or kind is set (R297, R299). -/
def flitGood (f : Flit) : Bool :=
  let d := frameDecode f.frame
  let h := leNat (d.1.take 8)
  !d.2.1 && crc32c (d.1.take 252) == leNat (d.1.drop 252)
    && bits h 63 40 == 0 && bits h 7 6 == 0 && decide (bits h 3 0 ≤ 9)

/-- Send one flit of a link as a frame on its active lanes: the header carries the acknowledgement and up to 63 owed batons of one
channel (R295, R297). -/
def State.sendFlit (s : State) (l kind vc fseq : Nat) (payload : List Byte) : State :=
  let x := s.lnk l
  let bvc := ((List.range 4).find? (fun v => x.owed.getD v 0 != 0)).getD 0
  let n := min 63 (x.owed.getD bvc 0)
  let hdr := n * 2 ^ 34 + bvc * 2 ^ 32 + x.rxSeq % 4096 * 2 ^ 20 + fseq % 4096 * 2 ^ 8 + vc * 16 + kind
  (s.setLnk l { x with owed := x.owed.set bvc (x.owed.getD bvc 0 - n), txFrame := (x.txFrame + 1) % 2 ^ 32, ackDue := false
    }).emit (.flit l x.tx.act (mkFrame (mkFlit hdr payload)))

/-- Send a control flit n times in consecutive frames (R298). -/
def State.sendCtl (s : State) (l kind : Nat) (payload : List Byte) : Nat → State
  | 0 => s
  | n + 1 => (s.sendFlit l kind 0 0 payload).sendCtl l kind payload n

/-! ### Swap requests (R314) -/

/-- Payload of a swap or swap-ack flit (R298). -/
def swapBytes (w : Swap) : List Byte := toBytes 1 w.out ++ toBytes 1 w.inn ++ toBytes 4 w.frame

/-- Request a planned swap of transmit lane `out` for the spare, 64 frames ahead (R314). -/
def State.swapAsk (s : State) (l out tries : Nat) : State :=
  let x := s.lnk l
  let w : Swap := { out := out, inn := s.get F.RLY_STATE_tx_spare l, frame := (x.txFrame + 64) % 2 ^ 32, tries := tries }
  (s.setLnk l { x with tx := { x.tx with swap := some w } }).sendCtl l 8 (swapBytes w) 3

/-! ### Waits (R491, R493) -/

/-- The word that names a waiter in a record (R493). -/
def waiterCode : Waiter → Nat
  | .cluster c k => (k % 16) * 2 ^ 28 + c.die * 2 ^ 23 + c.cl * 2 ^ 16
  | .unit n k => (k % 16) * 2 ^ 28 + n % 2 ^ 28

/-- The waiter code of a cluster's unit: kind 0 sequencer, 1 copy engine, 2 Scout. -/
def cluWaiter (c : Clu) (kind : Nat) : Nat := waiterCode (.cluster c kind)

/-- The waiter code of a virtual channel of a link's sender (R493). -/
def linkWaiter (l vc : Nat) : Nat := 4 * 2 ^ 28 + (17 + l / 16) * 2 ^ 23 + l % 64 * 2 ^ 16 + vc

/-- Open a wait of a waiter; one that is open already goes on. -/
def State.waitOpen (s : State) (w what obj bib : Nat) : State :=
  match slFind s.waits w with
  | some _ => s
  | none =>
    { s with waits := slSet s.waits w { tStart := s.ns, what := what, obj := obj, bib := bib, lap := s.lap.lam % 65536,
                                        frz := s.frozen, blk := s.asleep } }

/-- A flit waits for a baton, which the peer of the link produces (R303, R494). -/
def State.batonWait (s : State) (l vc : Nat) : State :=
  s.waitOpen (linkWaiter l vc) 9 (l * 256 + vc) (s.get F.RLY_PEER_bib l)

/-! ### Head and body flits (R299, R301) -/

/-- Return n batons of a channel to the peer of a link: baton flits carry them (R301). -/
def State.batonBack (s : State) (l vc n : Nat) : State :=
  if n == 0 then s
  else
    let x := s.lnk l
    let s := s.setLnk l { x with owed := x.owed.set vc (x.owed.getD vc 0 + n) }
    if s.linkUp l then s.sendCtl l 4 [] ((n + 62) / 63) else s

/-- The next flit of a link's queue that may go: its channel holds a baton and is not within a packet of another source (R301,
R305). -/
def nextFlit (x : LinkSt) : Option TxFlit :=
  x.queue.find? (fun f => x.held.getD f.vc 0 != 0 && (slFind x.busy f.vc).all (· == f.src))

/-- Send the flits of a link's queue that may go while the replay buffer of 1,024 has room; channels without a baton wait
(R299, R301). A forwarded flit leaves the buffer of the link it came by, which returns its baton. -/
def State.pump (s : State) (l : Nat) : Nat → State
  | 0 => s
  | k + 1 =>
    let x := s.lnk l
    if !s.linkUp l || !(decide (x.replay.length < 1024)) then s
    else match nextFlit x with
      | none =>
        let dry := ((x.queue.filter (fun f => x.held.getD f.vc 0 == 0)).map (fun f => f.vc)).eraseDups
        if dry.isEmpty then s
        else dry.foldl (fun s vc => s.batonWait l vc) s
      | some f =>
        let x' := { x with
          queue := x.queue.erase f, held := x.held.set f.vc (x.held.getD f.vc 0 - 1),
          busy := if f.tail then slDel x.busy f.vc else slSet x.busy f.vc f.src,
          replay := x.replay ++ [(x.txSeq, f)], txSeq := (x.txSeq + 1) % 4096 }
        let s := (s.setLnk l x').sendFlit l f.kind f.vc x.txSeq f.payload
        let s := (s.perfLink l 0 1).perfLink l 6 244
        let s := match f.src with
          | some a => (s.perfLink l 5 1).batonBack a f.vc 1
          | none => s
        s.pump l k

/-- Send what can be sent on a link. -/
def State.pumpAll (s : State) (l : Nat) : State := s.pump l ((s.lnk l).queue.length + 1)

/-- Queue flits on a link and send what can be sent. -/
def State.queueFlits (s : State) (l : Nat) (fs : List TxFlit) : State :=
  let x := s.lnk l
  (s.setLnk l { x with queue := x.queue ++ fs }).pumpAll l

/-! ### Packets (R304) -/

/-- A packet: the fields of its head and its payload as it travels. -/
structure Pkt where
  kind : Nat
  group : Nat
  flags : Nat := 0
  hops : Nat
  epoch : Nat
  srcBib : Nat
  window : Nat := 0
  srcRank : Nat
  dstRank : Nat
  route : Nat
  tensor : Nat := 0
  dstOff : Nat := 0
  len : Nat
  rowBase : Nat := 0
  colBase : Nat := 0
  colsM1 : Nat := 0
  elem0 : Nat := 0
  data : List Byte
  deriving DecidableEq, Repr

/-- The 48 bytes of a packet head (R304). -/
def Pkt.head (p : Pkt) : List Byte :=
  toBytes 1 p.kind ++ toBytes 1 p.group ++ toBytes 1 p.flags ++ toBytes 1 p.hops ++ toBytes 4 p.epoch
    ++ toBytes 3 p.srcBib ++ toBytes 1 p.window ++ toBytes 2 p.srcRank ++ toBytes 2 p.dstRank ++ toBytes 6 p.route
    ++ toBytes 2 p.tensor ++ toBytes 5 p.dstOff ++ toBytes 2 p.len ++ [0] ++ toBytes 3 p.rowBase ++ toBytes 3 p.colBase
    ++ toBytes 3 p.colsM1 ++ toBytes 4 p.elem0 ++ toBytes 3 0

/-- Read a packet head and its payload. -/
def Pkt.ofBytes (b : List Byte) : Pkt :=
  let f := fun (lo n : Nat) => leNat ((b.drop lo).take n)
  { kind := f 0 1, group := f 1 1, flags := f 2 1, hops := f 3 1, epoch := f 4 4, srcBib := f 8 3, window := f 11 1,
    srcRank := f 12 2, dstRank := f 14 2, route := f 16 6, tensor := f 22 2, dstOff := f 24 5, len := f 29 2,
    rowBase := f 32 3, colBase := f 35 3, colsM1 := f 38 3, elem0 := f 41 4, data := b.drop 48 }

/-- The route length of a packet. -/
def Pkt.rlen (p : Pkt) : Nat := bits p.hops 2 0

/-- The next hop to take. -/
def Pkt.ptr (p : Pkt) : Nat := bits p.hops 5 3

/-- Hop i of a route: the link number to leave by. -/
def hopOf (route i : Nat) : Nat := bits route (6 * i + 5) (6 * i)

/-- Reserved bits of a packet head. -/
def Pkt.reservedSet (b : List Byte) : Bool :=
  let f := fun (lo n : Nat) => leNat ((b.drop lo).take n)
  bits (f 3 1) 7 6 != 0 || bits (f 16 6) 47 42 != 0 || f 31 1 != 0 || bits (f 35 3) 23 20 != 0
    || bits (f 38 3) 23 20 != 0 || f 45 3 != 0

/-- Is a packet checked against the epoch of its group: all but membership packets (R371) and those of snapshots that name no
group (R393). -/
def Pkt.checked (p : Pkt) : Bool :=
  !(decide (0x10 ≤ p.kind ∧ p.kind ≤ 0x14)) && !(decide (0x18 ≤ p.kind ∧ p.kind ≤ 0x1D) && p.kind != 0x1B)

/-- Cut bytes into flit payloads of 244 bytes. -/
def chunks (n : Nat) : Nat → List Byte → List (List Byte)
  | 0, _ => []
  | k + 1, bs => if bs.isEmpty then [] else padTo n (bs.take n) :: chunks n k (bs.drop n)

/-- The flits of a packet on virtual channel vc: a head and up to 63 body flits (R304). -/
def Pkt.flits (p : Pkt) (vc : Nat) (owner : Option (Nat × Nat)) : List TxFlit :=
  let free := decide (0x18 ≤ p.kind ∧ p.kind ≤ 0x1D) && p.kind != 0x1B
  let cs := chunks 244 64 (p.head ++ p.data)
  cs.zipIdx.map (fun c =>
    { vc := vc, kind := if c.2 == 0 then 1 else 2, payload := c.1, owner := owner, tail := c.2 + 1 == cs.length,
      group := if free then none else some p.group })

/-- Send a packet by hop 0 of its route; the sender writes `ptr` = 1 (R305). A packet whose first hop is not UP, or
without a route, is not sent. -/
def State.sendPkt (s : State) (vc : Nat) (p : Pkt) (owner : Option (Nat × Nat)) : State :=
  let l := hopOf p.route 0
  if p.rlen == 0 || !s.linkUp l then s
  else (s.queueFlits l ({ p with hops := p.rlen + 8 }.flits vc owner)).perfLink l 7 p.len

end Sys2Proof.Machine
end

