-- ==== Sys2Proof/Machine/Waits.lean ====
section
/-!
DEFINITION. Waits and the records the trace units write of them (R486 to R503), and how a cluster gives up its lap (R262).
-/

namespace Sys2Proof.Machine

/-! ### Status, claims and quadrants -/

/-- Post TRC_STATUS (R519). -/
def State.trcPost (s : State) (code unit : Nat) : State := s.post R.TRC_STATUS 0 [(F.TRC_STATUS_unit, unit)] code 2368

/-- Post IMG_STATUS (R459). -/
def State.imgPost (s : State) (code index : Nat) : State := s.post R.IMG_STATUS 0 [(F.IMG_STATUS_index, index)] code 1361

/-- Do two claims touch the same resource (R450). -/
def Claim.touches (a b : Claim) : Bool :=
  a.res == b.res && (if a.res == 3 then decide (a.base < b.base + b.len ∧ b.base < a.base + a.len) else a.id == b.id)

/-- Does a granted claim of a class cover a resource: res and id, or for a region (res 3) the bytes from lo (R450). -/
def State.claimHeld (s : State) (res cls id lo len : Nat) : Bool :=
  s.claims.any (fun k => k.granted && k.res == res && k.cls == cls &&
    (if res == 3 then decide (k.base ≤ lo ∧ lo + len ≤ k.base + k.len) else k.id == id))

/-! ### Records and trace units (R492, R495 to R500) -/

/-- A trace unit. -/
def State.tru (s : State) (q : Nat) : TraceUnit := slGet {} s.traces q

/-- The state with a trace unit replaced. -/
def State.setTru (s : State) (q : Nat) (x : TraceUnit) : State := { s with traces := slSet s.traces q x }

/-- The 32 bytes of a record (R492). -/
def traceRec (tS tE waiter what flags lap bib obj : Nat) : List Byte :=
  toBytes 8 tS ++ toBytes 8 tE ++ toBytes 4 waiter ++ toBytes 1 what ++ toBytes 1 flags ++ toBytes 2 lap
    ++ toBytes 3 bib ++ [0] ++ toBytes 4 obj

/-- First byte of quadrant q's region in HBM. -/
def State.trcBase (s : State) (q : Nat) : Nat :=
  s.get F.TRC_Q_BASE_HI_base_hi q * 2 ^ 32 + s.get F.TRC_Q_BASE_LO_base q * 2 ^ 20

/-- Record slots of quadrant q's region. -/
def State.trcSlots (s : State) (q : Nat) : Nat := (s.get F.TRC_Q_SIZE_size_mib q * 2 ^ 20 - 4096) / 32

/-- Slots before the post space: the pre ring under WINDOW (R499). -/
def State.trcPre (s : State) (q : Nat) : Nat := s.trcSlots q - s.get F.TRC_Q_POST_post_mib q * 2 ^ 15

/-- May quadrant q write n bytes at offset off of its region: a class 4 claim that covers them is granted, or was preempted by claims
that do not touch them (R452, R497, R502). -/
def State.trcMay (s : State) (q off n : Nat) : Bool :=
  let lo := s.trcBase q + off
  s.claims.any (fun k => k.res == 3 && k.cls == 4 && decide (k.base ≤ lo ∧ lo + n ≤ k.base + k.len)
    && (k.granted || (k.lost && s.claims.all (fun h => !(h.granted && h.touches { k with base := lo, len := n })))))

/-- The quadrant header (R498). -/
def State.trcHeader (s : State) (q : Nat) : List Byte :=
  let x := s.tru q
  let st := b2n (s.flag F.TRC_Q_MODE_wrapped q) + 2 * b2n (s.flag F.TRC_Q_MODE_triggered q)
    + 4 * b2n (s.flag F.TRC_Q_MODE_stopped q)
  toBytes 4 0x43525454 ++ toBytes 3 s.bib ++ toBytes 1 q ++ toBytes 1 (s.get F.TRC_Q_MODE_mode q) ++ toBytes 1 st
    ++ toBytes 6 0 ++ toBytes 8 x.tEnable ++ toBytes 8 x.tTrigger ++ toBytes 4 (s.get F.TRC_Q_NEXT_next q)
    ++ toBytes 4 x.preOldest ++ toBytes 4 (s.get F.TRC_Q_LOST_lost q) ++ toBytes 20 0
    ++ (List.range 16).flatMap (fun i =>
      let l := 16 * q + i
      toBytes 1 l ++ toBytes 1 (s.get F.RLY_PEER_link l) ++ toBytes 3 (s.get F.RLY_PEER_bib l) ++ toBytes 3 0
        ++ toBytes 8 (s.get64 R.RLY_OFFSET_LO R.RLY_OFFSET_HI l) ++ toBytes 2 (s.get F.RLY_RTT_rtt_ns l) ++ toBytes 6 0
        ++ toBytes 8 (s.lnk l).alignNs)

/-- Rewrite the header of an enabled quadrant. -/
def State.trcHead (s : State) (q : Nat) : State :=
  if s.flag F.TRC_Q_MODE_en q && s.trcMay q 0 4096 then s.stBytes (s.trcBase q) (s.trcHeader q) else s

/-- Count a record of quadrant q as lost; a loss record is to follow (R495, R499, R502). -/
def State.trcOwe (s : State) (q tEnd : Nat) : State :=
  let x := s.tru q
  (s.satUp F.TRC_Q_LOST_lost q).setTru q { x with
    lostN := x.lostN + 1, lostMin := if x.lostN == 0 then tEnd else min x.lostMin tEnd, lostMax := max x.lostMax tEnd,
    lostLap := if x.lostN == 0 then s.lap.lam % 65536 else x.lostLap }

/-- A record is dropped, which the first of a run reports (R495, R502). -/
def State.trcLose (s : State) (q tEnd : Nat) : State :=
  (if (s.tru q).lostN == 0 then s.trcPost 4 (256 * q) else s).trcOwe q tEnd

/-- The loss record of quadrant q's dropped records (R495). -/
def State.lossRec (s : State) (q : Nat) : List Byte :=
  let x := s.tru q
  traceRec x.lostMin x.lostMax 0 0x0F 0 x.lostLap s.bib x.lostN

/-- Write a record into slot n of quadrant q. -/
def State.trcPut (s : State) (q n : Nat) (b : List Byte) : State := s.stBytes (s.trcBase q + 4096 + 32 * n) b

/-- The last slot receives a loss record and the trace stops (R499). -/
def State.trcStop (s : State) (q tEnd : Nat) : State :=
  let s := s.trcOwe q tEnd
  let last := s.trcSlots q - 1
  let s := if s.trcMay q (4096 + 32 * last) 32 then s.trcPut q last (s.lossRec q) else s
  let s := s.setTru q { s.tru q with lostN := 0, lostMax := 0 }
  let s := s.put F.TRC_Q_MODE_stopped q 1
  s.trcPost (if s.get F.TRC_Q_MODE_mode q == 1 then 2 else 3) (256 * q)

/-- Write one record by the mode of quadrant q (R499, R500). -/
def State.trcWrite1 (s : State) (q : Nat) (r : TraceRec) : State :=
  let x := s.tru q
  let next := s.get F.TRC_Q_NEXT_next q
  let mode := s.get F.TRC_Q_MODE_mode q
  let slots := s.trcSlots q
  let pre := s.trcPre q
  if s.flag F.TRC_Q_MODE_stopped q then s.satUp F.TRC_Q_LOST_lost q
  else if mode == 2 && s.flag F.TRC_Q_MODE_triggered q && decide (r.tEnd < x.tTrigger) then
    if s.trcMay q (4096 + 32 * x.preNext) 32 then
      let n := (x.preNext + 1) % pre
      (s.trcPut q x.preNext r.bytes).setTru q
        { x with preNext := n, count := x.count + 1, preOldest := if pre ≤ x.count then n else 0 }
    else s.trcLose q r.tEnd
  else if (mode == 1 || (mode == 2 && s.flag F.TRC_Q_MODE_triggered q)) && decide (slots ≤ next + 1) then
    s.trcStop q r.tEnd
  else if !s.trcMay q (4096 + 32 * next) 32 then s.trcLose q r.tEnd
  else
    let s := s.trcPut q next r.bytes
    let ring := if mode == 0 then some slots else if mode == 2 && !s.flag F.TRC_Q_MODE_triggered q then some pre else none
    let s := if mode == 0 && decide (slots ≤ x.count) then s.put F.TRC_Q_MODE_wrapped q 1 else s
    let n := match ring with
      | some m => (next + 1) % m
      | none => next + 1
    (s.put F.TRC_Q_NEXT_next q n).setTru q { x with count := x.count + 1 }

/-- Write a queued record, a loss record first when records were dropped before it (R495, R502). -/
def State.trcWrite (s : State) (q : Nat) (r : TraceRec) : State :=
  let x := s.tru q
  let next := s.get F.TRC_Q_NEXT_next q
  let s := if x.lostN != 0 && !s.flag F.TRC_Q_MODE_stopped q && s.trcMay q (4096 + 32 * next) 32 then
      (s.setTru q { x with lostN := 0, lostMax := 0 }).trcWrite1 q { tEnd := x.lostMax, bytes := s.lossRec q }
    else s
  s.trcWrite1 q r

/-- An enabled quadrant writes every queued record (R495: within 2 us of its end); what was dropped at a full queue follows
them as a loss record. Its header shows each change (R498). -/
def State.trcDrain (s : State) (q : Nat) : State :=
  if s.live && s.flag F.TRC_Q_MODE_en q then
    let x := s.tru q
    let rs := x.queue ++ (if x.lostFull then [{ tEnd := x.lostMax, bytes := s.lossRec q }] else [])
    let s := s.setTru q (if x.lostFull then { x with queue := [], lostN := 0, lostMax := 0, lostFull := false }
      else { x with queue := [] })
    (rs.foldl (fun s r => s.trcWrite q r) s).trcHead q
  else s

/-- Queue a record with quadrant q, or drop it when 4,096 are queued (R495); nothing while the quadrant is disabled. -/
def State.trcQueue (s : State) (q : Nat) (r : TraceRec) : State :=
  if !s.flag F.TRC_Q_MODE_en q then s
  else if 4096 ≤ (s.tru q).queue.length then
    let s := s.trcLose q r.tEnd
    s.setTru q { s.tru q with lostFull := true }
  else s.setTru q { s.tru q with queue := (s.tru q).queue ++ [r] }

/-! ### Waits (R491) -/

/-- The cluster of a waiter code of kinds 0 to 2. -/
def waiterClu (w : Nat) : Option Clu :=
  if w / 2 ^ 28 % 16 ≤ 2 then some (cluNo (bits w 27 23) (bits w 22 16)) else none

/-- The record of a wait at time tE. -/
def Wait.toRec (x : Wait) (w tE : Nat) (timeout late : Bool) : TraceRec :=
  { tEnd := tE, bytes := traceRec x.tStart tE w x.what
      (b2n timeout + 2 * b2n x.frz + 4 * b2n x.blk + 8 * b2n late) x.lap x.bib x.obj }

/-- Time that a wait has stood still since the functional clocks stopped last. -/
def State.stoodSince (s : State) (x : Wait) : Nat := s.ns - max s.frz.haltAt x.tStart

/-- Time that a wait has stood still, with the present freeze or Blocks (R487, R496). -/
def State.stoodStill (s : State) (x : Wait) : Nat := x.stopped + (if s.live then 0 else s.stoodSince x)

/-- The producer a wait's record names: of an inflow, the sender of the last packet that has arrived in the window (R494). -/
def State.waitBib (s : State) (x : Wait) : Nat := if x.what == 1 then slGet x.bib s.landBib (x.obj / 2 ^ 24) else x.bib

/-- Does quadrant q take another record: it is enabled, its trace has not stopped and its queue has room (R495, R499). -/
def State.trcTakes (s : State) (q : Nat) : Bool :=
  s.flag F.TRC_Q_MODE_en q && !s.flag F.TRC_Q_MODE_stopped q && decide ((s.tru q).queue.length < 4096)

/-- End an open wait: it is counted, in ns without the time the clocks stood, and recorded unless it was shorter than `min_ns` (R487,
R489, R491). `late`: it ends without the arrival it waited for. -/
def State.waitClose (s : State) (w : Nat) (late : Bool) : State :=
  match slFind s.waits w with
  | none => s
  | some x =>
    let s := { s with waits := slDel s.waits w }
    let n := s.ns - x.tStart
    let q := s.traceQuad (bits w 27 23)
    let min := match waiterClu w with
      | some c => s.get F.CLU_TRC_CFG_min_ns (cluU c)
      | none => 200
    let short := decide (n < min)
    let s := match waiterClu w with
      | some c =>
        let s := s.perfClu c 5 (n - s.stoodStill x)
        if short then s.perfClu c 7 1 else if s.trcTakes q then s.perfClu c 6 1 else s
      | none => s
    if short then s else s.trcQueue q ({ x with bib := s.waitBib x }.toRec w s.ns false late)

/-- End the open wait of a waiter, if it is for `what`: what it waited for has come. -/
def State.waitDone (s : State) (w what : Nat) : State :=
  match slFind s.waits w with
  | some x => if x.what == what then s.waitClose w false else s
  | none => s

/-- The open waits of a waiter: its own, and for a sequencer those of its cores on the scale of a tensor (R140). -/
def State.waitsOf (s : State) (w : Nat) : List Nat := (s.waits.filter (fun p => p.1 % 2 ^ 32 == w)).map (fun p => p.1)

/-- End every open wait of a waiter without arrival. -/
def State.waitsDrop (s : State) (w : Nat) : State := (s.waitsOf w).foldl (fun s k => s.waitClose k true) s

/-- Where the wait of a core on the scale of a tensor is kept: its waiter is the cluster's sequencer, and each core and tensor
has a wait of its own (R140, R493). -/
def scaleWait (c : CoreId) (t : Nat) : Nat := cluWaiter c.clu 0 + 2 ^ 32 * (1 + c.core * 2 ^ 16 + t)

/-- The scale of a tensor has come: every wait on it ends (R140, R491). -/
def State.scaleCome (s : State) (t : Nat) : State :=
  ((s.waits.filter (fun p => p.2.what == 3 && p.2.obj == t)).map (fun p => p.1)).foldl (fun s k => s.waitClose k false) s

/-- End a cluster's part of the lap (R262): it runs no further item, its copy queue is empty (R285), its waits end
without arrival, it sets STOPPED in the member's vote and waits at the gate (R248). -/
def State.abandon (s : State) (c : Clu) : State :=
  let s := s.setClu c { s.clu c with
    abandoned := true, late := false, atGate := true, heldItem := none, kernel := none, stopNext := false,
    copies := [], copyIdx := 0, copyStopped := false, copyRetry := false, copyOld := [] }
  let s := s.put F.CLU_SEQ_STATUS_stop (cluU c) 9
  let s := if s.lap.step == 0 then s else { s with lap := { s.lap with reasons := s.lap.reasons ||| 16 } }
  let s := (List.range 52).foldl (fun s n =>
    let k := coreNo c n
    if (s.core k).runs.isEmpty then s else s.setCore k { s.core k with runs := [] }) s
  ((s.waitsDrop (cluWaiter c 0)).waitsDrop (cluWaiter c 1)).waitsDrop (cluWaiter c 2)

/-- The functional clocks stop, by a freeze or in Blocks. -/
def State.halt (s : State) : State := if s.live then { s with frz := { s.frz with haltAt := s.ns } } else s

/-- The functional clocks run again: the time they stood still does not count toward a sync timeout (R496). -/
def State.runOn (s : State) : State :=
  { s with
    waits := s.waits.map (fun (p : Nat × Wait) => (p.1, { p.2 with stopped := p.2.stopped + s.stoodSince p.2 }))
    frz := { s.frz with stood := s.frz.stood + (s.ns - s.frz.haltAt) } }

end Sys2Proof.Machine
end

