-- ==== Sys2Proof/Machine/Array.lean ====
section
/-!
DEFINITION. Passes, wavefronts, narrow and wide accumulation, residue retries and exception records (R57 to R96).
-/

namespace Sys2Proof.Machine

/-! ### Pass descriptors (R57) -/

def desc.tensor (d : Nat) : Nat := bits d 15 0
def desc.nWave (d : Nat) : Nat := bits d 24 16
def desc.quad (d : Nat) : Nat := bits d 26 25
/-- Rows in use: the field holds depth - 1. -/
def desc.depth (d : Nat) : Nat := bits d 31 27 + 1
def desc.statSrc (d : Nat) : Nat := bits d 46 32
def desc.strmSrc (d : Nat) : Nat := bits d 59 48
def desc.statFmt (d : Nat) : Nat := bits d 63 60
def desc.strmFmt (d : Nat) : Nat := bits d 67 64
def desc.maskSrc (d : Nat) : Nat := bits d 79 68
def desc.maskEn (d : Nat) : Bool := bit d 80
def desc.first (d : Nat) : Bool := bit d 81
def desc.last (d : Nat) : Bool := bit d 82
def desc.colMask (d : Nat) : Nat := bits d 127 96
def desc.slotBase (d : Nat) : Nat := bits d 135 128
def desc.rowBase (d : Nat) : Nat := bits d 159 136
def desc.colBase (d : Nat) : Nat := bits d 179 160
def desc.redBlock (d : Nat) : Nat := bits d 199 180

/-- The mode word in effect on a core. -/
def State.coreMode (s : State) (c : CoreId) : Nat := (s.rd R.CORE_MODE (coreU c)).toNat

/-- Is a format permitted for a cell operation at a width of 4n bits (R34, R38). -/
def fmtPermitted (op n : Nat) (f : Fmt) : Bool :=
  let wide := match f with
    | .int8 | .b8 => decide (2 ≤ n)
    | .a8 => decide (3 ≤ n)
    | _ => true
  if op == 0 then wide
  else wide && (match f with
    | .int4 | .int8 | .b4 | .b8 => true
    | _ => false)

/-- The descriptor check of R58 on a core: true when the pass may not start. -/
def State.passBad (s : State) (c : CoreId) (d : Nat) : Bool :=
  let m := s.coreMode c
  let fmtBad := fun (code n : Nat) =>
    match Fmt.ofCode code with
    | none => true
    | some f => !fmtPermitted (mode.op m) n f
  bit d 47 || bits d 95 83 != 0 || bits d 255 200 != 0
    || desc.nWave d == 0 || decide (256 < desc.nWave d)
    || decide (s.get F.CORE_EDGE_CFG_slots (coreU c) < desc.slotBase d + desc.nWave d)
    || (mode.quad m && decide (16 < desc.depth d))
    || fmtBad (desc.statFmt d) (mode.k m) || fmtBad (desc.strmFmt d) (mode.s m)

/-- The output format a core's passes are converted to (R130). -/
def State.outFmt (s : State) (c : CoreId) : Option Fmt := Fmt.ofCode (s.get F.CORE_OUTCONV_fmt (coreU c))

/-- What keeps a pass from starting, in the order of R261: the stop reason and the state with the report made. -/
def State.passCheck (s : State) (c : CoreId) (d : Nat) : Option (Nat × State) :=
  let t := desc.tensor d
  if s.passBad c d then some (2, s.corePost c 9)
  else if (s.staFind c.clu t).isNone then some (5, s.staPost c.clu 1 t)
  else if ((s.outFmt c).map Fmt.needsScale).getD false then
    match s.sclFind c.clu t with
    | none => some (4, s.sclPost c.clu 1 t)
    | some a => if sclReserved (s.sclWord a) then some (4, s.sclPost c.clu 2 t) else none
  else none

/-! ### Operands (R60, R63, R64, R70, R117) -/

/-- Bytes of 32 elements of a format stored as elements. -/
def Fmt.rowBytes (f : Fmt) : Nat := 4 * f.width

/-- A carrier address is rounded down to a multiple of the carrier's size (R117). -/
def carrierDown (f : Fmt) (a : Nat) : Nat := a / f.carrierBytes * f.carrierBytes

/-- Decode a run of n elements of an element format from bytes (R105 to R107). -/
def decodeRun (f : Fmt) (bs : List Byte) (n : Nat) : List Elem × Evs :=
  let l := (List.range n).map (decodeAt f 0 bs)
  (l.map (fun p => p.1), Evs.sum (l.map (fun p => p.2)))

/-- Decode an A8 run: channel j of the region read by `rd off len`, n elements (R110, R111). -/
def decodeA8Run (rd : Nat → Nat → List Byte) (j n : Nat) : List Elem × Evs :=
  let d := a8Desc (leNat (rd (8 * j) 8))
  let bs := rd (0x800 + j * ((n + 31) / 32 * 32)) n
  let l := bs.map (fun b => a8Elem d b.toNat)
  (l.map (fun p => p.1), Evs.sum (l.map (fun p => p.2)))

/-- Operand block i (32 element positions in storage order, of which `depth` enter) of an operand read by `rd off len`
relative to its source offset: elements, block scale byte, events. Carriers report no event here (R596). -/
def operandBlock (f : Fmt) (rd : Nat → Nat → List Byte) (i depth : Nat) : List Elem × Nat × Evs :=
  match f with
  | .b8 | .b4 =>
    let c := decodeCarrier f (rd (i / 3 * f.carrierBytes) f.carrierBytes)
    ((c.1.drop (32 * (i % 3))).take depth, if c.2.2.count ctr.invalid != 0 then 255 else c.2.1.getD (i % 3) 0, {})
  | .a8 =>
    let r := decodeA8Run rd i depth
    (r.1, 0, r.2)
  | _ =>
    let r := decodeRun f (rd (i * f.rowBytes) f.rowBytes) depth
    (r.1, 0, r.2)

/-- The events of decoding carrier j once (R596). -/
def carrierEvs (f : Fmt) (rd : Nat → Nat → List Byte) (j : Nat) : Evs :=
  (decodeCarrier f (rd (j * f.carrierBytes) f.carrierBytes)).2.2

/-- The events of decoding the carriers at places `as`, each of them once (R596). -/
def State.carriersEvs (s : State) (f : Fmt) (as : List Nat) : Evs :=
  Evs.sum (as.eraseDups.map (fun a => (decodeCarrier f (s.ldBytes a f.carrierBytes)).2.2))

/-- What the operations of R91 report of an operand: its invalid events, and nothing else. -/
def Evs.onlyInvalid (e : Evs) : Evs := { ctr := e.ctr.filter (fun p => p.1 == ctr.invalid) }

/-- The events a pass reports of decoding carriers, by its cell operation (R91, R596). -/
def Evs.ofOp (op : Nat) (e : Evs) : Evs := if op == 0 then e else e.onlyInvalid

/-- An operand block as it enters the array (R65 to R72; codes only under the operations of R91). -/
def enterBlock (op : Nat) (f : Fmt) (b : List Elem × Nat × Evs) (digits T : Nat) : Block × Evs :=
  if op != 0 then ({ q := b.1.map (fun x => x.code), lam := some 0, mv := [], els := b.1 }, b.2.2)
  else if f.isFloat then
    let r := alignFloat b.1 (4 * digits) T
    (r.1, b.2.2.add r.2)
  else if f.isBlock then (alignBlock b.1 b.2.1, b.2.2)
  else (alignInt b.1, b.2.2)

/-- Reader of a core's near store from an offset. -/
def State.nearRd (s : State) (c : CoreId) (base : Nat) : Nat → Nat → List Byte :=
  fun o n => s.ldBytes (nearAt c (base + o)) n

/-- Reader of a core's staging store from an offset. -/
def State.stageRd (s : State) (c : CoreId) (base : Nat) : Nat → Nat → List Byte :=
  fun o n => s.ldBytes (stageAt c (base + o)) n

/-- The unmasked logical weight columns of a pass (R35, R41, R64). -/
def State.passCols (s : State) (c : CoreId) (d : Nat) : List Nat :=
  let m := s.coreMode c
  (List.range (weightCols (mode.k m) (mode.quad m))).filter (fun g => !bit (desc.colMask d) g)

/-- The row-mask bitmap of a pass (R63); in an empty heat every wavefront is masked (R244). -/
def State.passMask (s : State) (c : CoreId) (d : Nat) : Nat :=
  if (s.clu c.clu).emptyHeat then 2 ^ 256 - 1
  else if desc.maskEn d then s.ld (stageAt c (16 * desc.maskSrc d)) 32 else 0

/-- The unmasked wavefronts of a pass, ascending (R63). -/
def liveWaves (d mask : Nat) : List Nat := (List.range (desc.nWave d)).filter (fun n => !bit mask n)

/-- The next unmasked wavefront at or after n. -/
def nextLive (d mask n : Nat) : Option Nat := (liveWaves d mask).find? (fun k => decide (n ≤ k))

/-- Load the stationary operand of a pass (R60, R65): its columns and its events. -/
def State.loadStat (s : State) (c : CoreId) (d : Nat) : List PassCol × Evs :=
  let m := s.coreMode c
  let f := (Fmt.ofCode (desc.statFmt d)).getD .fp32
  let base := 32 * desc.statSrc d
  let base := if f.isBlock then carrierDown f base else base
  let rd := s.nearRd c base
  let ng := weightCols (mode.k m) (mode.quad m)
  let cols := (s.passCols c d).map (fun g =>
    let r := enterBlock (mode.op m) f (operandBlock f rd g (desc.depth d)) (mode.k m)
      (s.get F.CORE_ALIGN_t_stat (coreU c))
    (({ g := g, blk := r.1 } : PassCol), r.2))
  let cev := if f.isBlock then Evs.sum ((List.range ((ng + 2) / 3)).map (carrierEvs f rd)) else {}
  (cols.map (fun p => p.1), (cev.ofOp (mode.op m)).add (Evs.sum (cols.map (fun p => p.2))))

/-- The carrier events of the streaming operand: once for each carrier an element of which enters an unmasked
wavefront (R596). -/
def State.strmCarrierEvs (s : State) (c : CoreId) (d mask : Nat) : Evs :=
  match Fmt.ofCode (desc.strmFmt d) with
  | some f =>
    if f.isBlock then
      let rd := s.stageRd c (carrierDown f (16 * desc.strmSrc d))
      let js := ((liveWaves d mask).map (· / 3)).eraseDups
      (Evs.sum (js.map (carrierEvs f rd))).ofOp (mode.op (s.coreMode c))
    else {}
  | none => {}

/-- The streaming block of wavefront n (R65, R70), with its events. -/
def State.strmBlock (s : State) (c : CoreId) (d n : Nat) : Block × Evs :=
  let m := s.coreMode c
  let f := (Fmt.ofCode (desc.strmFmt d)).getD .fp32
  let base := 16 * desc.strmSrc d
  let base := if f.isBlock then carrierDown f base else base
  enterBlock (mode.op m) f (operandBlock f (s.stageRd c base) n (desc.depth d)) (mode.s m)
    (s.get F.CORE_ALIGN_t_strm (coreU c))

/-! ### Wide records in the near store (R79) -/

/-- The entry of a slot row that a logical weight column uses (R75). -/
def State.entryOf (s : State) (c : CoreId) (d g : Nat) : Nat :=
  if mode.quad (s.coreMode c) && desc.quad d % 2 == 1 then g + 16 else g

/-- The near-store place of the wide record of (slot, entry): entry by entry, slot after slot, from wide_base (R79, R99). The
order is a DESIGN CHOICE (log 92): the spec gives the records' first place only. -/
def State.wideAt (s : State) (c : CoreId) (slot e : Nat) : Nat :=
  nearAt c (s.get F.CORE_EDGE_CFG_wide_base (coreU c) * 4096 + 16 * (slot * 32 + e))

/-- The wide record of (slot, entry). -/
def State.wide (s : State) (c : CoreId) (slot e : Nat) : Wide := Wide.dec (s.ld (s.wideAt c slot e) 16)

/-- Write a wide record. -/
def State.setWide (s : State) (c : CoreId) (slot e : Nat) (w : Wide) : State := s.st (s.wideAt c slot e) 16 w.enc

/-- One addition of a contribution to the record of (slot, entry), whose residue is checked; on a mismatch the addition is
repeated once from the edge bank entry (R87). DESIGN CHOICE (log 117): the spec does not say what follows a second mismatch; the
repeated sum is written, with its own residue, and nothing is reported. -/
def State.wideTry (s : State) (c : CoreId) (acm : Acm) (empty : Bool) (slot : Nat) (x : Contrib) : Wide × Bool :=
  let w := s.wide c slot x.g
  if w.resOk then w.meet acm empty x.a x.ea else (s.wide c slot x.g).meet acm empty x.a x.ea

/-- Add one contribution into a wide record; a wide shed is reported as an alignment loss (R80, R81). -/
def State.wideAdd (s : State) (c : CoreId) (tensor : Nat) (acm : Acm) (slot : Nat) (x : Contrib) : State :=
  let key := slot * 32 + x.g
  let empty := (s.core c).empty.contains key
  let r := s.wideTry c acm empty slot x
  let s := s.setWide c slot x.g r.1
  let s := if empty then s.setCore c { s.core c with empty := (s.core c).empty.filter (· != key) } else s
  if r.2 then s.count c.clu tensor (Evs.one ctr.alignLoss 1) else s

/-- Add contributions in order. -/
def State.wideAddAll (s : State) (c : CoreId) (tensor : Nat) (acm : Acm) (slot : Nat) (l : List Contrib) : State :=
  l.foldl (fun s x => s.wideAdd c tensor acm slot x) s

/-- Set a record's flags from a class result that is not finite (R80, R94). -/
def State.wideFlag (s : State) (c : CoreId) (slot e : Nat) (f : Flags) : State :=
  s.setWide c slot e ((s.wide c slot e).flag f)

/-- The staging-store place of entry e of slot row n: the narrow area ends the staging store (R75). Where it lies is a
DESIGN CHOICE (log 93): the spec gives no place in the store. -/
def State.narrowAt (s : State) (c : CoreId) (n e : Nat) : Nat :=
  stageAt c (2 ^ 16 - 128 * s.get F.CORE_EDGE_CFG_slots (coreU c) + 128 * n + 4 * e)

/-- Slot row n: what the edge holds of it, with its entries read from the staging store (R75). -/
def State.row (s : State) (c : CoreId) (n : Nat) : SlotRow :=
  let r := slGet {} (s.core c).rows n
  { f := r.f, c := r.c, cur := r.cur, S := r.used.map (fun e => (e, sext 32 (s.ld (s.narrowAt c n e) 4))) }

/-- Replace slot row n: its entries go to the staging store, 0 in those it leaves (R75, R76). -/
def State.setRow (s : State) (c : CoreId) (n : Nat) (r : SlotRow) : State :=
  let s := (slGet {} (s.core c).rows n).used.foldl (fun s e => s.st (s.narrowAt c n e) 4 0) s
  let s := r.S.foldl (fun s p => s.st (s.narrowAt c n p.1) 4 (unsx 32 p.2)) s
  s.setCore c { s.core c with
    rows := slSet (s.core c).rows n { f := r.f, c := r.c, cur := r.cur, used := r.S.map (fun p => p.1) } }

/-- Promote slot row n: its entries go to the wide records, its entries and count to 0 (R76, R82). -/
def State.promoteRow (s : State) (c : CoreId) (tensor : Nat) (acm : Acm) (n : Nat) : State :=
  let r := (s.row c n).promote
  (s.setRow c n r.1).wideAddAll c tensor acm n r.2

/-! ### Exception records (R95, R96, R171) -/

/-- Latch a core exception record on the first infinite-times-zero pair (R95); with irq_en it also writes
CORE_EXC_INVALID (R96). -/
def State.excLatch (s : State) (c : CoreId) (d n g : Nat) : State :=
  let u := coreU c
  if s.flag F.CORE_EXC_STATUS_valid u then s
  else
    let s := s.puts u [(F.CORE_EXC_TENSOR_tensor, desc.tensor d), (F.CORE_EXC_ROW_row, desc.rowBase d + n),
      (F.CORE_EXC_COL_col, desc.colBase d + g), (F.CORE_EXC_BLOCK_block, desc.redBlock d),
      (F.CORE_EXC_TIME_time, s.ns), (F.CORE_EXC_STATUS_seq, s.get F.CORE_EXC_STATUS_seq u + 1),
      (F.CORE_EXC_STATUS_valid, 1)]
    if s.flag F.CORE_EXC_STATUS_irq_en u then s.corePost c 8 else s

/-- Does record time a precede b (R171). -/
def timeBefore (a b : Nat) : Bool := decide (2 ^ 31 ≤ (a + 2 ^ 32 - b % 2 ^ 32) % 2 ^ 32)

/-- The first unit of a list whose record time comes earliest; ties to the unit that comes first (R171). -/
def earliest (time : Nat → Nat) : List Nat → Option Nat
  | [] => none
  | u :: us => some (us.foldl (fun b x => if timeBefore (time x) (time b) then x else b) u)

/-- CLUSTER_EXC_MERGE: a free cluster record takes the earliest valid core record (R95). -/
def execClusterExcMerge (c : Clu) (s : State) : Host.Outcome State Fault Refusal :=
  let u := cluU c
  let cu := fun (k : Nat) => u * 52 + k
  let valid := (List.range 52).filter (fun k => s.flag F.CORE_EXC_STATUS_valid (cu k))
  if !s.live || s.flag F.CLU_EXC_STATUS_valid u then .next s
  else match earliest (fun k => s.get F.CORE_EXC_TIME_time (cu k)) valid with
    | none => .next s
    | some k =>
      .next (s.puts u [(F.CLU_EXC_TENSOR_tensor, s.get F.CORE_EXC_TENSOR_tensor (cu k)),
        (F.CLU_EXC_ROW_row, s.get F.CORE_EXC_ROW_row (cu k)), (F.CLU_EXC_COL_col, s.get F.CORE_EXC_COL_col (cu k)),
        (F.CLU_EXC_BLOCK_block, s.get F.CORE_EXC_BLOCK_block (cu k)),
        (F.CLU_EXC_TIME_time, s.get F.CORE_EXC_TIME_time (cu k)),
        (F.CLU_EXC_STATUS_seq, s.get F.CLU_EXC_STATUS_seq u + 1), (F.CLU_EXC_STATUS_core, k),
        (F.CLU_EXC_STATUS_valid, 1)])

/-- The die record of die d taken from cluster n (R171, R191). -/
def State.dieExcTake (s : State) (d n : Nat) : State :=
  let u := d * 105 + n
  let s1 := s.puts d [(F.STA_DIE_EXC_TENSOR_tensor, s.get F.CLU_EXC_TENSOR_tensor u),
    (F.STA_DIE_EXC_ROW_row, s.get F.CLU_EXC_ROW_row u), (F.STA_DIE_EXC_COL_col, s.get F.CLU_EXC_COL_col u),
    (F.STA_DIE_EXC_BLOCK_block, s.get F.CLU_EXC_BLOCK_block u),
    (F.STA_DIE_EXC_TIME_time, s.get F.CLU_EXC_TIME_time u),
    (F.STA_DIE_EXC_STATUS_seq, s.get F.STA_DIE_EXC_STATUS_seq d + 1), (F.STA_DIE_EXC_STATUS_die, d),
    (F.STA_DIE_EXC_STATUS_cluster, n), (F.STA_DIE_EXC_STATUS_core, s.get F.CLU_EXC_STATUS_core u),
    (F.STA_DIE_EXC_STATUS_valid, 1)]
  if s.flag F.STA_DIE_EXC_STATUS_irq_en d then s1.raise (dieSrc d 8) else s1

/-- The module record taken from die d (R171, R191). -/
def State.modExcTake (s : State) (d : Nat) : State :=
  let s1 := s.puts 0 [(F.STA_MOD_EXC_TENSOR_tensor, s.get F.STA_DIE_EXC_TENSOR_tensor d),
    (F.STA_MOD_EXC_ROW_row, s.get F.STA_DIE_EXC_ROW_row d), (F.STA_MOD_EXC_COL_col, s.get F.STA_DIE_EXC_COL_col d),
    (F.STA_MOD_EXC_BLOCK_block, s.get F.STA_DIE_EXC_BLOCK_block d),
    (F.STA_MOD_EXC_TIME_time, s.get F.STA_DIE_EXC_TIME_time d),
    (F.STA_MOD_EXC_STATUS_seq, s.get F.STA_MOD_EXC_STATUS_seq 0 + 1), (F.STA_MOD_EXC_STATUS_die, d),
    (F.STA_MOD_EXC_STATUS_cluster, s.get F.STA_DIE_EXC_STATUS_cluster d),
    (F.STA_MOD_EXC_STATUS_core, s.get F.STA_DIE_EXC_STATUS_core d), (F.STA_MOD_EXC_STATUS_valid, 1)]
  if s.flag F.STA_MOD_EXC_STATUS_irq_en 0 then s1.raise 1362 else s1

/-- A free die record (u names the die) or module record (none) takes the earliest valid record of the level below
(R171); whether the module record latched. -/
def State.excMerge (s : State) (u : Option (Fin 17)) : State × Bool :=
  match u with
  | some d =>
    if !s.live || s.flag F.STA_DIE_EXC_STATUS_valid d then (s, false)
    else
      let valid := (List.range 105).filter (fun n => s.flag F.CLU_EXC_STATUS_valid (d * 105 + n))
      match earliest (fun n => s.get F.CLU_EXC_TIME_time (d * 105 + n)) valid with
      | none => (s, false)
      | some n => (s.dieExcTake d n, false)
  | none =>
    if !s.live || s.flag F.STA_MOD_EXC_STATUS_valid 0 then (s, false)
    else
      let valid := (List.range 17).filter (fun d => s.flag F.STA_DIE_EXC_STATUS_valid d)
      match earliest (fun d => s.get F.STA_DIE_EXC_TIME_time d) valid with
      | none => (s, false)
      | some d => (s.modExcTake d, true)

/-! ### Starting a pass (R58, R60, R79) -/

/-- The places (slot * 32 + entry) of the records a pass writes (R63, R64, R75). -/
def recKeys (d mask : Nat) (cols : List Nat) (right : Bool) : List Nat :=
  (liveWaves d mask).flatMap (fun n => cols.map (fun g => (desc.slotBase d + n) * 32 + g + (if right then 16 else 0)))

/-- Does a pass run in QB or QD (R40, R75). -/
def State.runsRight (s : State) (c : CoreId) (d : Nat) : Bool := mode.quad (s.coreMode c) && desc.quad d % 2 == 1

/-- Is a tensor a core produces strict, in a format that needs a scale (R145, R156). -/
def State.strictOut (s : State) (c : CoreId) (t : Nat) : Bool :=
  ((s.outFmt c).map Fmt.needsScale).getD false && (match s.sclFind c.clu t with
    | some a => bit (s.sclWord a) 23
    | none => false)

/-- The places of the records that a pass in progress writes. -/
def State.runKeys (s : State) (c : CoreId) (r : PassRun) : List Nat :=
  recKeys r.desc r.mask (r.cols.map (fun p => p.g)) (s.runsRight c r.desc)

/-- The passes in progress of strict tensors, whose records a pass with `first` set leaves alone (R145). -/
def State.strictRuns (s : State) (c : CoreId) : List PassRun :=
  (s.core c).runs.filter (fun r => s.strictOut c (desc.tensor r.desc))

/-- Would a pass write a held record of a strict tensor, or one that a pass of a strict tensor is still writing (R145). -/
def State.heldWait (s : State) (c : CoreId) (d : Nat) : Bool :=
  desc.first d && (recKeys d (s.passMask c d) (s.passCols c d) (s.runsRight c d)).any (fun k =>
    (s.core c).held.contains k || (s.strictRuns c).any (fun r => (s.runKeys c r).contains k))

/-- The bytes of a pass's operands, as places lo to hi - 1. -/
def State.operandSpans (_s : State) (c : CoreId) (d : Nat) : List (Nat × Nat) :=
  let ext := fun (f : Option Fmt) (n : Nat) =>
    match f with
    | some .a8 => 0x800 + 256 * 32
    | some f => if f.isBlock then (n / 3 + 1) * f.carrierBytes else n * f.rowBytes
    | none => 0
  let a := nearAt c (32 * desc.statSrc d)
  let b := stageAt c (16 * desc.strmSrc d)
  [(a, a + ext (Fmt.ofCode (desc.statFmt d)) 32), (b, b + ext (Fmt.ofCode (desc.strmFmt d)) (desc.nWave d))]

/-- Would a pass read the output region of a strict tensor before its verdict (R145). -/
def State.operandHeld (s : State) (c : CoreId) (d : Nat) : Bool :=
  (s.operandSpans c d).any (fun p => s.regionHeld p.1 p.2)

/-- The strict tensor whose verdict a pass waits for (R145, R494). -/
def State.heldTensor (s : State) (c : CoreId) (d : Nat) : Nat :=
  let keys := recKeys d (s.passMask c d) (s.passCols c d) (s.runsRight c d)
  match (s.core c).done.find? (fun f => (recKeys f.desc f.mask f.cols f.right).any
      (fun k => (s.core c).held.contains k && keys.contains k)) with
  | some f => desc.tensor f.desc
  | none => match (s.strictRuns c).find? (fun r => (s.runKeys c r).any (fun k => keys.contains k)) with
    | some r => desc.tensor r.desc
    | none => ((s.tensors.find? (fun p => p.2.regions.any (fun r =>
      (s.operandSpans c d).any (fun q => decide (r.1 < q.2) && decide (q.1 < r.2))))).map (fun p => p.1)).getD 0

/-- Zero the outputs of wavefront n of a pass with `first` set, when it is fed and before its contributions enter (R79); a refeed
zeroes nothing, since passes that followed may have added to them meanwhile (R90). The narrow entries of
its columns go with them, and c(n) and f(n) stay: a DESIGN CHOICE (log 94), since R79 speaks of the records only. -/
def State.zeroFirst (s : State) (c : CoreId) (d n : Nat) (cols : List Nat) : State :=
  cols.foldl (fun s g =>
    let slot := desc.slotBase d + n
    let e := s.entryOf c d g
    let s := s.setWide c slot e {}
    let r := s.row c slot
    let s := s.setRow c slot { r with S := slDel r.S e }
    s.setCore c { s.core c with empty := (slot * 32 + e) :: (s.core c).empty.filter (· != slot * 32 + e) }) s

/-! ### The cells' registers (R31, R60, R61) -/

/-- The physical column excluded from a core (R49). -/
def State.retiredCol (s : State) (c : CoreId) : Nat := s.get F.CORE_COLMAP_retired_col (coreU c)

/-- The quadrant a run belongs to; 0 in the full array (R57). -/
def State.runQuad (s : State) (c : CoreId) (r : PassRun) : Nat :=
  if mode.quad (s.coreMode c) then desc.quad r.desc else 0

/-- A column of cells at reset: 32 of them. -/
def blankCol : List Cell := List.replicate 32 {}

/-- The column with `put i` applied to the cell of row r0 + i, for the n rows in use. -/
def putRows (r0 n : Nat) (put : Nat → Cell → Cell) (col : List Cell) : List Cell :=
  col.zipIdx.map (fun p => if r0 ≤ p.2 && p.2 < r0 + n then put (p.2 - r0) p.1 else p.1)

/-- Change the cells of physical column p of a core in the rows of a run. -/
def State.modCol (s : State) (c : CoreId) (p r0 n : Nat) (put : Nat → Cell → Cell) : State :=
  let x := s.core c
  s.setCore c { x with cells := slSet x.cells p (putRows r0 n put (slGet blankCol x.cells p)) }

/-- Change the cells that hold the stationary operand of a run, each with its digit of that operand (R35, R60, R64). -/
def State.modWeights (s : State) (c : CoreId) (r : PassRun) (put : Digit → Cell → Cell) : State :=
  let m := s.coreMode c
  let q := s.runQuad c r
  r.cols.foldl (fun s p =>
    (weightPlace (s.retiredCol c) (mode.quad m) q (mode.k m) p.g).zipIdx.foldl (fun s cm =>
      s.modCol c cm.1 (quadRow (mode.quad m) q) p.blk.q.length
        (fun i => put (digit (mode.k m) (p.blk.q.getD i 0) cm.2))) s) s

/-- Load the shadow registers of a quadrant with the stationary operand of its next pass, the oldest that has fed no wavefront and has
one to feed (R60, R63). -/
def State.shadowLoad (s : State) (c : CoreId) (q : Nat) : State :=
  match (s.core c).runs.find? (fun r => s.runQuad c r == q && r.next == 0 && (nextLive r.desc r.mask 0).isSome) with
  | some r => s.modWeights c r (fun d x => { x with shadow := d })
  | none => s

/-- The swap token of a pass: each of its cells moves its shadow digit and top flag into the active registers (R61). -/
def State.swapToken (s : State) (c : CoreId) (r : PassRun) : State :=
  s.modWeights c r (fun _ x => { x with active := x.shadow })

/-- Do the digits of a quadrant cross the excluded column on their way to the columns in use (R49, R50). -/
def pathCrosses (retired : Nat) (quad : Bool) (q : Nat) (used : List Nat) : Bool :=
  decide ((if quad && q % 2 == 1 then rowInput retired else 0) ≤ retired) && used.any (fun p => decide (retired < p))

/-- What a wavefront leaves in the cells and in the bypass register of the excluded column: the digits of its last stride in the row registers of the columns in use, and the
partial sums of that stride, or under an operation of R91 the running result, in the columns of its weights. DESIGN CHOICE
(log 95): between commands the registers stand as after the wavefront's last digit. -/
def State.waveCells (s : State) (c : CoreId) (r : PassRun) (x : Block) : State :=
  let m := s.coreMode c
  let q := s.runQuad c r
  let quad := mode.quad m
  let k := mode.k m
  let n := mode.s m
  let reg : Nat → RowReg := fun i =>
    let v := x.q.getD i 0
    if mode.op m == 0 then { main := (digit n v (n - 1)).d, top := true }
    else { main := (digit n v 0).d, top := n == 1, high := if n == 1 then 0 else (digit n v 1).d }
  let used := (rowPath (s.retiredCol c) quad q).take (k * weightCols k quad)
  let s := if pathCrosses (s.retiredCol c) quad q used then
      s.setCore c { s.core c with bypass := (List.range x.q.length).foldl (fun l i => slSet l (quadRow quad q + i) (reg i)) (s.core c).bypass }
    else s
  let s := used.foldl (fun s p => s.modCol c p (quadRow quad q) x.q.length (fun i y => { y with row := reg i })) s
  r.cols.foldl (fun s p =>
    (weightPlace (s.retiredCol c) quad q k p.g).zipIdx.foldl (fun s cm =>
      if mode.op m == 0 then
        let sums := columnSums (p.blk.q.map (fun v => digit k v cm.2)) (x.q.map (fun v => digit n v (n - 1))) 0
        s.modCol c cm.1 (quadRow quad q) sums.length (fun i y => { y with psum := sums.getD i 0 })
      else if cm.2 + 1 == k then
        s.modCol c cm.1 (quadRow quad q) x.q.length (fun i y =>
          { y with psum := BitVec.ofInt 14 (cellOp (mode.op m) k (p.blk.q.take (i + 1)) (x.q.take (i + 1))) })
      else s) s) s

/-- Reads of the output region of a strict tensor wait from its first pass of the lap on (R145), where a conversion has named the
region before: a pass does not name it (log 12). -/
def State.holdRegions (s : State) (c : CoreId) (t : Nat) : State :=
  let x := s.tensor t
  if s.strictOut c t && x.verdict.isNone && x.regions.isEmpty && (slFind s.outRegs t).isSome then
    s.setTensor t { x with regions := slGet [] s.outRegs t }
  else s

/-- The bytes that block i of an operand at place a takes: its elements or its carrier; in A8 the channel's descriptor and codes
(R60, R70). -/
def blockSpans (f : Fmt) (a i depth : Nat) : List (Nat × Nat) :=
  if f == .a8 then [(a + 8 * i, 8), (a + 0x800 + i * ((depth + 31) / 32 * 32), depth)]
  else if f.isBlock then [(carrierDown f a + i / 3 * f.carrierBytes, f.carrierBytes)]
  else [(a + i * f.rowBytes, f.rowBytes)]

/-- The bytes a pass loads of its stationary operand. -/
def State.statSpans (s : State) (c : CoreId) (d : Nat) : List (Nat × Nat) :=
  ((s.passCols c d).flatMap (fun g => blockSpans ((Fmt.ofCode (desc.statFmt d)).getD .fp32) (nearAt c (32 * desc.statSrc d)) g
    (desc.depth d))).eraseDups

/-- Start a pass whose checks passed: load its operand and count its events (R60, R596), of which an empty heat has none (R244). -/
def State.startPass (s : State) (c : CoreId) (d : Nat) : State :=
  let s := s.sramMeets (s.statSpans c d)
  let mask := s.passMask c d
  let st := s.loadStat c d
  let s := if (s.clu c.clu).emptyHeat then s else s.count c.clu (desc.tensor d) (st.2.add (s.strmCarrierEvs c d mask))
  let a8s := fun (fmt : Nat) (rd : Nat → Nat → List Byte) (l : List Nat) =>
    if fmt == 9 then l.filterMap (fun j =>
      match a8Desc (leNat (rd (8 * j) 8)) with
      | .scaled m e _ => some (j, (m, e))
      | _ => none)
    else []
  let run : PassRun :=
    { desc := d, cols := st.1, mask := mask, next := 0, failed := [],
      sw := a8s (desc.statFmt d) (s.nearRd c (32 * desc.statSrc d)) (st.1.map (fun p => p.g)),
      sa := a8s (desc.strmFmt d) (s.stageRd c (16 * desc.strmSrc d)) (liveWaves d mask) }
  let x := s.core c
  let s := (s.setCore c { x with runs := x.runs ++ [run], retry := (run :: x.retry).take 3 }).holdRegions c (desc.tensor d)
  s.shadowLoad c (s.runQuad c run)

/-- Is the working copy of a tensor still to be written by a cluster that runs refresh of the lap before (R257). -/
def State.copyPending (s : State) (t : Nat) : Bool := s.allClus.any (fun e => (s.clu e).late && Config.refreshes (cluU e) t)

/-- The tensor of the working copy that a pass reads and refresh has not written yet (R257, R494); none while no other cluster runs
refresh. -/
def State.copyWait (s : State) (c : CoreId) (d : Nat) : Option Nat :=
  if (s.clu c.clu).late || !s.allClus.any (fun e => (s.clu e).late) then none
  else match Config.workingCopy d with
    | some t => if s.copyPending t then some t else none
    | none => none

/-- Run a pass item: its checks in the order of R261, the waits of R257 and R145, then its start. -/
def State.passItem (s : State) (c : CoreId) (off : PoolOff) : State :=
  let d := s.ld (poolAt c.clu off.toNat) 32
  if (s.clu c.clu).stopNext then s.stop c.clu 8 (.pass c off)
  else match s.passCheck c d with
    | some (reason, s') => s'.stop c.clu reason (.pass c off)
    | none => match s.copyWait c d with
    | some t => s.waitOpen (cluWaiter c.clu 0) 6 t s.bib
    | none =>
      if s.heldWait c d || s.operandHeld c d then s.waitOpen (cluWaiter c.clu 0) 0x0C (s.heldTensor c d) s.bib
      else ((s.waitDone (cluWaiter c.clu 0) 6).waitDone (cluWaiter c.clu 0) 0x0C).startPass c d

/-! ### A wavefront (R63, R73, R76, R87, R94) -/

/-- The combiner's results of a wavefront in each unmasked column, in column order (R37, R91). -/
def State.waveSums (s : State) (c : CoreId) (r : PassRun) (x : Block) : List Int :=
  let m := s.coreMode c
  r.cols.map (fun p => if mode.op m == 0 then combined (mode.k m) (mode.s m) p.blk.q x.q else cellOp (mode.op m) (mode.k m) p.blk.q x.q)

/-- Results with physical upsets added: (column, amount). -/
def upsetSums (cols : List PassCol) (ys : List Int) (up : List (Nat × Int)) : List Int :=
  (cols.zip ys).map (fun p => p.2 + ((up.filter (fun u => u.1 == p.1.g)).map (fun u => u.2)).foldl (· + ·) 0)

/-- Commit the results of wavefront n (R76, R78, R79, R80, R94, R95). Its sidecar products reach the wide path first, then the
entries it promotes, then its bypassed results: a DESIGN CHOICE (log 96), since R80 gives no order. -/
def State.commitWave (s : State) (c : CoreId) (r : PassRun) (n : Nat) (x : Block) (ys : List Int) : State :=
  let m := s.coreMode c
  let op := mode.op m
  let d := r.desc
  let t := desc.tensor d
  let slot := desc.slotBase d + n
  let fl := r.cols.map (fun p => if op == 0 then classFlags p.blk.els x.els else {})
  let z := (r.cols.zip ys).zip fl
  -- class results that are not finite set flags, the first pair with an invalid product latches the record
  let s := z.foldl (fun s p => if p.2.any then s.wideFlag c slot (s.entryOf c d p.1.1.g) p.2 else s) s
  let s := match z.find? (fun p => p.2.inv) with
    | some p => s.excLatch c d n p.1.1.g
    | none => s
  -- sidecar products
  let s := if op == 0 then
      z.foldl (fun s p =>
        if p.2.any then s
        else s.wideAddAll c t .sum slot
          ((sidecar p.1.1.blk x).map (fun q => { g := s.entryOf c d p.1.1.g, a := q.1, ea := q.2 }))) s
    else s
  let gset := z.filterMap (fun p =>
    if p.2.any then none
    else match p.1.1.blk.lam, x.lam with
      | some a, some b => some ({ g := s.entryOf c d p.1.1.g, a := p.1.2, ea := a + b } : Contrib)
      | _, _ => none)
  let acm := acmOf op
  let s := if op != 0 || decide (mode.p m < 26) then
      let cap := if op == 0 then some (2 ^ mode.runLog2 m) else none
      let w := (s.row c slot).addWave acm cap gset
      (s.setRow c slot w.1).wideAddAll c t acm slot w.2
    else s.wideAddAll c t acm slot gset
  s.perfCore c 5 1

/-- Replace the run at index i of a core. -/
def State.setRun (s : State) (c : CoreId) (i : Nat) (r : PassRun) : State :=
  s.setCore c { s.core c with runs := (s.core c).runs.set i r }

/-- Wavefronts of a quadrant in flight when a residue mismatch of one is found: those fed in the 67 ac (35 in a quadrant)
from its last stride to the comparison (R59, R88). -/
def State.flightMax (s : State) (c : CoreId) : Nat :=
  let m := s.coreMode c
  (if mode.quad m then 35 else 67) / (if mode.op m == 0 then mode.s m else 1)

/-- The quadrants of a core; the full array counts as one (R57). -/
def State.quads (s : State) (c : CoreId) : List Nat := if mode.quad (s.coreMode c) then [0, 1, 2, 3] else [0]

/-- Count a wavefront fed in quadrant q after a mismatch (R88); `bad`: it mismatches itself, and the feeder of the core stops, in every
quadrant, behind what is in flight. -/
def State.flightUp (s : State) (c : CoreId) (q : Nat) (bad : Bool) : State :=
  let x := s.core c
  match slFind x.inFlight q with
  | some k => s.setCore c { x with inFlight := slSet x.inFlight q (k - 1) }
  | none => if bad then s.setCore c { x with inFlight := (s.quads c).map (fun k => (k, s.flightMax c)) } else s

/-- Feed wavefront n of the run at index i (R61, R63, R68, R74, R87): the first one carries the swap token; its events are
counted; then it commits, or is gathered when its residue mismatches. -/
def State.feedWave (s : State) (c : CoreId) (i : Nat) (r : PassRun) (n : Nat) (up : List (Nat × Int)) : State :=
  let m := s.coreMode c
  let q := s.runQuad c r
  let s := s.sramMeets (blockSpans ((Fmt.ofCode (desc.strmFmt r.desc)).getD .fp32) (stageAt c (16 * desc.strmSrc r.desc)) n
    (desc.depth r.desc))
  let x := s.strmBlock c r.desc n
  let s := s.count c.clu (desc.tensor r.desc) x.2
  let ys := upsetSums r.cols (s.waveSums c r x.1) up
  let pairs := (r.cols.map (fun p => (sidecar p.blk x.1).length)).foldl (· + ·) 0
  let s := s.perfCore c 0 (if mode.op m == 0 then mode.s m else 1)
  let s := s.perfCore c 2 ((pairs + 31) / 32 - mode.s m)
  let swaps := r.next == 0 || r.resume
  let s := if swaps then s.swapToken c r else s
  let s := s.waveCells c r x.1
  let bad := mode.op m == 0 && !residueOk ys (r.cols.map (fun p => p.blk.q)) x.1.q
  let r' := { r with next := n + 1, failed := if bad then r.failed ++ [n] else r.failed, resume := false }
  let s := (s.setRun c i r').flightUp c q bad
  let s := if swaps then s.shadowLoad c q else s
  let s := if desc.first r.desc then s.zeroFirst c r.desc n (r.cols.map (fun p => p.g)) else s
  if bad then s else s.commitWave c r' n x.1 ys

/-- The index of the oldest run of quadrant q that still has an unmasked wavefront to feed, with that wavefront; none while
the feeder stands for a retry (R88). -/
def State.nextWave (s : State) (c : CoreId) (q : Nat) : Option (Nat × PassRun × Nat) :=
  if slFind (s.core c).inFlight q == some 0 then none
  else ((s.core c).runs.zipIdx.filterMap (fun p =>
    if s.runQuad c p.1 == q then (nextLive p.1.desc p.1.mask p.1.next).map (fun n => (p.2, p.1, n)) else none)).head?

/-- Refeed one gathered wavefront of a run, whose operand is reloaded (R88): its digits are fed again (R488); none when it mismatches
again. -/
def State.refeed (s : State) (c : CoreId) (r : PassRun) (n : Nat) (up : List (Nat × Int)) : Option State :=
  let x := (s.strmBlock c r.desc n).1
  let ys := upsetSums r.cols (s.waveSums c r x) up
  let s := (s.modWeights c r (fun d x => { x with shadow := d, active := d })).waveCells c r x
  let s := s.perfCore c 0 (mode.s (s.coreMode c))
  if residueOk ys (r.cols.map (fun p => p.blk.q)) x.q then some (s.commitWave c r n x ys) else none

/-- Refeed gathered wavefronts in order, from the j-th on; an entry of `up` upsets the wavefront of its number (R88, R89). -/
def State.refeedAll (s : State) (c : CoreId) (up : List (Nat × Nat × Int)) : Nat → List (PassRun × Nat) → State × Bool
  | _, [] => (s, true)
  | j, (r, n) :: l =>
    match s.refeed c r n ((up.filter (fun u => u.1 == j)).map (fun u => u.2)) with
    | some s' => s'.refeedAll c up (j + 1) l
    | none => (s, false)

/-- A core's run with gathered wavefronts in quadrant q. -/
def State.failedRun (s : State) (c : CoreId) (q : Nat) : Option (Nat × PassRun) :=
  ((s.core c).runs.zipIdx.find? (fun p => s.runQuad c p.1 == q && !p.1.failed.isEmpty)).map (fun p => (p.2, p.1))

/-- The runs of quadrant q with gathered wavefronts, oldest first: the retry buffer holds three operands (R88). -/
def State.failedRuns (s : State) (c : CoreId) (q : Nat) : List PassRun :=
  ((s.core c).runs.filter (fun r => s.runQuad c r == q && !r.failed.isEmpty)).take 3

/-- The most ac without feed that a retry takes (R88). -/
def State.retryMax (s : State) (c : CoreId) (l : List PassRun) : Nat :=
  100 + (l.map (fun r => max 34 (r.failed.length * mode.s (s.coreMode c)))).sum

/-- The stationary operand of the interrupted pass of a quadrant, the oldest with an unfed wavefront, is loaded again, to enter with
that wavefront (R88). -/
def State.reload (s : State) (c : CoreId) (q : Nat) : State :=
  match (s.core c).runs.zipIdx.find? (fun p => s.runQuad c p.1 == q && (nextLive p.1.desc p.1.mask p.1.next).isSome) with
  | some (r, i) => (s.modWeights c r (fun d x => { x with shadow := d })).setRun c i { r with resume := true }
  | none => s

/-- The gathered wavefronts of quadrant q have been fed again; with none left in the core its feeder goes on (R88). -/
def State.retryDone (s : State) (c : CoreId) (q : Nat) : State :=
  let runs := (s.core c).runs.map (fun r => if s.runQuad c r == q then { r with failed := [] } else r)
  (s.setCore c { s.core c with
    runs := runs, inFlight := if runs.all (fun r => r.failed.isEmpty) then [] else (s.core c).inFlight }).reload c q

/-- The retry of R88 and R89 up to the report: the state, and whether the fault is lasting. The ac it takes are free between
100 and their bound. -/
def State.residueRetry (s : State) (c : CoreId) (q : Nat) (up : List (Nat × Nat × Int)) : State × Bool :=
  let l := s.failedRuns c q
  if l.isEmpty then (s, false)
  else
    let w := s.refeedAll c up 0 (l.flatMap (fun r => r.failed.map (fun n => (r, n))))
    let ac := 100 + Config.free s.freeCtr % (s.retryMax c l - 99)
    let s := { w.1.perfCore c 4 ac with freeCtr := s.freeCtr + 1 }
    let s := s.retryDone c q
    if w.2 then ((s.corePost c 6).satUp F.CORE_RESIDUE_CNT_transient (coreU c), false)
    else
      let s := ((s.corePost c 7).satUp F.CORE_RESIDUE_CNT_lasting (coreU c)).stop c.clu 3
        (.residueRetry c ⟨q % 4, Nat.mod_lt _ (by decide)⟩ [] [])
      (s.setCore c { s.core c with lastingPend := true, runs := [], inFlight := [] }, true)

/-! ### The end of a pass (R82) -/

/-- Does a pass with `last` set promote the row of wavefront n: the pass touched it, or a hurdle sealed it (R82, R86). -/
def State.rowEnds (s : State) (c : CoreId) (r : PassRun) (n : Nat) : Bool :=
  let x := s.row c (desc.slotBase r.desc + n)
  !bit r.mask n || (!x.cur && x.c != 0)

/-- Promote the rows a pass touched and hand its finished records to output conversion (R82, R86); those of a strict tensor
are held until its verdict (R145). -/
def State.finishPass (s : State) (c : CoreId) (r : PassRun) : State :=
  let op := mode.op (s.coreMode c)
  let d := r.desc
  let cols := r.cols.map (fun p => p.g)
  let right := s.runsRight c d
  let s := ((List.range (desc.nWave d)).filter (s.rowEnds c r)).foldl
    (fun s n => s.promoteRow c (desc.tensor d) (acmOf op) (desc.slotBase d + n)) s
  let k := s.core c
  s.setCore c { k with
    done := k.done ++ [{ desc := d, cols := cols, mask := r.mask, right := right, op := op, sw := r.sw, sa := r.sa }],
    held := if s.strictOut c (desc.tensor d) then (k.held ++ recKeys d r.mask cols right).eraseDups else k.held }

/-- Remove a run; with `last` set its records are finished (R82). -/
def State.endRun (s : State) (c : CoreId) (i : Nat) (r : PassRun) : State :=
  let s := (s.setCore c { s.core c with runs := (s.core c).runs.eraseIdx i }).worked c.clu
  if desc.last r.desc then s.finishPass c r else s

/-- The oldest run of quadrant q, when all its wavefronts are fed and none waits for a retry. -/
def State.completeRun (s : State) (c : CoreId) (q : Nat) : Option (Nat × PassRun) :=
  match ((s.core c).runs.zipIdx.find? (fun p => s.runQuad c p.1 == q)) with
  | some p => if (nextLive p.1.desc p.1.mask p.1.next).isNone && p.1.failed.isEmpty then some (p.2, p.1) else none
  | none => none

/-- PASS_COMPLETE: the oldest pass of a core's quadrant ends (R82). -/
def execPassComplete (c : CoreId) (q : Fin 4) (s : State) : Host.Outcome State Fault Refusal :=
  .next (if s.cluGo c.clu then
    match s.completeRun c q with
    | some (i, r) => s.endRun c i r
    | none => s
  else s)

/-- A retry that no fault upsets, at a hurdle: it passes, which is recorded as transient (R88, R89, R355). -/
def State.drainRetry (s : State) (c : CoreId) : State :=
  match (s.core c).runs.find? (fun r => !r.failed.isEmpty) with
  | some r => (s.residueRetry c (s.runQuad c r) []).1.fltTransient 2 (coreUnit c) 6 0
  | none => s

/-- Feed and end every pass of a core, as a hurdle's drain does (R84); fuel bounds the wavefronts. -/
def State.drain (s : State) (c : CoreId) : Nat → State
  | 0 => s
  | k + 1 =>
    match (s.core c).runs with
    | [] => s
    | r :: _ =>
      match nextLive r.desc r.mask r.next with
      | some n =>
        if slFind (s.core c).inFlight (s.runQuad c r) == some 0 then (s.drainRetry c).drain c k
        else (s.feedWave c 0 r n []).drain c k
      | none => if r.failed.isEmpty then (s.endRun c 0 r).drain c k else (s.drainRetry c).drain c k

end Sys2Proof.Machine
end

