-- ==== Sys2Proof/Machine/Draw.lean ====
section
/-!
DEFINITION. Random draws (R212, R218, R219, R220, R223, R224) and SHAKE256 (FIPS 202), which digests and keys use.
-/

namespace Sys2Proof.Machine

/-- The draw function D (R218). -/
def drawD (k0 k1 n : Nat) : Nat :=
  let M := 2 ^ 64
  let step := fun (x r : Nat) =>
    let k := if r % 2 == 0 then k0 else k1
    let x := x ^^^ ((k + r * 0x632BE59BD9B4E019) % M)
    let x := x * 0x9E3779B97F4A7C15 % M
    x ^^^ (x / 2 ^ 32)
  (List.range 6).foldl step (n % M) / 2 ^ 32

/-- The draw of stream sigma under the 128-bit lap key at counter n (R212, R219). -/
def streamDraw (key sigma n : Nat) : Nat := drawD (key % 2 ^ 64 ^^^ sigma) (key / 2 ^ 64) n

/-- Stream of the conversions of tensor t (R212). -/
def convStream (t : Nat) : Nat := 0x200000 + t

/-- Counter of element (i, j) of a conversion stream; v is 1 in a reconversion (R224). -/
def convCounter (v i j : Nat) : Nat := v * 2 ^ 44 + i % 2 ^ 24 * 2 ^ 20 + j % 2 ^ 20

/-- The 16-bit draw of a stochastic rounding that writes element (i, j) of tensor t (R224). -/
def convDraw (key t v i j : Nat) : Nat := streamDraw key (convStream t) (convCounter v i j) / 2 ^ 16

/-- Is tensor t a gradient by the bitmap of a cluster (R223). -/
def State.isGrad (s : State) (c : Clu) (t : Nat) : Bool :=
  bit (s.ld (poolAt c (s.get F.CLU_VEC_CFG_grad_base (cluU c) * 4096 + t / 8)) 1) (t % 8)

/-- The rounding that writes element (i, j) of tensor t on a cluster: stochastic when asked for, or when t is a
gradient (R120, R223, R224). -/
def State.rndFor (s : State) (c : Clu) (t : Nat) (stoch : Bool) (v i j : Nat) : Rnd :=
  if stoch || s.isGrad c t then .stoch (convDraw (s.clu c).key t v i j) else .rne

/-- The logical number of a physical cluster: 100 * logical die + logical cluster; none: it holds no logical position
(R25, R212). -/
def State.logClu (s : State) (c : Clu) : Option Nat :=
  match s.flt.dieMap.idxOf? c.die.val, (s.activeClus c.die).idxOf? c.cl.val with
  | some d, some n => some (100 * d + n)
  | _, _ => none

/-- The stream number of vector lane l of a cluster (R212). -/
def State.laneStream (s : State) (c : Clu) (l : Nat) : Nat := 64 * (s.logClu c).getD 0 + l

/-- A lane generator. -/
def Cluster.lane (x : Cluster) (l : Nat) : Lane := slGet {} x.lanes l

/-- Replace a lane generator. -/
def Cluster.setLane (x : Cluster) (l : Nat) (g : Lane) : Cluster := { x with lanes := slSet x.lanes l g }

/-- The consumed counter of a lane (R220). -/
def Lane.consumed (g : Lane) : Nat := g.n - g.q.length

/-- Compute one draw into the queue when it has room (R220). -/
def Lane.prefetch (g : Lane) (key sigma : Nat) : Lane :=
  if g.q.length < 4 then { g with q := g.q ++ [streamDraw key sigma g.n], n := (g.n + 1) % 2 ^ 64 } else g

/-- Take the oldest draw, computing it first when none is queued (R220). -/
def Lane.take (g : Lane) (key sigma : Nat) : Lane × Nat :=
  let g := if g.q.isEmpty then g.prefetch key sigma else g
  match g.q with
  | d :: q => ({ g with q := q }, d)
  | [] => (g, 0)

/-- GENERATOR_PREFETCH: a lane generator with room in its queue computes the next draw (R220). -/
def execGeneratorPrefetch (c : Clu) (lane : Fin 64) (s : State) : Host.Outcome State Fault Refusal :=
  let x := s.clu c
  .next (if s.cluOn c then s.setClu c (x.setLane lane ((x.lane lane).prefetch x.key (s.laneStream c lane))) else s)

/-! ## SHAKE256

The 1600-bit state is ONE number, lane (x, y) at bit 64 * (x + 5 * y); a message is the number of its bytes, lowest first. The
offsets and the round constants are formed as FIPS 202 forms them, from its walk over the lanes and its feedback register. -/

/-- Lane (x, y) of a state. -/
def spLane (a x y : Nat) : Nat := a / 2 ^ (64 * (x % 5 + 5 * (y % 5))) % 2 ^ 64

/-- The state whose lane (x, y) is f x y. -/
def spBuild (f : Nat → Nat → Nat) : Nat :=
  (List.range 25).foldl (fun a i => a + f (i % 5) (i / 5) * 2 ^ (64 * i)) 0

/-- A 64-bit lane turned towards its high end by k bits. -/
def spTurn (v k : Nat) : Nat := v * 2 ^ (k % 64) % 2 ^ 64 + v / 2 ^ (64 - k % 64)

/-- Step theta: every bit meets the parities of two columns. -/
def spTheta (a : Nat) : Nat :=
  let col := fun (x : Nat) => (List.range 5).foldl (fun p y => p ^^^ spLane a x y) 0
  spBuild (fun x y => spLane a x y ^^^ col ((x + 4) % 5) ^^^ spTurn (col ((x + 1) % 5)) 1)

/-- Steps rho and pi along the walk (1, 0), (0, 2), (2, 1), …: stop t turns by (t + 1)(t + 2) / 2 and moves to stop t + 1. -/
def spWalk (a : Nat) : Nat → Nat → Nat × Nat → Nat → Nat
  | 0, _, _, b => b
  | k + 1, t, (x, y), b =>
    let nx := (y, (2 * x + 3 * y) % 5)
    spWalk a k (t + 1) nx (b + spTurn (spLane a x y) ((t + 1) * (t + 2) / 2) * 2 ^ (64 * (nx.1 + 5 * nx.2)))

/-- Step chi: the only step that is not linear. -/
def spChi (a : Nat) : Nat :=
  spBuild (fun x y => spLane a x y ^^^ ((2 ^ 64 - 1 - spLane a (x + 1) y) &&& spLane a (x + 2) y))

/-- Seven steps of the feedback register, and the round constant they give. -/
def spConst (r : Nat) : Nat × Nat :=
  (List.range 7).foldl (fun p j => (p.1 * 2 % 256 ^^^ p.1 / 128 * 0x71, p.2 + p.1 % 2 * 2 ^ (2 ^ j - 1))) (r, 0)

/-- The permutation: 24 rounds beside the register. -/
def spPerm (a : Nat) : Nat :=
  ((List.range 24).foldl (fun (p : Nat × Nat) _ =>
    let k := spConst p.2
    let b := spTheta p.1
    (spChi (spWalk b 24 0 (1, 0) (spLane b 0 0)) ^^^ k.2, k.1)) (a, 1)).1

/-- SHAKE256 of a byte string, n bytes of output: rate 136 bytes, suffix 1111, padding 10*1. -/
def shake256 (m : List Byte) (n : Nat) : List Byte :=
  let blocks := m.length / 136 + 1
  let word := leNat m + 0x1F * 2 ^ (8 * m.length) + 2 ^ (1088 * blocks - 1)
  let a := (List.range blocks).foldl (fun a k => spPerm (a ^^^ word / 2 ^ (1088 * k) % 2 ^ 1088)) 0
  let out := (List.range ((n + 135) / 136)).foldl (fun (p : List Byte × Nat) _ =>
    (p.1 ++ toBytes 136 p.2, spPerm p.2)) ([], a)
  out.1.take n

/-- The lap key KL of R219: the first 16 bytes of SHAKE256(seed, lambda), as a little-endian number. -/
def lapKey (seed lam : Nat) : Nat := leNat (shake256 (toBytes 8 seed ++ toBytes 8 lam) 16)

end Sys2Proof.Machine
end

