-- ==== Sys2Proof/Machine/Ed448.lean ====
section
/-!
DEFINITION. Ed448 with an empty context, as RFC 8032 gives it (R463): the curve x² + y² = 1 + d x² y² over the integers
modulo 2^448 − 2^224 − 1, keys of 57 bytes and signatures of 114.
-/

namespace Sys2Proof.Machine

/-! ### The field and the curve -/

/-- The prime of the field. -/
def edP : Nat := 2 ^ 448 - 2 ^ 224 - 1

/-- The order of the base point. -/
def edOrder : Nat := 2 ^ 446 - 13818066809895115352007386748515426880336692474882178609894547503885

/-- The curve constant d = −39081 as a residue. -/
def edD : Nat := edP - 39081

/-- a − b in the field. -/
def edSub (a b : Nat) : Nat := (a + (edP - b % edP)) % edP

/-- a to the power e in the field, by the bits of e from the top, n of them. -/
def edPow (a e : Nat) : Nat → Nat
  | 0 => 1
  | n + 1 =>
    let h := edPow a (e / 2) n
    h * h % edP * (if e % 2 == 1 then a else 1) % edP

/-- A point (X : Y : Z) in projective coordinates. -/
structure EdPt where
  x : Nat
  y : Nat
  z : Nat
  deriving DecidableEq, Repr

/-- The base point. -/
def edBase : EdPt := {
  x := 224580040295924300187604334099896036246789641632564134246125461686950415467406032909029192869357953282578032075146446173674602635247710
  y := 298819210078481492676017930443930673437544040154080242095928241372331506189835876003536878655418784733982303233503462500531545062832660
  z := 1 }

/-- The sum of two points; the law is complete, so doubling is no special case. -/
def EdPt.add (p q : EdPt) : EdPt :=
  let zz := p.z * q.z % edP
  let xx := p.x * q.x % edP
  let yy := p.y * q.y % edP
  let sq := zz * zz % edP
  let w := edD * (xx * yy % edP) % edP
  let cross := edSub (edSub ((p.x + p.y) * (q.x + q.y) % edP) xx) yy
  { x := zz * edSub sq w % edP * cross % edP
    y := zz * ((sq + w) % edP) % edP * edSub yy xx % edP
    z := edSub sq w * ((sq + w) % edP) % edP }

/-- k times a point, by the n low bits of k from the top. -/
def EdPt.times (p : EdPt) (k : Nat) : Nat → EdPt
  | 0 => { x := 0, y := 1, z := 1 }
  | n + 1 =>
    let h := p.times (k / 2) n
    let h := h.add h
    if k % 2 == 1 then h.add p else h

/-- Do two triples name one point. -/
def EdPt.same (p q : EdPt) : Bool :=
  p.x * q.z % edP == q.x * p.z % edP && p.y * q.z % edP == q.y * p.z % edP

/-- The 57 bytes of a point: y, with the low bit of x on top. -/
def EdPt.enc (p : EdPt) : List Byte :=
  let r := edPow p.z (edP - 2) 448
  toBytes 57 (p.y * r % edP + p.x * r % edP % 2 * 2 ^ 455)

/-- The point of 57 bytes; none when they encode no point. -/
def edDec (b : List Byte) : Option EdPt :=
  let n := leNat b
  let y := n % 2 ^ 455
  let u := edSub (y * y % edP) 1
  let v := edSub (edD * (y * y % edP) % edP) 1
  let u3 := u * u % edP * u % edP
  let x := u3 * v % edP * edPow (u3 * u % edP * u % edP * (v * v % edP * v % edP) % edP) ((edP - 3) / 4) 448 % edP
  if b.length != 57 || decide (edP ≤ y) || v * (x * x % edP) % edP != u || (x == 0 && decide (2 ^ 455 ≤ n)) then none
  else some { x := if x % 2 == n / 2 ^ 455 then x else edP - x, y := y, z := 1 }

/-! ### Keys and signatures -/

/-- The hash of signing as a number: SHAKE256 with 114 bytes of output, after the prefix of an empty context. -/
def edHash (m : List Byte) : Nat :=
  leNat (shake256 ([0x53, 0x69, 0x67, 0x45, 0x64, 0x34, 0x34, 0x38, 0, 0] ++ m) 114)

/-- The secret scalar of a private key: the first half of its hash, made a multiple of 4 with bit 447 on top. -/
def edScalar (key : List Byte) : Nat := leNat ((shake256 key 114).take 56) / 4 * 4 % 2 ^ 447 + 2 ^ 447

/-- The public key of a private key. -/
def ed448Public (key : List Byte) : List Byte := (edBase.times (edScalar key) 448).enc

/-- The signature of a message under a private key. -/
def ed448Sign (key m : List Byte) : List Byte :=
  let r := edHash ((shake256 key 114).drop 57 ++ m) % edOrder
  let first := (edBase.times r 448).enc
  first ++ toBytes 57 ((r + edHash (first ++ ed448Public key ++ m) * edScalar key) % edOrder)

/-- Does a signature of a message verify under a public key: 4 S B = 4 R + 4 k A. -/
def ed448Verify (pub m sig : List Byte) : Bool :=
  match edDec pub, edDec (sig.take 57) with
  | some a, some r =>
    let s := leNat (sig.drop 57)
    let k := edHash (sig.take 57 ++ pub ++ m) % edOrder
    sig.length == 114 && decide (s < edOrder) && (edBase.times (4 * s) 450).same ((r.times 4 3).add (a.times (4 * k) 450))
  | _, _ => false

end Sys2Proof.Machine
end

