-- ==== Sys2Proof/Machine/Judge.lean ====
section
/-!
DEFINITION. The Judge: keys, counters, identity, firmware slots, attestation, debug authorization (R460 to R485).
-/

namespace Sys2Proof.Machine

/-! ### Status, service and requests -/

/-- Post JDG_STATUS (R485). -/
def State.jdgPost (s : State) (code : Nat) : State := s.post R.JDG_STATUS 0 [] code 2304

/-- Is the Judge in service: its domain is on, its clock runs, it is not in its error state (R365, R480, R481). -/
def State.judgeUp (s : State) : Bool := s.live && s.domOn .judge && !s.flag F.JDG_STATE_error 0

/-- HBM address of the request block (R482). -/
def State.jdgAt (s : State) : Nat := s.get F.JDG_REQ_HI_req_hi 0 * 2 ^ 32 + s.get F.JDG_REQ_LO_req 0 * 4096

/-- n bytes of the request from offset o. -/
def State.rq (s : State) (o n : Nat) : List Byte := s.ldBytes (s.jdgAt + o) n

/-- A request field as a number. -/
def State.rqN (s : State) (o n : Nat) : Nat := leNat (s.rq o n)

/-- Write the response (R482). -/
def State.jdgReply (s : State) (bs : List Byte) : State := s.stBytes (s.jdgAt + 2048) bs

/-! ### Keys, identity and counters (R464 to R467) -/

/-- A key slot; slot 0 is in ROM with the purposes firmware and admin, always in force (R464). -/
def State.keySlot (s : State) (n : Nat) : JKey :=
  if n == 0 then { pub := Config.romKey, purpose := 9, st := 1 } else slGet {} s.jdg.keys n

/-- The key of a slot when it is in force with purpose bit p (R464). -/
def State.keyFor (s : State) (n p : Nat) : Option (List Byte) :=
  let k := s.keySlot n
  if decide (n < 8) && k.st == 1 && bit k.purpose p then some k.pub else none

/-- The bytes of a key table: slots 1 to 7 of 64 B (R464). -/
def keyBytes (l : List (Nat × JKey)) : List Byte :=
  (List.range 7).flatMap (fun i =>
    let k : JKey := slGet {} l (i + 1)
    padTo 57 k.pub ++ toBytes 1 k.purpose ++ toBytes 1 k.st ++ [0, 0, 0, 0, 0])

/-- A key table as the Judge writes it to flash, with its digest (R471). -/
def keyCopy (l : List (Nat × JKey)) : KeyCopy := if l.isEmpty then {} else { tab := l, dig := some (shake256 (keyBytes l) 64) }

/-- Does a copy of the key table match its stored digest (R471). -/
def KeyCopy.valid (k : KeyCopy) : Bool := k == keyCopy k.tab

/-- Write the key table, both copies of it; `keys` of JDG_STATE follows. -/
def State.setKeys (s : State) (l : List (Nat × JKey)) : State :=
  let s := { s with jdg := { s.jdg with keys := l, copies := [keyCopy l, keyCopy l] } }
  s.put F.JDG_STATE_keys 0 ((List.range 8).foldl (fun a i => if (s.keySlot i).st == 1 then a + 2 ^ i else a) 0)

/-- The identity public key, when the module has an identity. -/
def State.identity (s : State) : Option (List Byte) := s.jdg.priv.map ed448Public

/-- Sign under the identity key. -/
def State.idSign (s : State) (m : List Byte) : Option (List Byte) := s.jdg.priv.map (fun k => ed448Sign k m)

/-- The last advance a counter makes over the module's life (R465). -/
def counterMax : Nat := 2 ^ 24

/-- The private key of a secret: the first 57 bytes of SHAKE256("KLN-ID", secret) (R467). -/
def idKey (secret : List Byte) : List Byte := shake256 ([0x4B, 0x4C, 0x4E, 0x2D, 0x49, 0x44] ++ secret) 57

/-- Show whether the module is in approved mode (R461): `approved` of the policy record as at power-on, self-tests passed,
no error. -/
def State.setApproved (s : State) (b : Bool) : State :=
  s.put F.JDG_STATE_approved 0 (b2n (b && s.jdg.ok && !s.flag F.JDG_STATE_error 0))

/-- The error state (R480). -/
def State.jdgError (s : State) : State := ((s.put F.JDG_STATE_error 0 1).put F.JDG_STATE_approved 0 0).jdgPost 0x0A

/-- A mailbox command starts to run; what it does takes place with the next tick (R481, R483; log 43). While one runs another is
refused, but ZEROIZE takes its place. -/
def State.jdgStart (s : State) (cmd : Nat) (fails : List (Fin 2 × Bool)) : State :=
  if !s.judgeUp then s
  else if s.jdg.run.isSome && cmd != 9 then s.jdgPost 2
  else { s with jdg := { s.jdg with run := some (cmd, fails) } }

/-- Is the Judge in service with no mailbox command running, so that it serves a request of another block (R481). -/
def State.judgeFree (s : State) : Bool := s.judgeUp && s.jdg.run.isNone

/-- The admin part of a request whose own fields take n bytes: the code of the first failed check, or none (R466). -/
def State.adminCheck (s : State) (n : Nat) (enroll : Bool) : Option Nat :=
  let id := if enroll then List.replicate 57 0 else s.identity.getD []
  if !enroll && s.identity.isNone then some 9
  else match s.keyFor (s.rqN n 1) 3 with
  | none => some 5
  | some k =>
    if s.rqN (n + 1) 8 != s.jdg.admin then some 6
    else if !ed448Verify k (id ++ s.rq 0 (n + 9)) (s.rq (n + 9) 114) then some 4
    else if counterMax ≤ s.jdg.admin then some 0x0D
    else none

/-- Perform an admin command: its checks, then the counter advances and the effect takes place with its status (R466). -/
def State.admin (s : State) (n : Nat) (enroll : Bool) (act : State → State) : State :=
  match s.adminCheck n enroll with
  | some c => s.jdgPost c
  | none => act { s with jdg := { s.jdg with admin := s.jdg.admin + 1 } }

/-! ### Firmware slots (R470 to R472) -/

/-- Flash address of firmware slot A or B (R375). -/
def fwAt (slot : Nat) : Nat := if slot == 0 then 0x01000000 else 0x11000000

/-- n flash bytes from address a. -/
def State.fl (s : State) (a n : Nat) : List Byte := Mem.read s.flash a n

/-- Verify a firmware slot: its svn and digest, or the status code of what failed (R470). -/
def State.fwVerify (s : State) (slot : Nat) : Except Nat (Nat × List Byte) :=
  let a := fwAt slot
  let h := s.fl a 256
  let f := fun (o n : Nat) => leNat ((h.drop o).take n)
  let len := f 16 8
  if f 0 4 != 0x57464C4B || f 4 2 != 1 || f 7 1 != 0xA1 || f 12 4 != 0 || 268435200 < len || f 24 40 != 0
      || f 242 14 != 0 then .error 4
  else match s.keyFor (f 6 1) 0 with
    | none => .error 5
    | some k =>
      let d := (h.drop 64).take 64
      if !ed448Verify k (h.take 128) ((h.drop 128).take 114) then .error 4
      else if shake256 (h.take 64 ++ s.fl (a + 256) len) 64 != d then .error 4
      else if f 8 4 < s.jdg.floor then .error 7
      else .ok (f 8 4, d)

/-- The stewards are released from a verified slot (R471, J4): they report ready later. -/
def State.fwBoot (s : State) (slot : Nat) (v : Nat × List Byte) : State :=
  let s := { s with
    jdg := { s.jdg with fw := some v, boot := slot, fwNone := false }
    starter := { s.starter with stewReady := false } }
  s.puts 0 [(F.JDG_STATE_ready, 1), (F.HUB_HOST_READY_judge, 1), (F.HUB_FW_STATUS_active, slot)]

/-- VERIFY_FW (R470, R484); with the stewards held it also requests the boot (R471). -/
def State.verifyFw (s : State) : State :=
  let slot := s.rqN 0 1
  if 1 < slot then s.jdgPost 3
  else match s.fwVerify slot with
    | .error c => s.jdgPost c
    | .ok v =>
      let s := s.jdgReply (toBytes 4 v.1 ++ v.2)
      let s := { s with jdg := { s.jdg with verified := slSet s.jdg.verified slot v.2 } }
      (if s.jdg.fwNone then s.fwBoot slot v else s).jdgPost 1

/-- JDG_VERIFY_FW (R470, R471, R484). -/
def execJdgVerifyFw (s : State) : Host.Outcome State Fault Refusal := .next (s.jdgStart 0x01 [])

/-- RAISE_FLOOR (R465, R472). -/
def State.raiseFloor (s : State) : State :=
  let v := s.rqN 0 4
  match s.jdg.fw with
  | none => s.jdgPost 7
  | some f =>
    if v < s.jdg.floor || f.1 < v then s.jdgPost 7
    else if counterMax ≤ s.jdg.floorAdv && v != s.jdg.floor then s.jdgPost 0x0D
    else
      let adv := s.jdg.floorAdv + b2n (v != s.jdg.floor)
      (({ s with jdg := { s.jdg with floor := v, floorAdv := adv } }).put F.JDG_FLOOR_floor 0 v).jdgPost 1

/-- RAISE_FLOOR: the firmware floor becomes the argument (R472). -/
def execRaiseFloor (s : State) : Host.Outcome State Fault Refusal := .next (s.jdgStart 0x02 [])

/-! ### Key slots (R464, R466) -/

/-- INSTALL_KEY (R466, R484). A revoked slot takes no key (R464). -/
def State.installKey (s : State) : State :=
  let slot := s.rqN 0 1
  let purpose := s.rqN 1 1
  if slot == 0 || 7 < slot || 15 < purpose || (s.keySlot slot).st == 2 then s.jdgPost 3
  else s.admin 59 false (fun s =>
    (s.setKeys (slSet s.jdg.keys slot { pub := s.rq 2 57, purpose := purpose, st := 1 })).jdgPost 1)

/-- INSTALL_KEY: a public key goes into a key slot (R466). -/
def execInstallKey (s : State) : Host.Outcome State Fault Refusal := .next (s.jdgStart 0x03 [])

/-- REVOKE_KEY (R466, R484): the slot is revoked until zeroization. -/
def State.revokeKey (s : State) : State :=
  let slot := s.rqN 0 1
  if slot == 0 || 7 < slot then s.jdgPost 3
  else s.admin 1 false (fun s => (s.setKeys (slSet s.jdg.keys slot { s.keySlot slot with st := 2 })).jdgPost 1)

/-- REVOKE_KEY: a key slot is revoked (R466). -/
def execRevokeKey (s : State) : Host.Outcome State Fault Refusal := .next (s.jdgStart 0x04 [])

/-! ### Attestation (R473 to R475) -/

/-- Bytes 0 to 271 of the report (R474). -/
def State.reportBody (s : State) (nonce pub : List Byte) : List Byte :=
  let fl := b2n (s.flag F.JDG_STATE_approved 0) + 2 * b2n s.jdg.grant.isSome + 4 * b2n s.flt.degraded
    + 8 * b2n (s.flag F.HUB_FW_STATUS_fallback 0)
  let fw := s.jdg.fw.getD (0, [])
  toBytes 4 1 ++ toBytes 3 s.bib ++ [0xA1] ++ toBytes 1 fl ++ [0, 0, 0] ++ toBytes 4 fw.1 ++ toBytes 4 s.jdg.floor
    ++ toBytes 4 s.jdg.dbg ++ toBytes 8 (s.get64 R.IMG_ID_LO R.IMG_ID_HI 0) ++ toBytes 8 s.ns ++ toBytes 8 s.lap.lam
    ++ padTo 32 nonce ++ padTo 64 fw.2 ++ padTo 64 s.img.digest ++ padTo 57 pub ++ List.replicate 7 0

/-- The signed report of 388 bytes; none without an identity (R474, R475). -/
def State.report (s : State) (nonce : List Byte) : Option (List Byte) :=
  match s.identity with
  | none => none
  | some pub =>
    let b := s.reportBody nonce pub
    (s.idSign b).map (fun sig => b ++ padTo 114 sig ++ [0, 0])

/-- ATTEST (R473, R475). -/
def State.attest (s : State) : State :=
  match s.report (s.rq 0 32) with
  | none => s.jdgPost 9
  | some r => (s.jdgReply r).jdgPost 1

/-- ATTEST: the report goes to the response area (R473, R474). -/
def execAttest (s : State) : Host.Outcome State Fault Refusal := .next (s.jdgStart 0x05 [])

/-- Word w of configuration space (R548, R549): identification, revision and class, and the attributes of BAR0, 64 bits and not
prefetchable, and of BAR2, 64 bits and prefetchable, in the places of the PCI header (log 110). -/
def State.pciConfig (s : State) (w : Nat) : Nat :=
  match w with
  | 0 => Config.vendorId % 2 ^ 16 + 2 ^ 16 * s.host.func.device
  | 2 => s.host.func.revision + 2 ^ 8 * s.host.func.classCode
  | 4 => 0b0100
  | 6 => 0b1100
  | _ => 0

/-- A DOE response: an object of the module's vendor ID with type 0x01 (R473). -/
def State.doeReply (s : State) (bs : List Byte) : State := s.emit (.doe (s.pciConfig 0 % 2 ^ 16) 1 bs)

/-- The error body of a DOE response (R473). -/
def State.doeError (s : State) (c : Nat) : State := s.doeReply (toBytes 4 0xFFFF ++ toBytes 4 c)

/-- Answer a DOE request: the report, or the error body with a status code (R473, R475). -/
def State.doeAnswer (s : State) (req : List Byte) : State :=
  if req.length != 40 || leNat (req.take 4) != 1 || leNat ((req.drop 4).take 4) != 0 then s.doeError 3
  else match s.report (req.drop 8) with
    | none => s.doeError 9
    | some r => s.doeReply r

/-- A DOE request that waited is answered when the Judge is in service (R552). -/
def State.doeLate (s : State) : State :=
  match s.jdg.doe with
  | none => s
  | some r => ({ s with jdg := { s.jdg with doe := none } }).doeAnswer r

/-- The discovery object (R473): for index 0 discovery itself, for index 1 the module's own object type, which ends the list; in the
layout of the PCI Express standard (log 132). -/
def State.doeDiscover (s : State) (body : List Byte) : State :=
  let r : List Byte := match leNat (body.take 1) with
    | 0 => toBytes 2 1 ++ [0, 1]
    | 1 => toBytes 2 (s.pciConfig 0) ++ [1, 0]
    | _ => toBytes 2 0xFFFF ++ [0, 0]
  s.emit (.doe 1 0 r)

/-- DOE_REQUEST: discovery is answered by the endpoint; a request of the module's own type at once, or held until the Judge is in
service and runs no command (R473, R481, R552); an object of another type gets no response. -/
def execDoeRequest (req : DoeObj) (s : State) : Host.Outcome State Fault Refusal :=
  .next (if !s.pcieOn then s
    else if req.vendor == 1 && req.typ == 0 then s.doeDiscover req.body
    else if req.vendor != s.pciConfig 0 % 2 ^ 16 || req.typ != 1 then s
    else if s.judgeFree && s.jdg.ok then s.doeAnswer req.body
    else { s with jdg := { s.jdg with doe := some req.body } })

/-- DOE_ABORT: the request in progress is discarded (R473). -/
def execDoeAbort (s : State) : Host.Outcome State Fault Refusal :=
  .next (if s.pcieOn then { s with jdg := { s.jdg with doe := none } } else s)

/-! ### Debug authorization (R476 to R478) -/

/-- DBG_CHALLENGE (R465, R476). -/
def State.dbgChallenge (s : State) : State :=
  let p := s.rqN 0 4
  if 3 < p then s.jdgPost 3
  else match s.identity with
    | none => s.jdgPost 9
    | some id =>
      if counterMax ≤ s.jdg.dbg then s.jdgPost 0x0D
      else
        let n := s.jdg.dbg + 1
        let c := shake256 (id ++ toBytes 8 n ++ toBytes 4 p) 64
        let s := s.jdgReply (toBytes 8 n ++ c)
        ({ s with jdg := { s.jdg with
          dbg := n, chal := some (n, p, c), past := s.jdg.past ++ (s.jdg.chal.map (fun (x : Nat × Nat × List Byte) => x.2.2)).toList } }).jdgPost 1

/-- DBG_CHALLENGE: the debug counter advances and a challenge is returned (R476). -/
def execDbgChallenge (s : State) : Host.Outcome State Fault Refusal := .next (s.jdgStart 0x06 [])

/-- DBG_TOKEN: the checks in the order of R477, then the grant. A token that answers an earlier challenge meets a debug counter that no
longer equals that challenge's n. -/
def State.dbgToken (s : State) : State :=
  let e := s.rqN 0 8
  let answers (c : List Byte) : Bool := ed448Verify (s.keySlot (s.rqN 8 1)).pub (c ++ toBytes 8 e) (s.rq 9 114)
  match s.jdg.chal with
  | none => s.jdgPost 6
  | some (n, p, c) =>
    if s.jdg.dbg != n || s.jdg.past.any answers then s.jdgPost 6
    else match s.keyFor (s.rqN 8 1) 2 with
      | none => s.jdgPost 5
      | some _ =>
        if e ≤ s.ns then s.jdgPost 8
        else if !answers c then s.jdgPost 4
        else (({ s with jdg := { s.jdg with grant := some (p, e) } }).put F.JDG_DBG_granted 0 p).jdgPost 0x0F

/-- DBG_TOKEN: a debug authorization is granted (R477). -/
def execDbgToken (s : State) : Host.Outcome State Fault Refusal := .next (s.jdgStart 0x07 [])

/-- End the debug authorization in effect (R478). -/
def State.dbgEnd (s : State) : State :=
  if s.jdg.grant.isNone then s
  else (({ s with jdg := { s.jdg with grant := none } }).put F.JDG_DBG_granted 0 0).jdgPost 0x10

/-- DBG_REVOKE: the authorization ends (R478). -/
def execDbgRevoke (s : State) : Host.Outcome State Fault Refusal :=
  .next (s.jdgStart 0x08 [])

/-- DEBUG_EXPIRY: site time has reached the token's expiry (R478); it runs on in a freeze and in Blocks (R481). -/
def execDebugExpiry (s : State) : Host.Outcome State Fault Refusal :=
  .next (match s.jdg.grant with
    | some g => if g.2 ≤ s.ns then s.dbgEnd else s
    | none => s)

/-! ### Zeroization and enrolment (R468, R479) -/

/-- Zeroize: secrets and the debug authorization leave Judge RAM; helper data, key check, key slots 1 to 7 and
certificates leave flash (R479); a DOE request that waits receives the error body (R481). -/
def State.zeroize (s : State) : State :=
  let s := s.dbgEnd
  let s := { s with jdg := { s.jdg with priv := none, helper := none, certs := [], chal := none, past := [] } }
  let s := match s.jdg.doe with
    | some _ => ({ s with jdg := { s.jdg with doe := none } }).doeError 0x0E
    | none => s
  ((s.setKeys []).put F.JDG_STATE_identity 0 0).jdgPost 0x0E

/-- ZEROIZE (R479). -/
def execZeroize (s : State) : Host.Outcome State Fault Refusal := .next (s.jdgStart 0x09 [])

/-- A test of the PUF or of the identity key that failed n times in a row (R480): a repeat that passes is logged, two failures are
lasting. -/
def State.jdgTest (s : State) (n : Nat) : State :=
  if n == 0 then s else if n == 1 then s.fltLog 0 0 0 0 0 else s.jdgError

/-- ENROLL: the PUF is read and its health tested; new helper data and key check are written, then the pairwise test runs; the new
public key is returned (R468, R480). How often the tests fail is physical: a free value (log 7). -/
def State.enroll (s : State) : State :=
  s.admin 0 true (fun s =>
    let f := Config.free s.freeCtr
    let h := Config.pufHelper s.jdg.enrols
    let s := { s with freeCtr := s.freeCtr + 1, jdg := { s.jdg with enrols := s.jdg.enrols + 1 } }
    let s := s.jdgTest (f % 3)
    if f % 3 == 2 then s
    else match Config.pufSecret h with
    | none => s.jdgPost 0x0B
    | some x =>
      let k := idKey x
      let pub := ed448Public k
      let s := { s with jdg := { s.jdg with priv := some k, helper := some (h, shake256 pub 64) } }
      let s := (s.put F.JDG_STATE_identity 0 1).jdgTest (f / 3 % 3)
      if f / 3 % 3 == 2 then s else (s.jdgReply pub).jdgPost 1)

/-- ENROLL (R468). -/
def execEnroll (s : State) : Host.Outcome State Fault Refusal := .next (s.jdgStart 0x0A [])

/-! ### Certificates, self-tests and mode -/

/-- INSTALL_CERT (R466, R484). -/
def State.installCert (s : State) : State :=
  let i := s.rqN 0 1
  let n := s.rqN 1 2
  if 3 < i || 1800 < n then s.jdgPost 3
  else s.admin (3 + n) false (fun s =>
    ({ s with jdg := { s.jdg with certs := slSet s.jdg.certs i (s.rq 3 n) } }).jdgPost 1)

/-- INSTALL_CERT: a certificate is stored (R466, R469). -/
def execInstallCert (s : State) : Host.Outcome State Fault Refusal := .next (s.jdgStart 0x0B [])

/-- READ_CERT (R484). -/
def State.readCert (s : State) : State :=
  let i := s.rqN 0 1
  let o := s.rqN 1 2
  let c := slGet [] s.jdg.certs i
  if 3 < i || c.isEmpty || c.length ≤ o then s.jdgPost 3
  else
    let part := (c.drop o).take 2044
    (s.jdgReply (toBytes 2 c.length ++ toBytes 2 part.length ++ part)).jdgPost 1

/-- READ_CERT: one part of a certificate is returned (R469, R484). -/
def execReadCert (s : State) : Host.Outcome State Fault Refusal := .next (s.jdgStart 0x0C [])

/-- SELF_TEST: the known-answer tests (R480). `fails`: what failed, 0 SHAKE256 or 1 Ed448, and whether the repeat failed too;
a repeat that passes is logged, under `kind` 0 (log 108). -/
def State.selfTest (s : State) (fails : List (Fin 2 × Bool)) : State :=
  let s := (fails.filter (fun p => !p.2)).foldl (fun s _ => s.fltLog 0 0 0 0 0) s
  let r := (if fails.contains (0, true) then 0 else 1) + (if fails.contains (1, true) then 0 else 2)
  let s := s.jdgReply (toBytes 1 r)
  if r == 3 then s.jdgPost 1 else s.jdgError

/-- SELF_TEST (R480). -/
def execSelfTest (fails : List (Fin 2 × Bool)) (s : State) : Host.Outcome State Fault Refusal :=
  .next (s.jdgStart 0x0D fails)

/-- SET_MODE (R462, R466): `approved` of the policy record; it takes effect at the next power-on. -/
def State.setMode (s : State) : State :=
  let a := s.rqN 0 1
  if 1 < a then s.jdgPost 3
  else s.admin 1 false (fun s => ({ s with jdg := { s.jdg with policy := a == 1 } }).jdgPost 1)

/-- SET_MODE (R462). -/
def execSetMode (s : State) : Host.Outcome State Fault Refusal := .next (s.jdgStart 0x0E [])

/-- A write of JDG_CMD starts the command it names; a reserved one reports JDG_CMD_INVALID (R483, R484). The outcome of
a self-test that the register starts is a free value. -/
def State.jdgCmdWrite (s : State) (cmd : Nat) : State :=
  if cmd == 0x0D then
    let f := Config.free s.freeCtr
    ({ s with freeCtr := s.freeCtr + 1 }).jdgStart cmd
      (((List.finRange 2).filter (fun (i : Fin 2) => bit f i.val)).map (fun i => (i, bit f (2 + i.val))))
  else if 1 ≤ cmd && cmd ≤ 0x0E then s.jdgStart cmd []
  else if s.judgeUp then s.jdgPost (if s.jdg.run.isSome then 2 else 3)
  else s

/-- The running mailbox command does what it names (R484). -/
def State.jdgDone (s : State) : State :=
  match s.jdg.run with
  | none => s
  | some (cmd, fails) =>
    let s := { s with jdg := { s.jdg with run := none } }
    match cmd with
    | 0x01 => s.verifyFw
    | 0x02 => s.raiseFloor
    | 0x03 => s.installKey
    | 0x04 => s.revokeKey
    | 0x05 => s.attest
    | 0x06 => s.dbgChallenge
    | 0x07 => s.dbgToken
    | 0x08 => if s.jdg.grant.isNone then s.jdgPost 1 else s.dbgEnd
    | 0x09 => s.zeroize
    | 0x0A => s.enroll
    | 0x0B => s.installCert
    | 0x0C => s.readCert
    | 0x0D => s.selfTest fails
    | _ => s.setMode

/-- Do both firmware slots hold the same digest, so that a lost block of one is taken from the other (R373). -/
def State.fwSame (s : State) : Bool :=
  match s.fwVerify 0, s.fwVerify 1 with
  | .ok a, .ok b => a.2 == b.2
  | _, _ => false

end Sys2Proof.Machine
end

