-- ==== Sys2Proof/Machine/Fields.lean ====
section
/-!
DEFINITION. A register write field by field: the access types of R5, the aliases of R6, reserved bits and encodings (R7,
R8), staged buffers (R526, R527), and clearing by sequence (R529).
-/

namespace Sys2Proof.Machine

/-- The four aliases of a register block (R6). -/
inductive Alias where
  | plain | set | clear | toggle
  deriving DecidableEq, Repr

/-- The value a write of v through an alias makes of old (R6). -/
def Alias.val (al : Alias) (old v : Nat) : Nat :=
  match al with
  | .plain => v
  | .set => old ||| v
  | .clear => old - (old &&& v)
  | .toggle => old ^^^ v

/-- Does a field take the value x: it is no reserved encoding (R8). -/
def Field.takes (f : Field) (x : Nat) : Bool := !f.resv.any (fun r => decide (r.1 ≤ x ∧ x ≤ r.2))

/-- n with field f taken from v, unless that is a reserved encoding (R8). -/
def Field.merge (f : Field) (n v : Nat) : Nat :=
  if f.takes (bits v f.hi f.lo) then setBits n f.hi f.lo (bits v f.hi f.lo) else n

/-- Does a write of software reach the field's buffer (R5). -/
def Acc.staged : Acc → Bool
  | .st _ | .stwo _ => true
  | _ => false

/-- The update group of a staged field (R526). -/
def Acc.group : Acc → Option Nat
  | .st g | .stwo g | .ldr g => some g
  | _ => none

/-- The register value n with its fields that satisfy p taken from v. -/
def RegDef.mergeIf (r : RegDef) (p : Acc → Bool) (n v : Nat) : Nat :=
  r.fields.foldl (fun n f => if p f.acc then f.merge n v else n) n

/-- The register value n with every SQ field but `seq` cleared (R529). -/
def RegDef.sqClear (r : RegDef) (n : Nat) : Nat :=
  r.fields.foldl (fun n f => if f.acc == .sq && f.lo != 24 then setBits n f.hi f.lo 0 else n) n

/-- The buffer of a register's staged fields (R527). -/
def State.buffer (s : State) (r : RegDef) (u : Nat) : Nat := (slGet (s.rd r u) s.staged (r.addr u)).toNat

/-- A write of v to register r of unit u through an alias: RW fields take effect, ST fields go to the buffer, a matching
`seq` through the plain alias clears the SQ fields (R5 to R8, R527, R529). -/
def State.regWrite (s : State) (r : RegDef) (u : Nat) (al : Alias) (v : Nat) : State :=
  let old := (s.rd r u).toNat
  let n := r.mergeIf (· == .rw) old (al.val old v)
  let n := if al == .plain && r.fields.any (fun f => f.acc == .sq) && bits v 31 24 == bits old 31 24 then r.sqClear n else n
  let buf := s.buffer r u
  let s := if r.fields.any (fun f => f.acc.staged) then
      { s with staged := slSet s.staged (r.addr u) (BitVec.ofNat 32 (r.mergeIf Acc.staged buf (al.val buf v))) }
    else s
  s.wr r u (BitVec.ofNat 32 n)

/-- The image loader's write of v to register r of unit u: staged fields go to the buffer, RW fields take effect (R447,
R526). Like any write, it leaves reserved bits and reserved encodings as they are (R7, R8). -/
def State.loaderWrite (s : State) (r : RegDef) (u v : Nat) : State :=
  let s := if r.fields.any (fun f => f.acc.group.isSome) then
      { s with staged := slSet s.staged (r.addr u) (BitVec.ofNat 32 (r.mergeIf (·.group.isSome) (s.buffer r u) v)) }
    else s
  s.wr r u (BitVec.ofNat 32 (r.mergeIf (· == .rw) (s.rd r u).toNat v))

/-- Make the buffers of the update groups in a mask take effect (R527). -/
def State.strobe (s : State) (mask : Nat) : State :=
  s.staged.foldl (fun s p =>
    match regAt p.1 with
    | none => s
    | some (r, u) =>
      let hit (a : Acc) : Bool := match a.group with
        | some g => bit mask g
        | none => false
      if r.fields.any (fun f => hit f.acc) then
        let s := s.wr r u (BitVec.ofNat 32 (r.mergeIf hit (s.rd r u).toNat p.2.toNat))
        if r.fields.any (fun f => f.acc.group.isSome && !hit f.acc) then s else { s with staged := slDel s.staged p.1 }
      else s) s

/-- The update groups whose buffers hold a write (R528). -/
def State.updPending (s : State) : Nat :=
  s.staged.foldl (fun m p =>
    match regAt p.1 with
    | none => m
    | some (r, _) => r.fields.foldl (fun m f => match f.acc.group with
      | some g => m ||| 2 ^ g
      | none => m) m) 0

end Sys2Proof.Machine
end

