-- ==== Sys2Proof/Machine/Fp32.lean ====
section
/-!
DEFINITION. FP32 lane arithmetic (R215, R216): exact results rounded once to nearest even, subnormals flushed, one NaN.
-/

namespace Sys2Proof.Machine

/-- A lane result with its events: flushes and invalid operations (R215). -/
structure FR where
  v : Nat
  flush : Nat := 0
  invalid : Nat := 0
  deriving DecidableEq, Repr

/-- The one NaN the lanes write (R215). -/
def fNaN : Nat := 0x7FC00000

/-- Plus or minus infinity. -/
def fInf (neg : Bool) : Nat := Fmt.fp32.infBits neg

/-- Plus or minus zero. -/
def fZero (neg : Bool) : Nat := b2n neg * 2 ^ 31

/-- An operand as the lanes read it: a subnormal is zero with its sign and counts one flush (R215). -/
def fRead (w : Nat) : Elem × Nat :=
  let r := decodeFloat .fp32 (w % 2 ^ 32)
  (r.1, b2n r.2)

/-- Is the class zero or finite. -/
def Elem.isReal (x : Elem) : Bool := x.cls == .zero || x.cls == .fin

/-- Round a nonzero exact num / den * 2^e to FP32 (R215). -/
def fRound (y : Q) (fl : Nat) : FR :=
  let r := encodeFloat .fp32 .rne y
  { v := r.1, flush := fl + r.2.count ctr.outFlush }

/-- Sum of exact terms, with the sign of an exact zero given. -/
def fSum (m : Int) (e : Int) (zneg : Bool) (fl : Nat) : FR :=
  if m == 0 then { v := fZero zneg, flush := fl } else fRound { num := m, e := e } fl

/-- a * b + c with one rounding (R215). -/
def fFma (a b c : Nat) : FR :=
  let x := fRead a
  let y := fRead b
  let z := fRead c
  let fl := x.2 + y.2 + z.2
  let pneg := x.1.neg != y.1.neg
  let nanIn := x.1.cls == .nan || y.1.cls == .nan || z.1.cls == .nan
  let inv := (x.1.cls == .inf && y.1.cls == .zero) || (x.1.cls == .zero && y.1.cls == .inf)
  let pInf := x.1.cls == .inf || y.1.cls == .inf
  if nanIn then { v := fNaN, flush := fl }
  else if inv then { v := fNaN, flush := fl, invalid := 1 }
  else if pInf then
    if z.1.cls == .inf && z.1.neg != pneg then { v := fNaN, flush := fl, invalid := 1 } else { v := fInf pneg, flush := fl }
  else if z.1.cls == .inf then { v := fInf z.1.neg, flush := fl }
  else
    let pm := x.1.m * y.1.m
    let pe := x.1.e + y.1.e
    if pm == 0 then fSum z.1.m z.1.e (pneg && z.1.neg) fl
    else if z.1.m == 0 then fSum pm pe false fl
    else
      let e := min pe z.1.e
      fSum (pm * (2 ^ (pe - e).toNat : Nat) + z.1.m * (2 ^ (z.1.e - e).toNat : Nat)) e false fl

/-- The bits of FP32 one. -/
def fOne : Nat := 0x3F800000

/-- a + b (R215). -/
def fAdd (a b : Nat) : FR := fFma a fOne b

/-- a - b (R215). -/
def fSub (a b : Nat) : FR := fFma (b ^^^ 0x80000000) fOne a

/-- a * b (R215). -/
def fMul (a b : Nat) : FR :=
  let x := fRead a
  let y := fRead b
  let fl := x.2 + y.2
  let neg := x.1.neg != y.1.neg
  if x.1.cls == .nan || y.1.cls == .nan then { v := fNaN, flush := fl }
  else if (x.1.cls == .inf && y.1.cls == .zero) || (x.1.cls == .zero && y.1.cls == .inf) then
    { v := fNaN, flush := fl, invalid := 1 }
  else if x.1.cls == .inf || y.1.cls == .inf then { v := fInf neg, flush := fl }
  else fSum (x.1.m * y.1.m) (x.1.e + y.1.e) neg fl

/-- a / b (R215, R216). A finite number over zero is infinity, as IEEE 754 has it. -/
def fDiv (a b : Nat) : FR :=
  let x := fRead a
  let y := fRead b
  let fl := x.2 + y.2
  let neg := x.1.neg != y.1.neg
  if x.1.cls == .nan || y.1.cls == .nan then { v := fNaN, flush := fl }
  else if (x.1.cls == .inf && y.1.cls == .inf) || (x.1.cls == .zero && y.1.cls == .zero) then
    { v := fNaN, flush := fl, invalid := 1 }
  else if x.1.cls == .inf || y.1.cls == .zero then { v := fInf neg, flush := fl }
  else if x.1.cls == .zero || y.1.cls == .inf then { v := fZero neg, flush := fl }
  else fRound { num := if neg then -(x.1.m.natAbs : Int) else x.1.m.natAbs, den := y.1.m.natAbs, e := x.1.e - y.1.e } fl

/-- floor of the square root, bit by bit. -/
def isqrt (n : Nat) : Nat :=
  let k := Nat.log2 n / 2 + 1
  (List.range k).foldl (fun r i =>
    let b := 2 ^ (k - 1 - i)
    if (r + b) * (r + b) ≤ n then r + b else r) 0

/-- The square root of a positive number correctly rounded, from its root to 64 extra bits with a sticky bit. -/
def sqrtQ (m : Nat) (e : Int) : Q :=
  -- make the exponent even, scale up by 2^80
  let d : Nat := if e % 2 = 0 then 80 else 81
  let n := m * 2 ^ d
  let r := isqrt n
  let sticky := if r * r == n then 0 else 1
  { num := (2 * r + sticky : Nat), e := (e - d) / 2 - 1 }

/-- The square root (R215, R216). -/
def fSqrt (a : Nat) : FR :=
  let x := fRead a
  if x.1.cls == .nan then { v := fNaN }
  else if x.1.cls == .zero then { v := fZero x.1.neg, flush := x.2 }
  else if x.1.neg then { v := fNaN, invalid := 1 }
  else if x.1.cls == .inf then { v := fInf false }
  else fRound (sqrtQ x.1.m.toNat x.1.e) 0

/-- The value of a finite FP32 pattern as an exact number. -/
def fVal (w : Nat) : Q := let x := (fRead w).1; { num := x.m, e := x.e }

/-- A finite nonzero FP32 pattern moved by d steps of its last place. -/
def fStep (w : Nat) (d : Int) : Nat := ((w : Int) + d).toNat

/-- The pattern that a free choice among the neighbours gives: `pick` 0 the one below in magnitude, 2 the one above,
else the correctly rounded one; a neighbour that breaks the bound `ok` is not taken. -/
def fNeighbour (r : Nat) (pick : Nat) (ok : Nat → Bool) : Nat :=
  let c := if pick == 0 then fStep r (-1) else if pick == 2 then fStep r 1 else r
  let real := decide (0x00800000 ≤ c % 2 ^ 31 ∧ c % 2 ^ 31 < 0x7F800000)
  if real && ok c then c else r

/-- |x * w - 1| ≤ |x| * ulp(1/x): the bound of rcp within one ulp (R216). -/
def rcpOk (x : Elem) (w : Nat) : Bool :=
  let y := fVal w
  -- ulp(y) = 2^(floor(log2 |1/x|) - 23)
  let l := ratLog2 1 x.m.natAbs (-x.e) - 23
  -- |x.m * y.num * 2^(x.e + y.e) - 1| ≤ |x.m| * 2^(x.e + l)
  let e := min (x.e + y.e) (min 0 (x.e + l))
  let p := x.m * y.num * (2 ^ (x.e + y.e - e).toNat : Nat)
  let one : Int := (2 ^ (-e).toNat : Nat)
  decide ((p - one).natAbs ≤ x.m.natAbs * 2 ^ (x.e + l - e).toNat)

/-- The reciprocal, within one ulp (R216). -/
def fRcp (a : Nat) : FR :=
  let x := fRead a
  let r := fDiv fOne a
  if x.1.cls == .fin && (fRead r.v).1.cls == .fin then
    { r with v := fNeighbour r.v (Config.rcp (BitVec.ofNat 32 a)) (rcpOk x.1) }
  else r

/-- |y - 1/sqrt x| ≤ ulp: tested as bounds on squares, with u the ulp of the exact value (R216). -/
def rsqrtOk (x : Elem) (r w : Nat) : Bool :=
  let y := fVal w
  let l := (fVal r).log2 - 23
  -- y - u ≤ 1/sqrt x ≤ y + u, that is x (y - u)^2 ≤ 1 ≤ x (y + u)^2
  let e := min y.e l
  let ym := y.num.natAbs * 2 ^ (y.e - e).toNat
  let u := 2 ^ (l - e).toNat
  let k := x.e + 2 * e
  let lo := x.m.natAbs * (ym - u) * (ym - u)
  let hi := x.m.natAbs * (ym + u) * (ym + u)
  if 0 ≤ k then decide (lo * 2 ^ k.toNat ≤ 1) && decide (1 ≤ hi * 2 ^ k.toNat)
  else decide (lo ≤ 2 ^ (-k).toNat) && decide (2 ^ (-k).toNat ≤ hi)

/-- The reciprocal square root, within one ulp (R216). -/
def fRsqrt (a : Nat) : FR :=
  let x := fRead a
  if x.1.cls == .nan then { v := fNaN }
  else if x.1.cls == .zero then { v := fInf x.1.neg, flush := x.2 }
  else if x.1.neg then { v := fNaN, invalid := 1 }
  else if x.1.cls == .inf then { v := fZero false }
  else
    -- 1/sqrt(m 2^e) = sqrt(m 2^-e) / m for an exponent made even
    let m := x.1.m.toNat
    let q := sqrtQ m (-x.1.e)
    let r := (fRound { num := q.num, den := m, e := q.e } 0).v
    { v := fNeighbour r (Config.rsqrt (BitVec.ofNat 32 a)) (rsqrtOk x.1 r) }

/-! ### The functions of R216

Each result is free inside its bound: the value of a constant of Config where the bound admits it, else the exact value rounded
once. The exact value is enclosed between two numbers in fixed point of 160 fraction bits. -/

/-- One in fixed point. -/
def fxOne : Nat := 2 ^ 160

/-- More than the error of any fixed-point value formed here, in its last places. -/
def fxSlack : Nat := 2 ^ 20

/-- The inverse hyperbolic tangent of z, at most one third. -/
def fxAtanh (z : Nat) : Nat :=
  ((List.range 54).foldl (fun (p : Nat × Nat) k => (p.1 + p.2 / (2 * k + 1), p.2 * z / fxOne * z / fxOne)) (0, z)).1

/-- The natural logarithm of 2. -/
def fxLn2 : Nat := 2 * fxAtanh (fxOne / 3)

/-- The exponential of r, less than one. -/
def fxExp (r : Nat) : Nat :=
  ((List.range 45).foldl (fun (p : Nat × Nat) k =>
    let t := p.2 * r / fxOne / (k + 1)
    (p.1 + t, t)) (fxOne, fxOne)).1

/-- An enclosure of a real number: its sign, and its magnitude between lo * 2^e and hi * 2^e; whether it is known to lie below the
upper end. -/
structure Span where
  neg : Bool := false
  lo : Nat
  hi : Nat
  e : Int
  below : Bool := false
  deriving DecidableEq, Repr

/-- The enclosure of v * 2^e, with the slack. -/
def Span.around (v : Int) (e : Int) : Span := { neg := decide (v < 0), lo := v.natAbs - fxSlack, hi := v.natAbs + fxSlack, e := e }

/-- Does the bound admit the pattern w for an enclosed y: |y - w| at most k * ulp(y), and 2^-24 more where `more` (R216). -/
def Span.admits (s : Span) (k : Nat) (more : Bool) (w : Nat) : Bool :=
  let x := (fRead w).1
  let u := max (-126) (ratLog2 (max 1 (2 * s.hi - b2n s.below)) 2 s.e) - 23
  let e := min (min s.e x.e) (min u (-24))
  let at' := fun (m : Int) (f : Int) => m * (2 ^ (f - e).toNat : Nat)
  let B := at' k u + (if more then at' 1 (-24) else 0)
  let v := if s.neg then -(at' x.m x.e) else at' x.m x.e
  (fRead w).2 == 0 && (x.cls == .fin || (more && x.cls == .zero)) && decide (at' s.lo s.e - B ≤ v ∧ v ≤ at' s.hi s.e + B)

/-- The written result for an enclosed y: w where the bound admits it, else y rounded once; an overflow or a flush is no open
value (R215, R216). -/
def Span.result (s : Span) (k : Nat) (more : Bool) (w : Word) (fl : Nat) : FR :=
  let m : Int := (s.lo + s.hi : Nat)
  let r := if m == 0 then { v := fZero s.neg, flush := fl } else fRound { num := if s.neg then -m else m, e := s.e - 1 } fl
  if ((fRead r.v).1.cls == .fin || m == 0) && s.admits k more w.toNat then { v := w.toNat, flush := fl } else r

/-- The fixed-point value of a finite operand, rounded down. -/
def Elem.fx (x : Elem) : Int := if 0 ≤ x.e + 160 then x.m * (2 ^ (x.e + 160).toNat : Nat) else x.m / (2 ^ (-(x.e + 160)).toNat : Nat)

/-- Is the magnitude of a finite operand 2^k or more. -/
def Elem.big (x : Elem) (k : Int) : Bool := x.m != 0 && decide (k ≤ ilog2 x.m + x.e)

/-- The enclosure of 2^x. -/
def spanExp2 (x : Elem) : Span :=
  .around (fxExp ((x.fx % (fxOne : Int)).toNat * fxLn2 / fxOne)) (x.fx / (fxOne : Int) - 160)

/-- The enclosure of e^x. -/
def spanExp (x : Elem) : Span :=
  .around (fxExp (x.fx % (fxLn2 : Int)).toNat) (x.fx / (fxLn2 : Int) - 160)

/-- The natural logarithm of the fraction of a positive operand, and its binary exponent. -/
def fxLog (x : Elem) : Nat × Int :=
  let m := x.m.natAbs
  let k := Nat.log2 m
  (2 * fxAtanh ((m - 2 ^ k) * fxOne / (m + 2 ^ k)), k + x.e)

/-- The result of an exponential: plus infinity or a flushed zero beyond the range of its enclosure (R215). -/
def fExpOf (a : Nat) (span : Elem → Span) (k : Nat) (w : Word → Word) : FR :=
  let x := fRead a
  match x.1.cls with
  | .nan => { v := fNaN }
  | .inf => { v := if x.1.neg then 0 else fInf false }
  | _ =>
    if x.1.big 8 then (if x.1.neg then { v := 0, flush := 1 } else { v := fInf false })
    else (span x.1).result k false (w (BitVec.ofNat 32 (fZero x.1.neg + (if x.1.cls == .zero then 0 else a % 2 ^ 31)))) x.2

/-- exp2: within 2 ulp (R216). -/
def fExp2 (a : Nat) : FR := fExpOf a spanExp2 2 Config.exp2

/-- exp: within 3 ulp (R216). -/
def fExp (a : Nat) : FR := fExpOf a spanExp 3 Config.exp

/-- The result of a logarithm: minus infinity at zero, invalid below zero, exactly zero at one (R215). -/
def fLogOf (a : Nat) (log : Nat × Int → Int) (k : Nat) (w : Word → Word) : FR :=
  let x := fRead a
  match x.1.cls with
  | .nan => { v := fNaN }
  | .zero => { v := fInf true, flush := x.2 }
  | _ =>
    if x.1.neg then { v := fNaN, invalid := 1 }
    else if x.1.cls == .inf then { v := fInf false }
    else
      let v := log (fxLog x.1)
      if v == 0 then { v := 0 } else (Span.around v (-160)).result k false (w (BitVec.ofNat 32 a)) 0

/-- log2: within 2 ulp (R216). -/
def fLog2 (a : Nat) : FR := fLogOf a (fun l => l.2 * (fxOne : Int) + (l.1 * fxOne / fxLn2 : Nat)) 2 Config.log2

/-- ln: within 3 ulp (R216). -/
def fLn (a : Nat) : FR := fLogOf a (fun l => l.2 * (fxLn2 : Int) + (l.1 : Nat)) 3 Config.ln

/-- tanh: within 2 ulp and 2^-24 (R216). -/
def fTanh (a : Nat) : FR :=
  let x := fRead a
  let w := Config.tanh (BitVec.ofNat 32 a)
  let near1 : Span := { neg := x.1.neg, lo := fxOne - fxSlack, hi := fxOne, e := -160, below := true }
  match x.1.cls with
  | .nan => { v := fNaN }
  | .inf => { v := if x.1.neg then 0xBF800000 else fOne }
  | .zero => ({ neg := x.1.neg, lo := 0, hi := 0, e := -160 } : Span).result 2 true (Config.tanh (BitVec.ofNat 32 (fZero x.1.neg))) x.2
  | .fin =>
    if x.1.big 6 then near1.result 2 true w 0
    else if !x.1.big (-20) then
      -- x - x^3/3 < tanh x < x
      ({ neg := x.1.neg, lo := x.1.m.natAbs * (2 ^ 41 - 1), hi := x.1.m.natAbs * 2 ^ 41, e := x.1.e - 41, below := true } : Span).result 2 true w 0
    else
      -- (E - 1) / (E + 1) with E = e^(2|x|)
      let E := spanExp { x.1 with m := x.1.m.natAbs, e := x.1.e + 1 }
      let t := fun (n : Nat) =>
        let v := n * 2 ^ (E.e + 160).toNat
        (v - fxOne) * fxOne / (v + fxOne)
      ({ neg := x.1.neg, lo := t E.lo, hi := min fxOne (t E.hi + 1), e := -160, below := true } : Span).result 2 true w 0

/-- sigmoid: within 2 ulp and 2^-24 (R216). -/
def fSigmoid (a : Nat) : FR :=
  let x := fRead a
  match x.1.cls with
  | .nan => { v := fNaN }
  | .inf => { v := if x.1.neg then 0 else fOne }
  | _ =>
    let w := Config.sigmoid (BitVec.ofNat 32 (if x.1.cls == .zero then fZero x.1.neg else a))
    if x.1.big 8 then
      if x.1.neg then { v := 0, flush := 1 }
      else ({ lo := fxOne - fxSlack, hi := fxOne, e := -160, below := true } : Span).result 2 true w 0
    else
      -- with E = e^-|x| = T * 2^(-160 - j): E / (1 + E) below zero, 1 / (1 + E) from zero on
      let E := spanExp { x.1 with m := -(x.1.m.natAbs : Int) }
      let j := (-160 - E.e).toNat
      let d := fun (n : Nat) => fxOne + n / 2 ^ j
      if x.1.neg then
        ({ lo := E.lo * fxOne / (d E.lo + 1), hi := min (2 ^ (159 + j)) (E.hi * fxOne / d E.hi + 1), e := E.e, below := true } : Span).result 2 true w x.2
      else ({ lo := fxOne * fxOne / (d E.hi + 1), hi := min fxOne (fxOne * fxOne / d E.lo + 1), e := -160, below := true } : Span).result 2 true w x.2

/-- The order of min and max: -0 below +0 (R215); both operands are not NaN. -/
def fLt (a b : Nat) : Bool :=
  let key := fun (w : Nat) => if bit w 31 then -((w % 2 ^ 31 : Nat) : Int) - 1 else (w % 2 ^ 31 : Nat)
  decide (key a < key b)

/-- An operand with a subnormal read as zero with its sign (R215). -/
def fFlushed (w : Nat) : Nat := if (fRead w).2 == 1 then fZero (bit w 31) else w % 2 ^ 32

/-- min and max (R215). -/
def fMinMax (mx : Bool) (a b : Nat) : FR :=
  let x := fRead a
  let y := fRead b
  let fl := x.2 + y.2
  if x.1.cls == .nan || y.1.cls == .nan then { v := fNaN, flush := fl }
  else
    let a := fFlushed a
    let b := fFlushed b
    { v := if fLt a b == mx then b else a, flush := fl }

/-- abs, neg and copysign: sign operations on the operand as the lanes read it; a NaN is written as the one NaN (R215). -/
def fSign (a : Nat) (neg : Bool) : FR :=
  let x := fRead a
  if x.1.cls == .nan then { v := fNaN } else { v := b2n neg * 2 ^ 31 + fFlushed a % 2 ^ 31, flush := x.2 }

/-- IEEE comparison of two operands as the lanes read them: none when either is NaN. -/
def fCmp (a b : Nat) : Option Ordering :=
  let x := (fRead a).1
  let y := (fRead b).1
  if x.cls == .nan || y.cls == .nan then none
  else
    let key := fun (w : Nat) (z : Elem) => if z.cls == .zero then (0 : Int) else if z.neg then -((w % 2 ^ 31 : Nat) : Int) else (w % 2 ^ 31 : Nat)
    some (compare (key a x) (key b y))

/-- Is an FP32 pattern finite (zero and subnormals included). -/
def fFinite (w : Nat) : Bool := bits w 30 23 != 255

end Sys2Proof.Machine
end

