-- ==== Sys2Proof/Machine/Convert.lean ====
section
/-!
DEFINITION. Scales (R133 to R139, R152), output conversion (R118 to R127, R146 to R150), the merges of maxima and
estimates (R137, R138), budgets and reconversion (R142, R144), and the module summary of a tensor (R168, R169).
-/

namespace Sys2Proof.Machine

/-! ### Scale entries (R155, R156) -/

def scl.thetaInit (e : Nat) : Nat := bits e 31 24
def scl.strict (e : Nat) : Bool := bit e 23
def scl.satShift (e : Nat) : Nat := bits e 20 16
def scl.h (e : Nat) : Nat := bits e 15 12
def scl.k (e : Nat) : Nat := bits e 11 8 + 1
def scl.aMax (e : Nat) : Nat := bits e 7 4
def scl.adj (e : Nat) : Nat := bits e 59 56
def scl.calm (e : Nat) : Nat := bits e 63 60
def scl.thetaNow (e : Nat) : Nat := bits e 71 64
def scl.srcNow (e : Nat) : Nat := bits e 73 72
def scl.head (e : Nat) : Nat := bits e 77 74
def scl.a8Ptr (e : Nat) : Nat := bits e 127 96
/-- History entry i; none: empty (R155). -/
def scl.hist (e i : Nat) : Option Int :=
  let v := bits e (128 + 16 * i + 15) (128 + 16 * i)
  if v == 0x8000 then none else some (sext 16 v)

/-- The largest exponent among the newest k entries of the history (R135). -/
def scl.H (e : Nat) : Option Int :=
  maxI ((List.range (scl.k e)).filterMap (fun i => scl.hist e ((scl.head e + 16 - i) % 16)))

/-- The scale derived from a reference exponent, as stored: tau + 127, or sigma_t, clamped (R133). -/
def thetaOf (f : Fmt) (E : Int) : Nat :=
  let P : Int := match f with
    | .e4m3 => 8
    | .e5m2 => 15
    | .int8 | .b8 => 6
    | _ => 2
  (max 1 (min 254 (E + 1 - P + 127))).toNat

/-- A scale decision: the stored scale and the policy that set it (R133 to R139). -/
structure ScaleDec where
  theta : Nat
  src : Nat
  deriving DecidableEq, Repr

/-- The lookback decision (R135). -/
def lookback (e : Nat) (f : Fmt) : ScaleDec :=
  match scl.H e with
  | some H => ⟨thetaOf f (H + scl.h e + scl.adj e), 0⟩
  | none => ⟨scl.thetaInit e, 3⟩

/-- The scale of a tensor under its policy (R134 to R139): none while it is not available (R140). DESIGN CHOICE (log 98): a
scanned tensor with no finite nonzero output, which needs no scale, records that of E_ref = 0; under scout a merge without any
estimate, not untrusted, leaves `theta_init`. -/
def scaleDecide (e : Nat) (f : Fmt) (policy : Nat) (t : TensorConv) : Option ScaleDec :=
  let scan : Option ScaleDec :=
    if f.isBlock then some ⟨0xFE, 1⟩
    else if t.maxReady then
      some ⟨match t.max with
        | some y => thetaOf f y.log2
        | none => thetaOf f 0, 1⟩
    else none
  if t.reconv then scan
  else match policy with
    | 0 => some (lookback e f)
    | 1 => scan
    | 2 =>
      if !t.estReady then none
      else if t.untrusted then some (lookback e f)
      else match t.est with
        | some E => some ⟨thetaOf f (E + scl.h e + scl.adj e), 2⟩
        | none => some ⟨scl.thetaInit e, 2⟩
    | _ => some ⟨scl.thetaInit e, 3⟩

/-! ### Finished records -/

/-- One finished output: its core, place in the record table, output row and column, and its channel scales. -/
structure FinRec where
  core : CoreId
  slot : Nat
  entry : Nat
  row : Nat
  col : Nat
  sm : Nat
  se : Int
  /-- The cell operation its pass ran under (R131). -/
  op : Nat := 0
  deriving DecidableEq, Repr

/-- The records of a finished pass (R63, R75, R82). -/
def Finished.recs (c : CoreId) (f : Finished) : List FinRec :=
  (liveWaves f.desc f.mask).flatMap (fun n =>
    let a := slGet (1, 0) f.sa n
    f.cols.map (fun g =>
      let w := slGet (1, 0) f.sw g
      { core := c, slot := desc.slotBase f.desc + n, entry := g + (if f.right then 16 else 0), op := f.op,
        row := (desc.rowBase f.desc + n) % 2 ^ 24, col := (desc.colBase f.desc + g) % 2 ^ 20,
        sm := w.1 * a.1, se := w.2 + a.2 }))

/-- The finished records of a tensor on a core. -/
def State.finRecs (s : State) (c : CoreId) (tensor : Nat) : List FinRec :=
  ((s.core c).done.filter (fun f => desc.tensor f.desc == tensor)).flatMap (Finished.recs c)

/-- Is a finished pass one that a conversion of a tensor into a region takes: not converted yet, or in a reconversion those of that
region that it has not taken yet (R82, R144). -/
def Finished.due (tensor : Nat) (reconv : Bool) (dst : Nat) (f : Finished) : Bool :=
  desc.tensor f.desc == tensor && !f.again && (f.dst.isNone || (reconv && f.dst == some dst))

/-- The records that a conversion takes. -/
def State.convRecs (s : State) (c : CoreId) (tensor dst : Nat) : List FinRec :=
  ((s.core c).done.filter (Finished.due tensor (s.tensor tensor).reconv dst)).flatMap (Finished.recs c)

/-- The cores that hold finished records, by number. -/
def State.coresWith (s : State) (tensor : Nat) : List CoreId :=
  (s.cores.filter (fun p => p.2.done.any (fun f => desc.tensor f.desc == tensor))).map
    (fun p => coreNo (cluNo (p.1 / 52 / 105) (p.1 / 52 % 105)) (p.1 % 52))

/-- The output value of a finished record (R118, R119), in code units under an operation of R91. DESIGN CHOICE (log 99): no tau
of an integer operand is applied, since R119 holds none and no field of a pass names it. -/
def State.outVal (s : State) (r : FinRec) : OutVal := (s.wide r.core r.slot r.entry).out r.sm r.se

/-- The largest magnitude of a list of outputs (R137). -/
def maxMag (l : List OutVal) : Option Q :=
  l.foldl (fun m o =>
    if o.cls != .fin then m
    else match m with
      | none => some o.y
      | some y => if y.magLt o.y then some o.y else m) none

/-- The smaller or larger of two exact numbers. -/
def Q.pick (mx : Bool) (a b : Q) : Q :=
  let e := min a.e b.e
  let x := a.num * b.den * (2 ^ (a.e - e).toNat : Nat)
  let y := b.num * a.den * (2 ^ (b.e - e).toNat : Nat)
  if decide (x < y) == mx then b else a

/-- The exact minimum and maximum of each column of a list of outputs (R152); 0 belongs to every range. -/
def colRanges (l : List (FinRec × OutVal)) : List (Nat × (Q × Q)) :=
  l.foldl (fun a p =>
    if p.2.cls == .fin then
      let r := slGet (({ num := 0 } : Q), ({ num := 0 } : Q)) a p.1.col
      slSet a p.1.col (Q.pick false r.1 p.2.y, Q.pick true r.2 p.2.y)
    else a) []

/-- The finished outputs of a tensor on every core of the module. -/
def State.finOuts (s : State) (t : Nat) : List (FinRec × OutVal) :=
  (s.coresWith t).flatMap (fun c => (s.finRecs c t).map (fun r => (r, s.outVal r)))

/-- SCAN_MAXIMUM_MERGE: the module-wide maximum of a tensor, and the range of each of its columns, reach the converting cores
(R137, R152). -/
def execScanMaximumMerge (tensor : BitVec 16) (s : State) : Host.Outcome State Fault Refusal :=
  let t := tensor.toNat
  let l := s.finOuts t
  .next (if s.live then
    (s.setTensor t { s.tensor t with max := maxMag (l.map (fun p => p.2)), maxReady := true, ranges := colRanges l }).scaleCome t
  else s)

/-- The clusters whose scale table holds a tensor. -/
def State.clusWithScale (s : State) (t : Nat) : List Clu := s.allClus.filter (fun c => (s.sclFind c t).isSome)

/-- Pool offset of the range descriptor of a tensor in a cluster's scout table (R203). -/
def State.rangeDesc (s : State) (c : Clu) (t : Nat) : Option Nat :=
  let base := s.get F.SCT_CFG_base (cluU c) * 4096
  ((List.range (s.get F.SCT_CFG_entries (cluU c))).find? (fun k => s.ld (poolAt c (base + 64 * k)) 2 == t)).map
    (fun k => base + 64 * k)

/-- Has a cluster still to give its estimate of a tensor that it produces: the call of its scout table has not been queued in the
lap, or a range call of the tensor waits or runs (R203). A cluster that gave up its lap gives none. -/
def State.estPending (s : State) (c : Clu) (t : Nat) : Bool :=
  let x := s.clu c
  s.cluOn c && !x.abandoned && (s.rangeDesc c t).isSome
    && (!x.ranged.contains t || x.calls.any (fun k =>
      (k.range || bits (s.ld (poolAt c k.off) 64) 18 16 == 3) && s.ld (poolAt c k.off) 2 == t))

/-- SCOUT_ESTIMATE_MERGE: the estimate merged over every producing cluster, once each has given its own (R203), reaches the
converting cores; an untrusted one makes the tensor convert under lookback and reports CLU_SCALE_FALLBACK (R138, R154). -/
def execScoutEstimateMerge (tensor : BitVec 16) (s : State) : Host.Outcome State Fault Refusal :=
  let t := tensor.toNat
  let x := s.tensor t
  .next (if s.live && !(s.clusWithScale t).any (fun c => s.estPending c t) then
    let s := (s.setTensor t { x with estReady := true }).scaleCome t
    if x.untrusted && !x.estReady then
      (s.clusWithScale t).foldl (fun s c => (s.sclPost c 4 t).count c t (Evs.one ctr.fallback 1)) s
    else s
  else s)

/-! ### A8 channels (R151, R152) -/

/-- An FP32 pattern at or above a nonnegative exact value (rounded upward), +0 for 0. DESIGN CHOICE (log 121): one below 2^-126
becomes 2^-126 and one beyond the largest finite number +infinity. -/
def fp32Ceil (y : Q) : Nat :=
  if y.num ≤ 0 then 0 else fp32Up y

/-- The list of privileged columns of an A8 extension: channel j's column; none without an extension (R155). -/
def State.a8Cols (s : State) (c : Clu) (e : Nat) : List Nat :=
  if !bit e 49 then [] else (List.range 256).map (fun j => s.ld (poolAt c (scl.a8Ptr e + 4 * j)) 4)

/-- The value of an FP32 pattern scaled by 2^k, as an exact number; patterns that are not finite count as 0. -/
def fScaled (w : Nat) (k : Int) : Q := let x := (fRead w).1; { num := x.m, e := x.e + k }

/-- The envelope of the newest k ring entries of channel j: minimum and maximum (R152); none when all are empty, an
entry with both zero counting as empty. -/
def State.a8Env (s : State) (c : Clu) (e j : Nat) : Option (Q × Q) :=
  let at' := fun (i : Nat) =>
    let o := scl.a8Ptr e + 1024 + 128 * j + 8 * ((scl.head e + 16 - i) % 16)
    (s.ld (poolAt c o) 4, s.ld (poolAt c (o + 4)) 4)
  let used := ((List.range (scl.k e)).filter (fun i => (scl.hist e ((scl.head e + 16 - i) % 16)).isSome)).map at'
  match used with
  | [] => none
  | p :: l => some (l.foldl (fun a q => (Q.pick false a.1 (fVal q.1), Q.pick true a.2 (fVal q.2))) (fVal p.1, fVal p.2))

/-- The descriptor of a channel whose range is [lo, hi] after headroom (R152): scale and zero point. -/
def a8Choose (lo hi : Q) : Nat × Nat :=
  let z0 : Q := { num := 0 }
  let lo := Q.pick false lo z0
  let hi := Q.pick true hi z0
  let e := min lo.e hi.e
  let d := hi.num * (2 ^ (hi.e - e).toNat : Nat) - lo.num * (2 ^ (lo.e - e).toNat : Nat)
  let sc := fp32Ceil { num := d, den := 254, e := e }
  if sc == 0 then (0, 0)
  else
    let v := fVal sc
    (sc, (Rnd.rne.at (-lo.num) v.num.natAbs (lo.e - v.e) 0).toNat % 256)

/-- The exact minimum and maximum of a column's outputs in the module in the present lap (R152 under scan). -/
def State.a8Range (s : State) (t col : Nat) : Q × Q :=
  slGet ({ num := 0 }, { num := 0 }) (s.tensor t).ranges col

/-! ### Writing a tensor's outputs -/

/-- The least and greatest of a list of numbers. -/
def minMaxN (l : List Nat) : Nat × Nat :=
  match l with
  | [] => (0, 0)
  | x :: xs => (xs.foldl min x, xs.foldl max x)

/-- What a conversion writes: bytes at offsets from the output region, and events. -/
structure ConvOut where
  writes : List (Nat × List Byte)
  evs : Evs
  deriving DecidableEq, Repr

/-- Element formats: row-major from the least row and column (log 12). INT4 packs two columns per byte; DESIGN CHOICE (log 119):
the nibble of a column without an output is written as 0. -/
def convElems (f : Fmt) (tau : Int) (rnd : Nat → Nat → Rnd) (recs : List (FinRec × OutVal)) : ConvOut :=
  let rows := minMaxN (recs.map (fun p => p.1.row))
  let cols := minMaxN (recs.map (fun p => p.1.col))
  let W := cols.2 - cols.1 + 1
  let enc := recs.map (fun p => (p.1, encodeElem f (rnd p.1.row p.1.col) tau p.2))
  let evs := Evs.sum (enc.map (fun p => p.2.2))
  match f with
  | .int4 =>
    let keys := (enc.map (fun p => ((p.1.row - rows.1) * ((W + 1) / 2) + (p.1.col - cols.1) / 2))).eraseDups
    let nib := fun (k b : Nat) =>
      match enc.find? (fun p => (p.1.row - rows.1) * ((W + 1) / 2) + (p.1.col - cols.1) / 2 == k && (p.1.col - cols.1) % 2 == b) with
      | some p => p.2.1
      | none => 0
    { writes := keys.map (fun k => (k, [BitVec.ofNat 8 (nib k 0 + 16 * nib k 1)])), evs := evs }
  | _ =>
    let w := f.width / 8
    { writes := enc.map (fun p => (((p.1.row - rows.1) * W + (p.1.col - cols.1)) * w, toBytes w p.2.1)), evs := evs }

/-- Block formats: one carrier per row and 96 columns (R146). -/
def convBlocks (f : Fmt) (sigT : Nat) (rnd : Nat → Nat → Rnd) (recs : List (FinRec × OutVal)) : ConvOut :=
  let rows := minMaxN (recs.map (fun p => p.1.row))
  let cols := minMaxN (recs.map (fun p => p.1.col / 96))
  let nc := cols.2 - cols.1 + 1
  let keys := (recs.map (fun p => (p.1.row, p.1.col / 96))).eraseDups
  let outs := keys.map (fun k =>
    let mine := recs.filter (fun p => p.1.row == k.1 && p.1.col / 96 == k.2)
    let os := (List.range 96).map (fun j =>
      match mine.find? (fun p => p.1.col % 96 == j) with
      | some p => p.2
      | none => OutVal.none)
    let r := encodeCarrier f sigT (fun j => rnd k.1 (k.2 * 96 + j)) os
    (((k.1 - rows.1) * nc + (k.2 - cols.1)) * f.carrierBytes, r.bytes, r.evs))
  { writes := outs.map (fun p => (p.1, p.2.1)), evs := Evs.sum (outs.map (fun p => p.2.2)) }

/-- A8: channel j of the region is the j-th privileged column this core holds, in the order of its finished records: a DESIGN
CHOICE (log 120), since no rule says which channel of the region a column takes (R110, R126, R151). `chan col j` is its
descriptor as scale and zero point. DESIGN CHOICE (log 100): a column that the list does not hold writes nothing and counts
nothing; of an invalid descriptor under fixed the magnitude of the scale is used. -/
def convA8 (chan : Nat → Nat → Nat × Nat) (listed : List Nat) (fixed : Bool) (rnd : Nat → Nat → Rnd)
    (recs : List (FinRec × OutVal)) : ConvOut :=
  let rows := minMaxN (recs.map (fun p => p.1.row))
  let n := rows.2 - rows.1 + 1
  let L := (n + 31) / 32 * 32
  let cols := ((recs.map (fun p => p.1.col)).eraseDups).filter (fun c => listed.contains c)
  let tab := if fixed then [] else cols.zipIdx.map (fun p =>
    let d := chan p.1 p.2
    (8 * p.2, toBytes 8 (p.1 % 65536 * 2 ^ 40 + d.2 * 2 ^ 32 + d.1)))
  let outs := recs.filterMap (fun p =>
    match cols.idxOf? p.1.col with
    | none => none
    | some j =>
      let d := chan p.1.col j
      let v := fVal d.1
      let r := encodeA8 (rnd p.1.row p.1.col) v.num.natAbs v.e d.2 p.2
      some (0x800 + j * L + (p.1.row - rows.1), [BitVec.ofNat 8 r.1], r.2))
  { writes := tab ++ outs.map (fun p => (p.1, p.2.1)), evs := Evs.sum (outs.map (fun p => p.2.2)) }

/-- Write the scale in effect and its source into a tensor's scale entry at place a; a reconversion keeps the source of the
first conversion, which R143 reads (R155). What they were before the lap is kept for a veto (R136). -/
def State.setTheta (s : State) (c : Clu) (t a : Nat) (d : ScaleDec) (reconv : Bool) : State :=
  let e := s.sclWord a
  let k := s.clu c
  let s := if (slFind k.thetaOld t).isSome then s else s.setClu c { k with thetaOld := slSet k.thetaOld t (bits e 73 64) }
  let e := setBits e 71 64 d.theta
  s.st a 64 (if reconv then e else setBits e 73 72 d.src)

/-- Count the events of a conversion under policy `pol`: a strict tensor's first conversion collects them in its buffer (R166). -/
def State.countConv (s : State) (c : Clu) (t pol : Nat) (strict : Bool) (ev : Evs) : State :=
  let x := s.tensor t
  let s := if x.reconv then s
    else s.setTensor t { x with pol := pol, written := x.written + ev.count ctr.elements, sats := x.sats + ev.count ctr.saturation }
  if strict && !x.reconv then
    let k := s.clu c
    s.setClu c { k with bufs := slSet k.bufs t ((slGet {} k.bufs t).add ev) }
  else s.count c t ev

/-- The A8 descriptor of a column, channel j of its region: from the output region under fixed, from the range of the lap under scan, else from
the envelope of its history (R139, R152). -/
def State.a8Chan (s : State) (c : Clu) (dst e t policy : Nat) (listed : List Nat) (col j : Nat) : Nat × Nat :=
  match policy with
  | 3 =>
    let d := s.ld (dst + 8 * j) 8
    (bits d 31 0, bits d 39 32)
  | 1 => let r := s.a8Range t col; a8Choose r.1 r.2
  | _ =>
    match s.a8Env c e ((listed.idxOf? col).getD 0) with
    | some r =>
      let k := (scl.h e + scl.adj e : Nat)
      a8Choose { r.1 with e := r.1.e + k } { r.2 with e := r.2.e + k }
    | none => let r := s.a8Range t col; a8Choose r.1 r.2

/-- The physical place an output region's address names: a place of R267 with its physical unit (log 12). -/
def physPlace (p : Nat) : Nat := if bits p 63 61 == 0 then p % 2 ^ 41 else p ||| 2 ^ 60

/-- The FP32 pattern next to an exact value, below it (`up` false) or above it (R152). -/
def fp32Dir (up : Bool) (y : Q) : Nat :=
  let neg := decide (y.num < 0)
  let m := y.num.natAbs
  if m == 0 then 0
  else if up != neg then setBits (fp32Up { y with num := m }) 31 31 (b2n neg)
  else
    let l := y.log2
    if l < -126 then fZero neg
    else if 127 < l then b2n neg * 2 ^ 31 + 0x7F7FFFFF
    else
      let q := l - 23
      let n := if q ≤ y.e then m * 2 ^ (y.e - q).toNat / y.den else m / (y.den * 2 ^ (q - y.e).toNat)
      b2n neg * 2 ^ 31 + (l + 127).toNat * 2 ^ 23 + n % 2 ^ 23

/-- Widen the lap's channel ranges of a tensor by finished outputs (R152). -/
def chansAdd (l : List (Nat × (Nat × Nat))) (recs : List (FinRec × OutVal)) : List (Nat × (Nat × Nat)) :=
  recs.foldl (fun l p =>
    if p.2.cls != .fin && p.2.cls != .zero then l
    else
      let y : Q := if p.2.cls == .fin then p.2.y else { num := 0 }
      let lo := fp32Dir false y
      let hi := fp32Dir true y
      match slFind l p.1.col with
      | none => slSet l p.1.col (lo, hi)
      | some r => slSet l p.1.col (if fLt lo r.1 then lo else r.1, if fLt r.2 hi then hi else r.2)) l

/-- An output of a cell operation of R91 is in code units times 2^tau (R131). -/
def OutVal.inUnits (o : OutVal) (op : Nat) (tau : Int) : OutVal := if op == 0 then o else { o with y := o.y.scale (-tau) }

/-- Note a converted region of a strict tensor: reads of it wait for the verdict (R145). -/
def State.addRegion (s : State) (t dst hi : Nat) : State :=
  let add := fun (l : List (Nat × Nat)) => ((dst, hi) :: l).eraseDups
  let s := s.setTensor t { s.tensor t with regions := add (s.tensor t).regions }
  { s with outRegs := slSet s.outRegs t (add (slGet [] s.outRegs t)) }

/-- Release a tensor's held records on every core (R145). -/
def State.releaseHeld (s : State) (t : Nat) : State :=
  (s.coresWith t).foldl (fun s c =>
    let mine := (s.finRecs c t).map (fun r => r.slot * 32 + r.entry)
    let k := s.core c
    s.setCore c { k with
      done := k.done.filter (fun q => desc.tensor q.desc != t), held := k.held.filter (fun h => !mine.contains h) }) s

/-- The records of a tensor have been converted into the region at `dst`. Those of a strict tensor stay held, after its first
conversion until the verdict, and in a reconversion until every core has converted its own (R144, R145). -/
def State.convEnd (s : State) (c : CoreId) (t dst : Nat) (strict : Bool) : State :=
  let x := s.tensor t
  let k := s.core c
  let mine := (s.convRecs c t dst).map (fun p => p.slot * 32 + p.entry)
  let due := Finished.due t x.reconv dst
  if !strict then
    s.setCore c { k with done := k.done.filter (fun q => !due q), held := k.held.filter (fun h => !mine.contains h) }
  else
    let s := s.setCore c { k with
      done := k.done.map (fun q => if due q then { q with dst := some dst, again := x.reconv } else q)
      held := (k.held ++ mine).eraseDups }
    if x.reconv && (s.coresWith t).all (fun c => (s.core c).done.all (fun q => desc.tensor q.desc != t || q.again)) then
      (s.releaseHeld t).setTensor t { s.tensor t with regions := [] }
    else s

/-- Convert the finished records of a tensor on a core into its output region (R119, R131). -/
def State.convert (s : State) (c : CoreId) (t : Nat) (dst : Nat) (f : Fmt) : State :=
  let u := coreU c
  let policy := s.get F.CORE_OUTCONV_policy u
  let x := s.tensor t
  let stoch := s.get F.CORE_OUTCONV_round u == 1
  let rnd := fun (i j : Nat) => s.rndFor c.clu t stoch (b2n x.reconv) i j
  let recs := (s.convRecs c t dst).map (fun r => (r, s.outVal r))
  let ent := s.sclFind c.clu t
  let e := (ent.map s.sclWord).getD 0
  let strict := f.needsScale && scl.strict e
  let go := fun (o : ConvOut) (d : Option ScaleDec) (pol : Nat) =>
    let s := o.writes.foldl (fun s w => s.stBytes (dst + w.1) w.2) (s.waitClose (scaleWait c t) false)
    let s := match d, ent with
      | some d, some a => s.setTheta c.clu t a d x.reconv
      | _, _ => s
    let s := s.countConv c.clu t pol strict o.evs
    let s := if f == .a8 then s.setTensor t { s.tensor t with chans := chansAdd x.chans recs } else s
    let s := if strict && !x.reconv then s.addRegion t dst (dst + (o.writes.map (fun w => w.1 + w.2.length)).foldl max 0) else s
    s.convEnd c t dst strict
  -- an output whose scale is not there yet waits for it (R140)
  let wait := s.waitOpen (scaleWait c t) 3 t s.bib
  if !f.needsScale then go (convElems f 0 rnd recs) none 3
  else
    match f with
    | .a8 =>
      let pol := if x.reconv then 1 else if policy == 2 then 0 else policy
      let pol := if pol == 0 && (scl.H e).isNone then 1 else pol
      if pol == 1 && !x.maxReady then wait
      else
        let listed := s.a8Cols c.clu e
        go (convA8 (s.a8Chan c.clu dst e t pol listed) listed (pol == 3) rnd recs)
          (some ⟨scl.thetaNow e, pol⟩) pol
    | _ =>
      match scaleDecide e f policy x with
      | none => wait
      | some d =>
        if f.isBlock then go (convBlocks f d.theta rnd recs) (some d) policy
        else
          let tau := (d.theta : Int) - 127
          go (convElems f tau rnd (recs.map (fun p => (p.1, p.2.inUnits p.1.op tau)))) (some d) policy

/-- OUTPUT_CONVERSION: a core converts the finished records of a tensor once its scale is available (R119, R140); a carrier's
address is rounded down (R117). -/
def execOutputConversion (c : CoreId) (tensor : BitVec 16) (dst : BitVec 64) (s : State) :
    Host.Outcome State Fault Refusal :=
  .next (match s.outFmt c with
    | some f =>
      let at' := if f.isBlock then carrierDown f (physPlace dst.toNat) else physPlace dst.toNat
      if s.cluOn c.clu && !(s.convRecs c tensor.toNat at').isEmpty then s.convert c tensor.toNat at' f else s
    | none => s)

/-! ### The verdict (R142, R144, R166) -/

/-- The saturation budget of n elements (R142). -/
def budget (n shift : Nat) : Nat := if shift == 31 then 0 else n / 2 ^ shift

/-- Settle a tensor's buffers on every cluster: add them to the records, or discard them and count a reconversion
(R166). DESIGN CHOICE (log 101): R144 speaks of one reconversion event, and each cluster whose record held a buffer counts
one. -/
def State.settleBufs (s : State) (t : Nat) (add : Bool) : State :=
  (s.clus.filter (fun p => (slFind p.2.bufs t).isSome)).foldl (fun s p =>
    let c := cluNo (p.1 / 105) (p.1 % 105)
    let k := s.clu c
    let ev := slGet {} k.bufs t
    let s := s.setClu c { k with bufs := slDel k.bufs t }
    s.count c t (if add then ev else Evs.one ctr.reconversion 1)) s

/-- SATURATION_VERDICT: the merged total of a tensor's conversion meets its budget; a strict tensor over budget under
lookback or scout is converted again under scan (R142, R144). -/
def execSaturationVerdict (tensor : BitVec 16) (s : State) : Host.Outcome State Fault Refusal :=
  let t := tensor.toNat
  let x := s.tensor t
  .next (
    match (s.clusWithScale t).head? with
    | none => s
    | some c =>
      let e := ((s.sclFind c t).map s.sclWord).getD 0
      if !s.live || x.verdict.isSome then s
      else
        let big := decide (budget x.written (scl.satShift e) < x.sats)
        let s := s.setTensor t { x with verdict := some big }
        if big && scl.strict e && (x.pol == 0 || x.pol == 2) then
          let s := s.settleBufs t false
          let s := s.setTensor t { s.tensor t with reconv := true, maxReady := false }
          (s.clusWithScale t).foldl (fun s c => s.sclPost c 3 t) s
        else
          let s := (s.settleBufs t true).releaseHeld t
          s.setTensor t { s.tensor t with regions := [] })

/-! ### The module summary (R168, R169) -/

/-- Offsets of the counters and bins of a record that add (R162). -/
def recCounters : List Nat := (List.range 19).map (fun i => 20 + 4 * i)
def recBins : List Nat := (List.range 66).map (fun i => 128 + 4 * i)

/-- A 2- or 4-byte field of a record. -/
def recGet (r : List Byte) (o n : Nat) : Nat := leNat ((r.drop o).take n)

/-- A record with a field replaced. -/
def recPut (r : List Byte) (o n v : Nat) : List Byte := r.take o ++ toBytes n v ++ r.drop (o + n)

/-- The counters and bins that are saturated in a merged record but in none of the records merged, each of which is reported
once (R165). -/
def newlySat (r : List Byte) (parts : List (List Byte)) : Nat :=
  ((recCounters ++ recBins).filter (fun o =>
    recGet r o 4 == 0xFFFFFFFF && !parts.any (fun p => recGet p o 4 == 0xFFFFFFFF))).length

/-- Merge record b into record a (R168); a different hist_base keeps a's histogram (R169). -/
def recMerge (a b : List Byte) : List Byte :=
  let same := recGet a 2 2 == recGet b 2 2
  let offs := if same then recCounters ++ recBins else recCounters
  let sat0 := decide (recGet a 12 1 / 2 % 2 + recGet b 12 1 / 2 % 2 ≠ 0)
  let r := offs.foldl (fun r o => recPut r o 4 (satAdd (recGet a o 4) (recGet b o 4) 0xFFFFFFFF)) a
  let sat := sat0 || offs.any (fun o => recGet r o 4 == 0xFFFFFFFF)
  let r := if expLt (recGet a 14 2) (recGet b 14 2) then recPut r 14 2 (recGet b 14 2) else r
  let r := recPut r 16 4 (max (recGet a 16 4) (recGet b 16 4))
  if sat then recPut r 12 1 (recGet r 12 1 ||| 2) else r

/-- The physical cluster of a logical position (R25). -/
def State.physClu (s : State) (ld lc : Nat) : Option Clu :=
  match s.flt.dieMap[ld]? with
  | none => none
  | some d => ((s.activeClus d)[lc]?).map (cluNo d)

/-- STATISTICS_MERGE: the records of a tensor are merged at its home cluster into the module summary (R169); a counter or bin
that the merge saturates is reported once (R165). -/
def execStatisticsMerge (tensor : BitVec 16) (s : State) : Host.Outcome State Fault Refusal :=
  let t := tensor.toNat
  let have' := s.allClus.filterMap (fun c => (s.staFind c t).map (fun a => (c, s.ldBytes a 512)))
  .next (
    if !s.live then s
    else match have' with
      | [] => s
      | (c0, r0) :: _ =>
        let home := s.physClu (recGet r0 5 1) (recGet r0 4 1)
        -- the home record comes first, so that its histogram is the one kept
        let first := ((have'.find? (fun p => some p.1 == home)).map (fun p => p)).getD (c0, r0)
        let rest := have'.filter (fun p => p.1 != first.1)
        let bad := rest.any (fun p => recGet p.2 2 2 != recGet first.2 2 2)
        let r := rest.foldl (fun a p => recMerge a p.2) first.2
        let s := { s with sums := slSet s.sums t r }
        let s := (List.range (newlySat r (have'.map (fun p => p.2)))).foldl (fun s _ => s.staPost first.1 3 t) s
        if bad then { s.staPost first.1 2 t with mism := if s.mism.contains t then s.mism else t :: s.mism } else s)

end Sys2Proof.Machine
end

