-- ==== Sys2Proof/Machine/Governor.lean ====
section
/-!
DEFINITION. The precision governor: layer and rule entries (R175, R176), conditions (R177), actions (R178), evaluation
(R180), overrides (R185), agreement (R183), and the hurdle that adopts the delivered words (R45, R46, R53, R84).
-/

namespace Sys2Proof.Machine

/-! ### Layer and rule entries (R175, R176) -/

/-- Pool place of layer entry i. -/
def State.layAt (s : State) (c : Clu) (i : Nat) : Nat := poolAt c (s.get F.GOV_CFG_base (cluU c) * 4096 + 64 * i)

/-- Layer entry i of a cluster. -/
def State.lay (s : State) (c : Clu) (i : Nat) : Nat := s.ld (s.layAt c i) 64

/-- Write layer entry i. -/
def State.setLay (s : State) (c : Clu) (i e : Nat) : State := s.st (s.layAt c i) 64 e

/-- Rule r of a cluster's table. -/
def State.rule (s : State) (c : Clu) (r : Nat) : Nat :=
  s.ld (poolAt c (s.get F.GOV_CFG_base (cluU c) * 4096 + 64 * s.get F.GOV_CFG_layers (cluU c) + 16 * r)) 16

def lay.check (e : Nat) : Nat := bits e 511 480
def lay.mode (e : Nat) : Nat := bits e 319 288
def lay.align (e : Nat) : Nat := bits e 351 320
def lay.outconv (e : Nat) : Nat := bits e 383 352
def lay.since (e : Nat) : Nat := bits e 179 176
def lay.minHold (e : Nat) : Nat := bits e 183 180
def lay.ruleFirst (e : Nat) : Nat := bits e 223 215
def lay.ruleCount (e : Nat) : Nat := bits e 214 206
def lay.ovrMask (e : Nat) : Nat := bits e 175 173
/-- Watched tensor of slot i, none when unused. -/
def lay.tensor (e i : Nat) : Option Nat :=
  let t := bits e (239 + 16 * i) (224 + 16 * i)
  if t == 0xFFFF then none else some t
/-- The watched tensors in use. -/
def lay.tensors (e : Nat) : List Nat := (List.range 4).filterMap (lay.tensor e)

/-- An override: mask, mode word, CORE_ALIGN, CORE_OUTCONV (R175). -/
abbrev Override := Nat × Nat × Nat × Nat

/-- The override fields of a layer entry (R175). -/
def lay.ovr (e : Nat) : Override := (lay.ovrMask e, bits e 415 384, bits e 447 416, bits e 479 448)

/-- The words of a layer under an override: mode word, CORE_ALIGN, CORE_OUTCONV (R180). -/
def lay.wordsBy (e : Nat) (o : Override) : Nat × Nat × Nat :=
  (if bit o.1 0 then o.2.1 else lay.mode e, if bit o.1 1 then o.2.2.1 else lay.align e,
    if bit o.1 2 then o.2.2.2 else lay.outconv e)

/-- The words of a layer with the override its entry holds (R180). -/
def lay.words (e : Nat) : Nat × Nat × Nat := lay.wordsBy e (lay.ovr e)

/-- The words delivered for layer i of a home cluster's table: a strobed override waits for the next evaluation (R185). -/
def State.layWords (s : State) (c : Clu) (i : Nat) : Nat × Nat × Nat :=
  let e := s.lay c i
  lay.wordsBy e ((slFind (s.clu c).pinned i).getD (lay.ovr e))

/-- Does a rule entry hold a reserved value (R176, R178). DESIGN CHOICE (log 123): a `value` that the field it sets would hold as a
reserved encoding is none. -/
def ruleReserved (r : Nat) : Bool :=
  bits r 95 88 != 0 || bits r 75 73 != 0 || bits r 53 0 != 0 || decide (13 < bits r 79 76) || decide (4 < bits r 66 64)
    || decide (18 < bits r 63 59) || decide (3 < bits r 56 54)

/-- Does a mode word, a CORE_ALIGN or a CORE_OUTCONV hold a reserved value (R44, R98, R130). -/
def wordsReserved (w : Nat × Nat × Nat) : Bool :=
  let m := w.1
  decide (5 < mode.op m) || decide (4 < mode.wWidth m) || decide (4 < mode.aWidth m) || decide (10 < mode.runLog2 m)
    || bit m 20 || bits m 15 0 != 0 || bits w.2.1 31 8 != 0
    || (Fmt.ofCode (bits w.2.2 3 0)).isNone || decide (1 < bits w.2.2 9 8) || bits w.2.2 7 4 != 0
    || bits w.2.2 31 12 != 0

/-- Does a layer entry hold a reserved value, in a field of its own or in its words in effect (R175, R179). -/
def layReserved (e : Nat) : Bool :=
  bits e 172 168 != 0 || bits e 159 0 != 0
    || [bits e 205 203, bits e 202 200, bits e 199 197, bits e 196 194].any (fun w => decide (4 < w))
    || wordsReserved (lay.mode e, lay.align e, lay.outconv e)

/-- Is a layer's evaluation void (R179). -/
def State.layVoid (s : State) (c : Clu) (e : Nat) : Bool :=
  let n := s.get F.GOV_CFG_rules (cluU c)
  layReserved e
    || decide (n < lay.ruleFirst e + lay.ruleCount e)
    || decide (bits e 199 197 < bits e 205 203) || decide (bits e 196 194 < bits e 202 200)
    || (List.range (lay.ruleCount e)).any (fun k => ruleReserved (s.rule c (lay.ruleFirst e + k)))

/-- Is any watched summary of a layer missing or partial (R173, R174). -/
def State.layPartial (s : State) (e : Nat) : Bool :=
  (lay.tensors e).any (fun t => match slFind s.gsums t with
    | some g => !g.complete
    | none => true)

/-! ### Conditions and actions (R177, R178) -/

/-- The comparison `cmp` of R176. -/
def govCmp (cmp a b : Nat) : Bool :=
  match cmp with
  | 0 => decide (b < a)
  | 1 => decide (b ≤ a)
  | 2 => decide (a < b)
  | 3 => decide (a ≤ b)
  | _ => true

/-- A rule's condition on a summary that has no `sat` bit (R177). -/
def govCondOn (r : Nat) (g : GroupSum) : Bool :=
  let c := g.ctrs.getD (bits r 63 59) 0
  let q := 2 ^ bits r 71 67
  let k := bits r 127 96
  let cmp := bits r 66 64
  let z := g.bins.foldl (· + ·) 0
  match bits r 56 54 with
  | 0 => govCmp cmp (c * q) (g.ctrs.getD ctr.elements 0)
  | 1 => govCmp cmp c (k * q)
  | 2 =>
    if z == 0 then false
    else
      let nz := (List.range 66).filter (fun i => g.bins.getD i 0 != 0)
      govCmp cmp ((minMaxN nz).2 - (minMaxN nz).1) k
  | _ =>
    if z == 0 then false
    else
      let below := (List.range 64).filter (fun i : Nat => decide (g.base + (i : Int) < g.maxExp.getD 0 - (k : Int)))
      let t := g.bins.getD 0 0 + (below.map (fun i => g.bins.getD (i + 1) 0)).foldl (· + ·) 0
      govCmp cmp (t * q) z

/-- A rule's condition, and whether it read a summary with `sat` set (R177). -/
def State.govCond (s : State) (e r : Nat) : Bool × Bool :=
  if bits r 66 64 == 4 then (true, false)
  else match lay.tensor e (bits r 58 57) with
    | none => (false, false)
    | some t =>
      match slFind s.gsums t with
      | none => (false, false)
      | some g => if g.sat then (false, true) else (govCondOn r g, false)

/-- A pending decision: the three words, the scale word of slot 0, and whether a rule set `run_log2`. -/
structure Decision where
  mode : Nat
  align : Nat
  outconv : Nat
  sw : Nat
  ran : Bool := false
  deriving DecidableEq, Repr

/-- Apply a rule's action (R178); widths move along the encodings 0 to 4 and stop at either end. -/
def govApply (r : Nat) (d : Decision) : Decision :=
  let v := bits r 87 80
  match bits r 79 76 with
  | 1 => { d with mode := setBits d.mode 27 25 (min 4 (mode.wWidth d.mode + v)) }
  | 2 => { d with mode := setBits d.mode 27 25 (mode.wWidth d.mode - v) }
  | 3 => { d with mode := setBits d.mode 24 22 (min 4 (mode.aWidth d.mode + v)) }
  | 4 => { d with mode := setBits d.mode 24 22 (mode.aWidth d.mode - v) }
  | 5 => { d with align := setBits d.align 3 0 v }
  | 6 => { d with align := setBits d.align 7 4 v }
  | 7 => { d with mode := setBits d.mode 19 16 v, ran := true }
  | 8 => { d with outconv := setBits d.outconv 3 0 v }
  | 9 => { d with outconv := setBits d.outconv 11 10 v }
  | 10 => { d with sw := setBits d.sw 15 12 v }
  | 11 => { d with sw := setBits d.sw 23 23 v }
  | 12 => { d with sw := setBits d.sw 20 16 v }
  | 13 => { d with sw := setBits d.sw 11 8 v }
  | _ => d

/-- Is a rule skipped although it fires (R180): a width action on another operation than multiply-add, or a narrowing
action on a sensitive layer. -/
def govSkip (e r : Nat) (d : Decision) : Bool :=
  let a := bits r 79 76
  (decide (1 ≤ a ∧ a ≤ 4) && mode.op d.mode != 0)
    || (bit e 193 && (a == 2 || a == 4 || (a == 8 && (bits r 83 80 == 6 || bits r 83 80 == 8))))

/-- Post GOV_STATUS (R189, R192). -/
def State.govPost (s : State) (c : Clu) (code i : Nat) : State :=
  s.post R.GOV_STATUS (cluU c) [(F.GOV_STATUS_layer, i)] code (dieSrc c.die 2)

/-- Run a layer's rules in order until one fires with `last` set (R180). -/
def State.govRules (s : State) (c : Clu) (i e : Nat) (d : Decision) : List Nat → State × Decision
  | [] => (s, d)
  | k :: ks =>
    let r := s.rule c k
    let q := s.govCond e r
    let s := if q.2 then s.govPost c 5 i else s
    if q.1 then
      let d := if govSkip e r d then d else govApply r d
      if bit r 72 then (s, d) else s.govRules c i e d ks
    else s.govRules c i e d ks

/-- Is a mode permitted by CLU_MODE_ALLOW (R48). -/
def State.modeAllowed (s : State) (c : Clu) (m : Nat) : Bool :=
  let u := cluU c
  let op := mode.op m
  (if op == 0 then bit (s.get F.CLU_MODE_ALLOW_mac_allow u) (5 * mode.wWidth m + mode.aWidth m)
    else bit (s.rd R.CLU_MODE_ALLOW u).toNat (24 + op))
    && (!mode.quad m || s.flag F.CLU_MODE_ALLOW_quad_allow u)

/-- Clamp an encoding into lo .. hi. -/
def clampN (x lo hi : Nat) : Nat := max lo (min hi x)

/-- Do widths or output format differ between two decisions (R180). -/
def shapeNe (m o m' o' : Nat) : Bool := bits m 27 22 != bits m' 27 22 || bits o 3 0 != bits o' 3 0

/-- Evaluate layer i, neither void nor partial (R180). -/
def State.govLayer (s : State) (c : Clu) (i : Nat) : State :=
  let e := s.lay c i
  let since := min (lay.since e + 1) 15
  let ent := (lay.tensor e 0).bind (s.sclFind c)
  let d0 : Decision := { mode := lay.mode e, align := lay.align e, outconv := lay.outconv e,
                         sw := (ent.map (fun a => s.ld a 4)).getD 0 }
  let q := s.govRules c i e d0 ((List.range (lay.ruleCount e)).map (· + lay.ruleFirst e))
  let s := q.1
  let d := q.2
  let m := d.mode
  let m := if mode.op m == 0 then
      setBits (setBits m 27 25 (clampN (mode.wWidth m) (bits e 205 203) (bits e 199 197))) 24 22
        (clampN (mode.aWidth m) (bits e 202 200) (bits e 196 194))
    else m
  let hold := shapeNe m d.outconv (lay.mode e) (lay.outconv e) && decide (since < lay.minHold e)
  let m := if hold then setBits m 27 22 (bits (lay.mode e) 27 22) else m
  let o := if hold then setBits d.outconv 3 0 (bits (lay.outconv e) 3 0) else d.outconv
  let ok := s.modeAllowed c (setBits m 21 21 0)
  let m := if ok then m else setBits m 27 22 (bits (lay.mode e) 27 22)
  let s := if ok then s else s.govPost c 2 i
  let cap := maxRunLog2 (mode.p m)
  let m := setBits m 19 16 (if d.ran then min (mode.runLog2 m) cap else cap)
  let since := if shapeNe m o (lay.mode e) (lay.outconv e) then 0 else since
  let e := setBits (setBits (setBits (setBits e 319 288 m) 351 320 d.align) 383 352 o) 179 176 since
  let s := s.setLay c i e
  match ent with
  | some a => s.st a 4 d.sw
  | none => s

/-- Void, partial or evaluated: layer i at a commit (R174, R179, R180). -/
def State.govStep (s : State) (c : Clu) (i : Nat) : State :=
  let e := s.lay c i
  if s.layVoid c e then
    let s := s.govPost c 3 i
    if s.layPartial e then s.govPost c 1 i
    else s.setLay c i (setBits e 179 176 (min (lay.since e + 1) 15))
  else if s.layPartial e then s.govPost c 1 i
  else s.govLayer c i

/-- The least array width that accepts a format as a streaming operand (R34, R180). -/
def minWidth (f : Option Fmt) : Nat :=
  match f with
  | some .int8 | some .b8 => 8
  | some .a8 => 12
  | _ => 4

/-- The consumer fix-up of layer i (R180). -/
def State.govFix (s : State) (c : Clu) (i : Nat) : State :=
  let e := s.lay c i
  let k := bits e 191 184
  if !bit e 192 || decide (s.get F.GOV_CFG_layers (cluU c) ≤ k) then s
  else
    let w := minWidth (Fmt.ofCode (bits (s.layWords c i).2.2 3 0))
    let f := s.lay c k
    let m := lay.mode f
    if mode.op m == 0 then
      if 4 * mode.s m < w then
        let m := setBits m 24 22 (w / 4 - 1)
        s.setLay c k (setBits f 319 288 (setBits m 19 16 (min (mode.runLog2 m) (maxRunLog2 (mode.p m)))))
      else s
    else if w == 8 && mode.aWidth m == 0 then s.setLay c k (setBits f 319 288 (setBits m 27 22 0b001001))
    else s

/-- The decision check word of layer i (R183). -/
def State.govCheck (s : State) (c : Clu) (i : Nat) : State :=
  let e := s.lay c i
  let w := lay.words e
  let sw := (List.range 4).map (fun k =>
    (((lay.tensor e k).bind (s.sclFind c)).map (fun a => s.ld a 4)).getD 0)
  s.setLay c i (setBits e 511 480 (crc32c (([w.1, w.2.1, w.2.2] ++ sw).flatMap (toBytes 4))))

/-- The layers of a cluster's table held for the lap: by R183 all, else the void and partial ones (R174, R179). -/
def State.heldLayers (s : State) (c : Clu) : List Nat :=
  (List.range (s.get F.GOV_CFG_layers (cluU c))).filter (fun i =>
    (s.clu c).govHold || s.layVoid c (s.lay c i) || s.layPartial (s.lay c i))

/-- The home cluster of the layer that a hurdle names on a cluster, and its index there: the cluster itself where its table
has that entry (R175, log 13). -/
def State.layHome (s : State) (c : Clu) (i : Nat) : Clu × Nat :=
  if i < s.get F.GOV_CFG_layers (cluU c) then (c, i)
  else
    let h := Config.layerHome (cluU c) i
    (cluNo (h.1 / 105) (h.1 % 105), h.2)

/-- The evaluation on the home c of its layers that are not held ends the overrides taken early (R185). -/
def State.earlyDrop (s : State) (c : Clu) (held : List Nat) : State :=
  { s with clus := s.clus.map (fun p =>
      (p.1, { p.2 with early := p.2.early.filter (fun e =>
        let h := s.layHome (cluNo (p.1 / 105) (p.1 % 105)) e.1
        h.1 != c || held.contains h.2) })) }

/-- The governor's evaluation on a cluster (R180, R183, R185). DESIGN CHOICE (log 122): while the table is held after
GOV_DIVERGED nothing but the fix-up of R180 is done, so that no GOV_PARTIAL or GOV_RESERVED is reported and `since` stays. -/
def State.govEval (s : State) (c : Clu) : State :=
  let ls := List.range (s.get F.GOV_CFG_layers (cluU c))
  if (s.clu c).govHold then ls.foldl (fun s i => s.govFix c i) s
  else
    let held := s.heldLayers c
    let s := ls.foldl (fun s i => s.govStep c i) s
    let s := s.setClu c { s.clu c with pinned := (s.clu c).pinned.filter (fun p => held.contains p.1) }
    let s := s.earlyDrop c held
    let s := ls.foldl (fun s i => s.govFix c i) s
    (ls.filter (fun i => !held.contains i)).foldl (fun s i => s.govCheck c i) s

/-! ### Overrides and delivery (R175, R185) -/

/-- A strobe of the governor's update group on a cluster: the override registers go into the layer entry; the override in
force until the next evaluation stays as it was (R185, R190). -/
def State.govStrobe (s : State) (c : Clu) : State :=
  let u := cluU c
  let i := s.get F.GOV_OVR_LAYER_layer u
  if s.get F.GOV_CFG_layers u ≤ i then s.govPost c 3 i
  else
    let e := s.lay c i
    let x := s.clu c
    let x := if (slFind x.pinned i).isSome then x else { x with pinned := slSet x.pinned i (lay.ovr e) }
    let e := setBits (setBits (setBits (setBits e 415 384 (s.rd R.GOV_OVR_MODE u).toNat)
      447 416 (s.rd R.GOV_OVR_ALIGN u).toNat) 479 448 (s.rd R.GOV_OVR_OUTCONV u).toNat)
      175 173 (s.get F.GOV_OVR_LAYER_mask u)
    (s.setClu c x).setLay c i e

/-- The words a hurdle of layer i delivers on a cluster: those of the layer's home (R175); an override that took effect at a
resume of this cluster stays in force until the evaluation, whatever is strobed meanwhile (R185, log 15). -/
def State.delivered (s : State) (c : Clu) (i : Nat) : Nat × Nat × Nat :=
  let h := s.layHome c i
  match slFind (s.clu c).early i with
  | some o => lay.wordsBy (s.lay h.1 h.2) o
  | none => s.layWords h.1 h.2

/-- At a resume of a cluster stopped at a hurdle, an override strobed for the layer takes effect on it (R46, R185). -/
def State.earlyOverride (s : State) (c : Clu) (i : Nat) : State :=
  let h := s.layHome c i
  if (slFind (s.clu h.1).pinned h.2).isSome then
    s.setClu c { s.clu c with early := slSet (s.clu c).early i (lay.ovr (s.lay h.1 h.2)) }
  else s

/-- Does the table of a layer's home hold the layer a hurdle names (R175). -/
def State.hasLayer (s : State) (c : Clu) (i : Nat) : Bool :=
  let h := s.layHome c i
  decide (h.2 < s.get F.GOV_CFG_layers (cluU h.1))

/-! ### The hurdle (R45, R46, R53, R84, R203) -/

/-- The status code of the first failed check of delivered words, none when all pass (R45, R98, R131). -/
def State.wordCheck (s : State) (c : Clu) (w : Nat × Nat × Nat) : Option Nat :=
  let m := w.1
  let op := mode.op m
  let p := mode.p m
  if wordsReserved w then some 1
  else if op != 0 && (decide (1 < mode.wWidth m) || mode.aWidth m != mode.wWidth m) then some 3
  else if !s.modeAllowed c m then some 2
  else if op == 0 && decide (maxRunLog2 p < mode.runLog2 m) then some 4
  else none

/-- The active cores of a cluster that are not in quarantine. -/
def State.goodCores (s : State) (c : Clu) : List CoreId :=
  ((s.activeCores c).map (coreNo c)).filter (fun x => !s.coreQuar x)

/-- A pending column exclusion takes effect: the shadow weights are discarded, and the hurdle takes 32 ac more; the first pass
after it loads them under the new mapping (R53). When the fault engine asked for it, the
remap is reported, with CORE_COLUMN_TEST when a column test found the column (R102, R357, R378). -/
def State.colChange (s : State) (c : CoreId) : State :=
  let u := coreU c
  let col := s.get F.CORE_COLMAP_retired_col_next u
  let unit := unitOf c.clu.die c.clu.cl c.core col
  if col == s.get F.CORE_COLMAP_retired_col u then s
  else
    let s := s.setCore c { s.core c with
      cells := (s.core c).cells.map (fun p => (p.1, p.2.map (fun x => { x with shadow := {} }))) }
    let s := (s.puts u [(F.CORE_COLMAP_retired_col, col), (F.CORE_COLMAP_spare_avail, 0)]).perfCore c 1 32
    let tested := s.flt.tested.contains unit
    let s := { s with flt := { s.flt with dirty := true, tested := s.flt.tested.filter (· != unit) } }
    if s.quarIs 1 unit then (s.fltLog 1 unit 2 (if tested then 0x0A else 0) 0).fltPost 1 unit 2 else s

/-- The generation bit flips: slot rows that hold contributions are sealed (R84). -/
def State.flip (s : State) (c : CoreId) : State :=
  s.setCore c { s.core c with
    rows := (s.core c).rows.map (fun p => if p.2.c == 0 then p else (p.1, { p.2 with cur := false })) }

/-- Words have been delivered to every core of a cluster for a hurdle and not yet checked, or they are checked (R55). -/
def State.nextPending (s : State) (c : Clu) (b : Bool) : State :=
  (s.goodCores c).foldl (fun s k => s.put F.CORE_ARRAY_STATUS_next_pending (coreU k) (b2n b)) s

/-- Check the words delivered to every core of a cluster: adopted when all pass, else the codes are written (R46). -/
def State.deliver (s : State) (c : Clu) (w : Nat × Nat × Nat) : State × Bool :=
  let s := s.nextPending c false
  match s.wordCheck c w with
  | some code => ((s.goodCores c).foldl (fun s k => s.corePost k code) s, false)
  | none =>
    ((s.goodCores c).foldl (fun s k =>
      ((s.wr R.CORE_MODE (coreU k) (BitVec.ofNat 32 w.1)).wr R.CORE_ALIGN (coreU k) (BitVec.ofNat 32 w.2.1)).wr
        R.CORE_OUTCONV (coreU k) (BitVec.ofNat 32 w.2.2)) s, true)

/-- Post SCT_STATUS (R211). -/
def State.sctPost (s : State) (c : Clu) (code tensor : Nat) : State :=
  s.post R.SCT_STATUS (cluU c) [(F.SCT_STATUS_tensor, tensor)] code (dieSrc c.die 3)

/-- An estimate of a tensor from one producing cluster reaches the merge: largest exponent, OR of untrusted (R138, R203). One
that comes after the merge has ended changes nothing. -/
def State.estimate (s : State) (tensor : Nat) (est : Option Int) (untrusted : Bool) : State :=
  let t := s.tensor tensor
  if t.estReady then s
  else s.setTensor tensor { t with
    est := match t.est, est with
      | some a, some b => some (max a b)
      | some a, none => some a
      | none, b => b
    untrusted := t.untrusted || untrusted }

/-- Queue a Scout call: range calls go ahead of direct calls that have not started; a full queue drops it (R207). DESIGN CHOICE
(log 124): the running call is one of the 8, and a range call that is dropped leaves its tensor untrusted. -/
def State.sctQueue (s : State) (c : Clu) (off : Nat) (range : Bool) : State :=
  let tensor := s.ld (poolAt c off) 2
  let x := s.clu c
  if 8 ≤ x.calls.length then
    let s := s.sctPost c 2 tensor
    if range then s.estimate tensor none true else s
  else
    let call : ScoutCall := { off := off, range := range }
    let calls := if range then
        x.calls.takeWhile (fun k => k.executed || k.range) ++ call :: x.calls.dropWhile (fun k => k.executed || k.range)
      else x.calls ++ [call]
    s.setClu c { x with calls := calls }

/-- Queue the range call of the tensor of layer i, once per lap, when its format needs a scale and its policy is
scout (R134, R203). -/
def State.rangeCall (s : State) (c : Clu) (i : Nat) (w : Nat × Nat × Nat) : State :=
  match lay.tensor (s.lay (s.layHome c i).1 (s.layHome c i).2) 0 with
  | none => s
  | some t =>
    if bits w.2.2 11 10 != 2 || !((Fmt.ofCode (bits w.2.2 3 0)).map Fmt.needsScale).getD false
        || (s.clu c).ranged.contains t then s
    else match s.rangeDesc c t with
      | none => s
      | some off => (s.setClu c { s.clu c with ranged := t :: (s.clu c).ranged }).sctQueue c off true

/-- The wavefronts a drain may have to feed: runs hold at most 256 each (R57). -/
def drainFuel (x : Core) : Nat := (x.runs.map (fun r => 258 + r.failed.length)).foldl (· + ·) 16 * 4

/-- The end of a hurdle: the delivered words are checked and adopted, or the cluster stops (R45, R46). -/
def State.hurdleEnd (s : State) (c : Clu) (layer : BitVec 16) (w : Nat × Nat × Nat) : State :=
  let r := s.deliver c w
  if r.2 then
    let s := r.1.rangeCall c layer.toNat w
    s.setClu c { s.clu c with layer := layer.toNat, hurdles := (s.clu c).hurdles + 1 }
  else r.1.stop c 1 (.hurdle c layer)

/-- A hurdle on a cluster: the words are delivered; every core drains, takes a pending column exclusion and flips its
generation; then the words are checked (R53, R55, R84, R85). -/
def State.hurdleRun (s : State) (c : Clu) (layer : BitVec 16) : State :=
  let s := (s.goodCores c).foldl (fun s k => s.drain k (drainFuel (s.core k))) (s.nextPending c true)
  if s.get F.CLU_SEQ_STATUS_stop (cluU c) != 0 then s
  else
    let s := (s.goodCores c).foldl (fun s k => ((s.colChange k).flip k).perfCore k 1 96) s
    s.hurdleEnd c layer (s.delivered c layer.toNat)

/-! ### Histories and adaptation at commit (R136, R143, R152) -/

/-- The group's, else the module's, largest exponent of a tensor in the lap (R136, log 14). -/
def State.lapExp (s : State) (t : Nat) : Option Int :=
  match slFind s.gsums t with
  | some g => g.maxExp
  | none =>
    let r := slGet [] s.sums t
    let v := recGet r 14 2
    if r.isEmpty || v == 0x8000 then none else some (sext 16 v)

/-- The verdict on a tensor's first conversion: none when it was not converted (R142, log 14). -/
def State.firstOver (s : State) (e t : Nat) : Option Bool :=
  let x := s.tensor t
  if x.written == 0 then none else some (x.verdict.getD (decide (budget x.written (scl.satShift e) < x.sats)))

/-- The adaptation offset and calm count after a commit (R143). -/
def adaptNext (e : Nat) (high : Option Bool) : Nat × Nat :=
  let a := scl.adj e
  let c := scl.calm e
  if scl.srcNow e == 1 || scl.srcNow e == 3 then (a, c)
  else match high with
    | none => (a, c)
    | some true =>
      if scl.strict e then (a, 0) else (min (a + 1) (scl.aMax e), 0)
    | some false => if c + 1 == 8 then (a - 1, 0) else (a, c + 1)

/-- The channel ranges of a tensor over the group, else of the module (R152, R172). -/
def State.lapChans (s : State) (t : Nat) : List (Nat × (Nat × Nat)) :=
  match slFind s.gsums t with
  | some g => g.chans
  | none => (s.tensor t).chans

/-- Write the history, the channel ranges and the adaptation of the scale entry at place a (R136, R143, R152). -/
def State.sclCommit (s : State) (c : Clu) (a t : Nat) : State :=
  let e := s.sclWord a
  let head := (scl.head e + 1) % 16
  let v := match s.lapExp t with
    | some x => unsx 16 x
    | none => 0x8000
  let n := adaptNext e (s.firstOver e t)
  let e' := setBits (setBits (setBits (setBits e (128 + 16 * head + 15) (128 + 16 * head) v) 77 74 head) 59 56 n.1) 63 60 n.2
  let s := s.st a 64 e'
  let s := if bit e 49 then
      (s.a8Cols c e).zipIdx.foldl (fun s p =>
        let r := slGet (0, 0) (s.lapChans t) p.1
        (s.st (poolAt c (scl.a8Ptr e + 1024 + 128 * p.2 + 8 * head)) 4 r.1).st
          (poolAt c (scl.a8Ptr e + 1024 + 128 * p.2 + 8 * head + 4)) 4 r.2) s
    else s
  if n.1 == scl.adj e then s
  else (s.sclPost c 5 t).setClu c { s.clu c with adapted := slSet (s.clu c).adapted t 1 }

/-- The tensors of a cluster's held layers (R174). -/
def State.heldTensors (s : State) (c : Clu) : List Nat :=
  (s.heldLayers c).flatMap (fun i => lay.tensors (s.lay c i))

/-- Step 3 of a commit on a cluster: every valid entry of a tensor that no held layer watches (R136, R174, R257). -/
def State.histories (s : State) (c : Clu) (held : List Nat) : State :=
  let s := s.setClu c { s.clu c with adapted := [] }
  (List.range (s.get F.CLU_SCALE_CFG_entries (cluU c))).foldl (fun s i =>
    let a := s.sclEnt c i
    let e := s.sclWord a
    let t := bits e 47 32
    if bit e 48 && !held.contains t then s.sclCommit c a t else s) s

end Sys2Proof.Machine
end

