-- ==== Sys2Proof/Machine/Vector.lean ====
section
/-!
DEFINITION. The vector engine: registers and predicates (R213), lane operations (R214 to R217), cross-lane operations
(R233), pool accesses (R234), control flow and kernels (R454 to R456).
-/

namespace Sys2Proof.Machine

/-- Take a fresh free value. -/
def State.freeVal (s : State) : Nat × State := (Config.free s.freeCtr, { s with freeCtr := s.freeCtr + 1 })

/-- Post CLU_VEC_STATUS (R238); the tensor of a kernel is not given, so `tensor` takes a free value. -/
def State.vecPost (s : State) (c : Clu) (code : Nat) : State :=
  let r := s.freeVal
  r.2.post R.CLU_VEC_STATUS (cluU c) [(F.CLU_VEC_STATUS_tensor, r.1)] code (dieSrc c.die 4)

/-- End a kernel before an instruction: the code is reported and the cluster stops before its next pass (R234, R238). -/
def State.vecEnd (s : State) (c : Clu) (code : Nat) : State :=
  let s := s.vecPost c code
  s.setClu c { s.clu c with kernel := none, stopNext := true, last := s.ns }

/-! ### Registers (R213) -/

/-- Lane l of vector register r. -/
def State.vreg (s : State) (c : Clu) (r l : Nat) : Nat := (slGet 0 (s.clu c).vreg (64 * r + l)).toNat

/-- Predicate register p (0 to 7; a larger number names its low bits). -/
def State.preg (s : State) (c : Clu) (p : Nat) : Nat := (slGet 0 (s.clu c).preg (p % 8)).toNat

/-- Write lanes of vector register r. -/
def State.setVreg (s : State) (c : Clu) (r : Nat) (l : List (Nat × Nat)) : State :=
  let x := s.clu c
  s.setClu c { x with vreg := l.foldl (fun v p => slSet v (64 * r + p.1) (BitVec.ofNat 32 p.2)) x.vreg }

/-- Write lanes of predicate register p. -/
def State.setPreg (s : State) (c : Clu) (p : Nat) (l : List (Nat × Bool)) : State :=
  let v := l.foldl (fun v q => setBits v q.1 q.1 (b2n q.2)) (s.preg c p)
  let x := s.clu c
  s.setClu c { x with preg := slSet x.preg (p % 8) (BitVec.ofNat 64 v) }

/-- Does an instruction execute in lane l (R213, R454). -/
def State.laneOn (s : State) (c : Clu) (i : VInst) (l : Nat) : Bool := bit (s.preg c i.pred) l != i.pneg

/-- The lanes in which an instruction executes. -/
def State.lanesOn (s : State) (c : Clu) (i : VInst) : List Nat := (List.range 64).filter (s.laneOn c i)

/-- Count flushes and invalid operations in CLU_VEC_EVENTS (R215, R237). -/
def State.vecEvents (s : State) (c : Clu) (flush invalid : Nat) : State :=
  (s.satUpBy F.CLU_VEC_EVENTS_flush (cluU c) flush).satUpBy F.CLU_VEC_EVENTS_invalid (cluU c) invalid

/-- Count the events of results. -/
def State.frEvents (s : State) (c : Clu) (l : List FR) : State :=
  s.vecEvents c ((l.map (fun r => r.flush)).foldl (· + ·) 0) ((l.map (fun r => r.invalid)).foldl (· + ·) 0)

/-- A lane operation: every executing lane l writes f l to `dst` and counts its events (R213, R215). -/
def State.lanes (s : State) (c : Clu) (i : VInst) (f : Nat → FR) : State :=
  let rs := (s.lanesOn c i).map (fun l => (l, f l))
  (s.setVreg c i.dst (rs.map (fun p => (p.1, p.2.v)))).frEvents c (rs.map (fun p => p.2))

/-- A lane operation on A. -/
def State.lane1 (s : State) (c : Clu) (i : VInst) (f : Nat → FR) : State := s.lanes c i (fun l => f (s.vreg c i.sa l))

/-- A lane operation on A and B. -/
def State.lane2 (s : State) (c : Clu) (i : VInst) (f : Nat → Nat → FR) : State :=
  s.lanes c i (fun l => f (s.vreg c i.sa l) (s.vreg c i.sb l))

/-- A lane operation on A, B and C. -/
def State.lane3 (s : State) (c : Clu) (i : VInst) (f : Nat → Nat → Nat → FR) : State :=
  s.lanes c i (fun l => f (s.vreg c i.sa l) (s.vreg c i.sb l) (s.vreg c i.sc l))

/-- An integer lane operation on A and B, modulo 2^32. -/
def State.laneInt (s : State) (c : Clu) (i : VInst) (f : Nat → Nat → Nat) : State :=
  s.lane2 c i (fun a b => { v := f a b % 2 ^ 32 })

/-- A compare: every executing lane writes a relation to predicate register `dst` (R456). -/
def State.laneCmp (s : State) (c : Clu) (i : VInst) (f : Nat → Nat → Bool) : State :=
  s.setPreg c i.dst ((s.lanesOn c i).map (fun l => (l, f (s.vreg c i.sa l) (s.vreg c i.sb l))))

/-! ### Relations (R456) -/

/-- FP32 relation k of two operands. -/
def fRel (k a b : Nat) : Bool :=
  match k, fCmp a b with
  | 3, none => true
  | 6, none => true
  | _, none => false
  | 0, some o => o == .eq
  | 1, some o => o == .lt
  | 2, some o => o != .gt
  | 3, some o => o != .eq
  | 4, some o => o == .gt
  | 5, some o => o != .lt
  | 6, some _ => false
  | _, some _ => true

/-- Flushes of a compare's operands (R215). -/
def fCmpFlush (a b : Nat) : Nat := (fRead a).2 + (fRead b).2

/-- Integer relation k. -/
def iRel (k a b : Nat) : Bool :=
  let x := sext 32 a
  let y := sext 32 b
  match k with
  | 0 => a == b
  | 1 => decide (x < y)
  | 2 => decide (x ≤ y)
  | 3 => a != b
  | 4 => decide (y < x)
  | 5 => decide (y ≤ x)
  | 6 => decide (a < b)
  | _ => decide (b ≤ a)

/-! ### Simple operations with rules of their own -/

/-- A or B, as the open condition of select says; the operand as the lanes read and write it (R214, R215). -/
def fSelect (a b k : Nat) : FR :=
  let w := if Config.selectA (BitVec.ofNat 32 a) (BitVec.ofNat 32 b) (BitVec.ofNat 32 k) then a else b
  { v := if (fRead w).1.cls == .nan then fNaN else fFlushed w, flush := (fRead a).2 + (fRead b).2 }

/-- Shift a by b under operation k: 0 left, 1 logical right, 2 arithmetic right; amounts of 32 and more are open. -/
def iShift (k a b : Nat) : Nat :=
  if 32 ≤ b then (Config.shiftBig k (BitVec.ofNat 32 a) (BitVec.ofNat 32 b)).toNat
  else match k with
    | 0 => a * 2 ^ b % 2 ^ 32
    | 1 => a / 2 ^ b
    | _ => unsx 32 (sext 32 a / (2 ^ b : Nat))

/-- The draw of every executing lane (R220, R221). -/
def State.vecDrawRun (s : State) (c : Clu) (i : VInst) : State :=
  (s.lanesOn c i).foldl (fun s l =>
    let x := s.clu c
    let r := (x.lane l).take x.key (s.laneStream c l)
    (s.setClu c (x.setLane l r.1)).setVreg c i.dst [(l, r.2)]) s

/-- The place in HBM of heat descriptor n of the lap (R240, R242). -/
def State.heatAt (s : State) (n : Nat) : Nat := s.lap.feedBase + 64 * ((s.lap.pi + n) % 2 ^ s.lap.feedLog2)

/-- The position of the token a lane handles (R235, R242): an entry of the descriptor's position table, on 20 bits. -/
def State.position (s : State) (c : Clu) (imm l : Nat) : Nat :=
  let d := s.heatAt imm
  let n := s.ldH (d + 8) 4
  let t := Config.laneToken (cluU c) l (BitVec.ofNat 32 imm)
  if n == 0 then t % 2 ^ 20 else s.ldH (s.ldH (d + 24) 8 + 4 * (t % n)) 4 % 2 ^ 20

/-! ### Convert (R217) -/

def cv.src (m : Nat) : Option Fmt := Fmt.ofCode (bits m 3 0)
def cv.dst (m : Nat) : Option Fmt := Fmt.ofCode (bits m 7 4)
def cv.round (m : Nat) : Nat := bits m 9 8
/-- The tensor named, if any. -/
def cv.tensor (m : Nat) : Option Nat := if bit m 10 then some (bits m 31 16) else none

/-- Does a convert instruction hold a reserved encoding. -/
def cvReserved (m : Nat) : Bool :=
  (cv.src m).isNone || (cv.dst m).isNone || decide (1 < cv.round m)

/-- A decoded element as an output (R128). -/
def elemOut (x : Elem) : OutVal := { cls := x.cls, neg := x.neg, y := { num := x.m, e := x.e } }

/-- The scale exponent of the tensor a convert instruction names, from its scale word on the cluster (R119); open where it names
none, or one that has no scale entry there. -/
def State.cvTau (s : State) (c : Clu) (m : Nat) : Int :=
  match (cv.tensor m).bind (s.sclFind c) with
  | some a => (scl.thetaNow (s.sclWord a) : Int) - 127
  | none => Config.convertTau (BitVec.ofNat 32 m)

/-- The A8 channel of a lane's element: of the named tensor's extension on the cluster, by the element's column (R139, R152);
open where there is none. The scale and the zero point. -/
def State.cvChan (s : State) (c : Clu) (m l : Nat) : Nat × Nat :=
  let col := (Config.kernelElem (cluU c) l (BitVec.ofNat 32 m)).2
  let e := ((cv.tensor m).bind (fun t => (s.sclFind c t).map (fun a => (t, s.sclWord a)))).filter (fun p => bit p.2 49)
  match e with
  | some (t, e) => s.a8Chan c 0 e t 0 (s.a8Cols c e) col 0
  | none => let d := Config.convertChan l (BitVec.ofNat 32 m)
            (d.1 % 2 ^ 32, d.2 % 256)

/-- The element a lane's operand holds in the source format, and its input events (R105 to R116, R128). A lane of B8 or B4 holds a
code, its block's scale byte and, for an outlier, its slot: where in the 32 bits is open (log 102). -/
def State.cvIn (s : State) (c : Clu) (m l a : Nat) : OutVal × Evs :=
  match cv.src m with
  | some .a8 =>
    let d := s.cvChan c m l
    let r := a8Elem (a8Desc (d.2 * 2 ^ 32 + d.1)) (a % 256)
    let q := fVal d.1
    (elemOut { r.1 with m := r.1.m * q.num, e := r.1.e + q.e }, r.2)
  | some f =>
    if f.isBlock then
      let p := Config.lanePart (BitVec.ofNat 32 a)
      let code := codeAt f [BitVec.ofNat 8 p.1] 0
      if p.2.1 % 256 == 255 then (elemOut { cls := .nan }, {})
      else match p.2.2 with
        | some w => let r := decodeFloat .bf16 (w % 65536)
                    (elemOut r.1, Evs.one ctr.inFlush (b2n r.2))
        | none => (elemOut (if p.2.1 % 256 == 0 then { cls := .zero } else codeElem code ((p.2.1 % 256 : Nat) - 127)), {})
    else
      let r := decodeAt f (if f == .int8 || f == .int4 then Config.convertTau (BitVec.ofNat 32 m) else 0) (toBytes 4 a) 0
      (elemOut r.1, r.2)
  | none => ({ cls := .zero }, {})

/-- What an element of an encoded carrier is: its code, the scale byte of its block, and its slot where it is an outlier. -/
def carrierPart (f : Fmt) (bs : List Byte) (j : Nat) : Nat × Nat × Option Nat :=
  let bb := f.carrierBytes / 4
  let n := (bs.getD (3 * bb + 3) 0).toNat % 16
  let slot := ((List.range n).map (fun i => 3 * bb + 4 + 3 * i)).find? (fun o => (bs.getD o 0).toNat == j)
  (unsx f.width (codeAt f (bs.drop (j / 32 * bb)) (j % 32)), (bs.getD (3 * bb + j / 32) 0).toNat,
    slot.map (fun o => leNat ((bs.drop (o + 1)).take 2)))

/-- The bits the executing lanes write, and the events (R118 to R126, R217). The lanes of one instruction that writes B8 or B4 are
the elements of a carrier, lane l element l, under scales as a scan conversion takes them (R137, R227); the elements above 63
and the lanes that do not execute are no elements (log 102). -/
def State.cvOut (s : State) (c : Clu) (m : Nat) (l : List (Nat × OutVal × Rnd)) : List (Nat × Nat) × Evs :=
  match cv.dst m with
  | none => ([], {})
  | some .a8 =>
    let r := l.map (fun p =>
      let d := s.cvChan c m p.1
      let v := fVal d.1
      (p.1, encodeA8 p.2.2 v.num.natAbs v.e d.2 p.2.1))
    (r.map (fun p => (p.1, p.2.1)), Evs.sum (r.map (fun p => p.2.2)))
  | some g =>
    if g.isBlock then
      let at' := fun (j : Nat) => (l.find? (fun p => p.1 == j)).map (fun p => p.2)
      let o := encodeCarrier g 0xFE (fun j => ((at' j).map (fun p => p.2)).getD .rne)
        ((List.range 96).map (fun j => ((at' j).map (fun p => p.1)).getD OutVal.none))
      (l.map (fun p => let q := carrierPart g o.bytes p.1
                       (p.1, (Config.laneWord q.1 q.2.1 q.2.2).toNat)), o.evs)
    else
      let td := if g.needsScale then s.cvTau c m else 0
      let r := l.map (fun p => (p.1, encodeElem g p.2.2 td p.2.1))
      (r.map (fun p => (p.1, p.2.1)), Evs.sum (r.map (fun p => p.2.2)))

/-- The rounding of a lane's conversion (R217, R223, R224): of the named tensor's stream, or of the lane's generator,
one draw per element. -/
def State.cvRnd (s : State) (c : Clu) (m l : Nat) : Rnd × State :=
  match cv.tensor m with
  | some t =>
    let e := Config.kernelElem (cluU c) l (BitVec.ofNat 32 m)
    (s.rndFor c t (cv.round m == 1) (b2n (s.tensor t).reconv) e.1 e.2, s)
  | none =>
    if cv.round m == 1 then
      let x := s.clu c
      let r := (x.lane l).take x.key (s.laneStream c l)
      (.stoch (bits r.2 31 16), s.setClu c (x.setLane l r.1))
    else (.rne, s)

/-- The roundings of the executing lanes, in ascending lane order. -/
def State.cvRnds (s : State) (c : Clu) (m : Nat) : List Nat → List (Nat × Rnd) × State
  | [] => ([], s)
  | l :: ls =>
    let r := s.cvRnd c m l
    let rest := r.2.cvRnds c m ls
    ((l, r.1) :: rest.1, rest.2)

/-- Convert in every executing lane; a named tensor counts the events (R163, R217). -/
def State.vecConvertRun (s : State) (c : Clu) (i : VInst) : State :=
  let m := i.imm.toNat
  let r := s.cvRnds c m (s.lanesOn c i)
  let ins := r.1.map (fun p => (p.1, s.cvIn c m p.1 (s.vreg c i.sa p.1), p.2))
  let o := s.cvOut c m (ins.map (fun p => (p.1, p.2.1.1, p.2.2)))
  let ev := (Evs.sum (ins.map (fun p => p.2.1.2))).add o.2
  let s := r.2.setVreg c i.dst o.1
  let s := s.vecEvents c (ev.count ctr.inFlush + ev.count ctr.outFlush) (ev.count ctr.invalid)
  match cv.tensor m with
  | some t => s.count c t ev
  | none => s

/-! ### The pool (R213, R234) -/

/-- Bytes of a cluster pool (R21). -/
def poolSize : Nat := 2 ^ 22

/-- The pool offset each executing lane accesses: contiguous from lane 0 of A, or its own lane of A (R455). -/
def State.poolAddrs (s : State) (c : Clu) (i : VInst) (own : Bool) : List (Nat × Nat) :=
  (s.lanesOn c i).map (fun l =>
    (l, if own then (s.vreg c i.sa l + i.imm.toNat) % 2 ^ 32 / 4 * 4
      else (s.vreg c i.sa 0 + i.imm.toNat) % 2 ^ 32 + 4 * l))

/-- Does an access reach beyond the pool. -/
def poolBad (l : List (Nat × Nat)) : Bool := l.any (fun p => decide (poolSize < p.2 + 4))

/-- Read the accessed words into `dst`. -/
def State.poolRead (s : State) (c : Clu) (i : VInst) (own : Bool) : State :=
  let l := s.poolAddrs c i own
  if poolBad l then s.vecEnd c 2
  else (s.sramMeets (l.map (fun p => (poolAt c p.2, 4)))).setVreg c i.dst (l.map (fun p => (p.1, s.ld (poolAt c p.2) 4)))

/-- Write lanes of source B to the accessed words, in ascending lane order. -/
def State.poolWrite (s : State) (c : Clu) (i : VInst) (own : Bool) : State :=
  let l := s.poolAddrs c i own
  if poolBad l then s.vecEnd c 2
  else l.foldl (fun s p => (s.sramPart (poolAt c p.2) 4).st (poolAt c p.2) 4 (s.vreg c i.sb p.1)) s

/-! ### Cross-lane operations (R233) -/

/-- Combine pairs of one level. -/
def treeLevel (f : Nat → Nat → FR) : List FR → List FR
  | a :: b :: l => (let r := f a.v b.v
    { r with flush := r.flush + a.flush + b.flush, invalid := r.invalid + a.invalid + b.invalid }) :: treeLevel f l
  | l => l

/-- A tree over 2^k values: its one result, with the events of every node. -/
def treeOf (f : Nat → Nat → FR) : Nat → List FR → List FR
  | 0, l => l
  | k + 1, l => treeOf f k (treeLevel f l)

/-- The sum of lanes lo .. lo + 2^k - 1 by the tree. -/
def treeSum (f : Nat → Nat → FR) (a : Nat → Nat) (lo k : Nat) : FR :=
  (treeOf f k ((List.range (2 ^ k)).map (fun j => { v := a (lo + j) }))).headD { v := 0 }

/-- An operand as a lane writes it when no addition meets it: flushed, a NaN as the one NaN (R215). -/
def fPass (a : Nat) : FR := { v := if (fRead a).1.cls == .nan then fNaN else fFlushed a }

/-- The prefix of n lanes: the tree's partial sums in ascending lane order; k counts the levels left. -/
def prefixSum (f : Nat → Nat → FR) (a : Nat → Nat) (n : Nat) : Nat → Nat → Option FR → Option FR
  | 0, lo, acc =>
    if lo < n then
      match acc with
      | none => some (fPass (a lo))
      | some x =>
        let r := f x.v (a lo)
        some { r with flush := r.flush + x.flush, invalid := r.invalid + x.invalid }
    else acc
  | k + 1, lo, acc =>
    if lo + 2 ^ (k + 1) ≤ n then
      let t := treeSum f a lo (k + 1)
      match acc with
      | none => prefixSum f a n k (lo + 2 ^ (k + 1)) (some { v := t.v })
      | some x => prefixSum f a n k (lo + 2 ^ (k + 1))
          (let r := f x.v t.v
          some { r with flush := r.flush + x.flush, invalid := r.invalid + x.invalid })
    else prefixSum f a n k lo acc

/-- The operation of a tree reduction (R455): add, max, min. -/
def treeFun (k : Nat) : Nat → Nat → FR := if k == 0 then fAdd else fMinMax (k == 1)

/-- Reduce the 64 lanes of A; every executing lane takes the result. -/
def State.vecTreeRun (s : State) (c : Clu) (i : VInst) : State :=
  let r := treeSum (treeFun (bits i.imm.toNat 1 0)) (s.vreg c i.sa) 0 6
  (s.setVreg c i.dst ((s.lanesOn c i).map (fun l => (l, r.v)))).vecEvents c r.flush r.invalid

/-- Inclusive scan of the 64 lanes of A: the events of the tree and of each prefix combination. -/
def State.vecScanRun (s : State) (c : Clu) (i : VInst) : State :=
  let a := s.vreg c i.sa
  let t := treeSum fAdd a 0 6
  let rs := (s.lanesOn c i).map (fun l => (l, (prefixSum fAdd a (l + 1) 6 0 none).getD { v := a l }))
  ((s.setVreg c i.dst (rs.map (fun p => (p.1, p.2.v)))).frEvents c (rs.map (fun p => p.2))).vecEvents c t.flush t.invalid

/-- The sort key of FP32 patterns (R233): NaN last, zeros equal. -/
def sortKey (uns : Bool) (w : Nat) : Int :=
  if uns then (w : Nat)
  else
    let x := (fRead w).1
    match x.cls with
    | .nan => 2 ^ 40
    | .zero => 0
    | _ => if x.neg then -((w % 2 ^ 31 : Nat) : Int) else (w % 2 ^ 31 : Nat)

/-- Insert a key with its lane index after the keys that do not exceed it. -/
def sortInsert (uns : Bool) (w : Nat × Nat) : List (Nat × Nat) → List (Nat × Nat)
  | [] => [w]
  | x :: l => if sortKey uns w.1 < sortKey uns x.1 then w :: x :: l else x :: sortInsert uns w l

/-- Keys with their lane indices in ascending order, stably (R233). -/
def sorted (uns : Bool) (l : List (Nat × Nat)) : List (Nat × Nat) := l.foldl (fun l w => sortInsert uns w l) []

/-- Sort the 64 lanes of A with their lane indices (R233): `dst` takes the keys. The register that takes the lane indices, if any,
is open (log 103); where it is `dst` itself, the keys stand. -/
def State.vecSortRun (s : State) (c : Clu) (i : VInst) : State :=
  let l := sorted (bit i.imm.toNat 0) ((List.range 64).map (fun k => (s.vreg c i.sa k, k)))
  let put := fun (s : State) (r : Nat) (f : Nat × Nat → Nat) =>
    s.setVreg c r ((s.lanesOn c i).map (fun k => (k, f (l.getD k (0, 0)))))
  let s := match Config.sortIndex i.dst with
    | some r => put s (r % 32) (fun p => p.2)
    | none => s
  put s i.dst (fun p => p.1)

/-! ### Control flow -/

/-- Jump: the next instruction lies `imm` (signed) from the present one, which has index ip - 1. -/
def State.vecJumpRun (s : State) (c : Clu) (i : VInst) : State :=
  s.setClu c { s.clu c with ip := (s.clu c).ip - 1 + sext 32 i.imm.toNat }

/-- Is any lane of the named predicate 1. -/
def State.vecAny (s : State) (c : Clu) (i : VInst) : Bool := s.preg c i.pred != 0

/-- End of kernel. -/
def State.vecDone (s : State) (c : Clu) : State := s.setClu c { s.clu c with kernel := none, last := s.ns }

/-- Does the vector engine of a cluster run: the cluster works, it was not abandoned (R262), and its heat is not empty (R244). -/
def State.vecRuns (s : State) (c : Clu) : Bool := s.cluOn c && !(s.clu c).abandoned && !(s.clu c).emptyHeat

/-- Issue one instruction on a working cluster: the pointer moves on, then the operation acts (R489). -/
def State.issue (s : State) (c : Clu) (f : State → State) : State :=
  if s.vecRuns c then f ((s.setClu c { s.clu c with ip := (s.clu c).ip + 1 }).perfClu c 0 1) else s

/-! ### The operations (R455) -/

/-- Add (R215). -/
def vopVecAdd (c : Clu) (i : VInst) (s : State) : State :=
  s.lane2 c i fAdd

/-- Subtract (R215). -/
def vopVecSub (c : Clu) (i : VInst) (s : State) : State :=
  s.lane2 c i fSub

/-- Multiply (R215). -/
def vopVecMul (c : Clu) (i : VInst) (s : State) : State :=
  s.lane2 c i fMul

/-- A * B + C with one rounding (R215). -/
def vopVecFma (c : Clu) (i : VInst) (s : State) : State :=
  s.lane3 c i fFma

/-- Move the immediate to all executing lanes (R455). -/
def vopVecMoveImmediate (c : Clu) (i : VInst) (s : State) : State :=
  s.lanes c i (fun _ => { v := i.imm.toNat })

/-- Minimum (R215). -/
def vopVecMin (c : Clu) (i : VInst) (s : State) : State :=
  s.lane2 c i (fMinMax false)

/-- Maximum (R215). -/
def vopVecMax (c : Clu) (i : VInst) (s : State) : State :=
  s.lane2 c i (fMinMax true)

/-- Absolute value (R214, R215). -/
def vopVecAbs (c : Clu) (i : VInst) (s : State) : State :=
  s.lane1 c i (fun a => fSign a false)

/-- Negate (R214, R215). -/
def vopVecNeg (c : Clu) (i : VInst) (s : State) : State :=
  s.lane1 c i (fun a => fSign a (!bit a 31))

/-- Magnitude of A with the sign of B (R214, R215). -/
def vopVecCopysign (c : Clu) (i : VInst) (s : State) : State :=
  s.lane2 c i (fun a b => let r := fSign a (bit b 31)
    { r with flush := r.flush + (fRead b).2 })

/-- FP32 compare (R456). -/
def vopVecCompare (c : Clu) (i : VInst) (s : State) : State :=
  (s.laneCmp c i (fRel (bits i.imm.toNat 2 0))).vecEvents c
    (((s.lanesOn c i).map (fun l => fCmpFlush (s.vreg c i.sa l) (s.vreg c i.sb l))).foldl (· + ·) 0) 0

/-- Select A or B (R214, R215). -/
def vopVecSelect (c : Clu) (i : VInst) (s : State) : State :=
  s.lane3 c i fSelect

/-- Divide (R216). -/
def vopVecDiv (c : Clu) (i : VInst) (s : State) : State :=
  s.lane2 c i fDiv

/-- Square root (R216). -/
def vopVecSqrt (c : Clu) (i : VInst) (s : State) : State :=
  s.lane1 c i fSqrt

/-- Reciprocal (R216). -/
def vopVecRcp (c : Clu) (i : VInst) (s : State) : State :=
  s.lane1 c i fRcp

/-- Reciprocal square root (R216). -/
def vopVecRsqrt (c : Clu) (i : VInst) (s : State) : State :=
  s.lane1 c i fRsqrt

/-- Base-2 exponential (R216). -/
def vopVecExp2 (c : Clu) (i : VInst) (s : State) : State :=
  s.lane1 c i fExp2

/-- Base-2 logarithm (R216). -/
def vopVecLog2 (c : Clu) (i : VInst) (s : State) : State :=
  s.lane1 c i fLog2

/-- Natural exponential (R216). -/
def vopVecExp (c : Clu) (i : VInst) (s : State) : State :=
  s.lane1 c i fExp

/-- Natural logarithm (R216). -/
def vopVecLn (c : Clu) (i : VInst) (s : State) : State :=
  s.lane1 c i fLn

/-- Hyperbolic tangent (R216). -/
def vopVecTanh (c : Clu) (i : VInst) (s : State) : State :=
  s.lane1 c i fTanh

/-- Logistic sigmoid (R216). -/
def vopVecSigmoid (c : Clu) (i : VInst) (s : State) : State :=
  s.lane1 c i fSigmoid

/-- Integer add (R455). -/
def vopIntAdd (c : Clu) (i : VInst) (s : State) : State :=
  s.laneInt c i (fun a b => a + b)

/-- Integer subtract (R455). -/
def vopIntSub (c : Clu) (i : VInst) (s : State) : State :=
  s.laneInt c i (fun a b => a + 2 ^ 32 - b)

/-- Integer multiply, low half (R455). -/
def vopIntMulLow (c : Clu) (i : VInst) (s : State) : State :=
  s.laneInt c i (fun a b => a * b)

/-- Bitwise and (R455). -/
def vopIntAnd (c : Clu) (i : VInst) (s : State) : State :=
  s.laneInt c i (fun a b => a &&& b)

/-- Bitwise or (R455). -/
def vopIntOr (c : Clu) (i : VInst) (s : State) : State :=
  s.laneInt c i (fun a b => a ||| b)

/-- Bitwise exclusive or (R455). -/
def vopIntXor (c : Clu) (i : VInst) (s : State) : State :=
  s.laneInt c i (fun a b => a ^^^ b)

/-- Shift left (R455). -/
def vopIntShl (c : Clu) (i : VInst) (s : State) : State :=
  s.laneInt c i (iShift 0)

/-- Logical shift right (R455). -/
def vopIntShr (c : Clu) (i : VInst) (s : State) : State :=
  s.laneInt c i (iShift 1)

/-- Arithmetic shift right (R455). -/
def vopIntSar (c : Clu) (i : VInst) (s : State) : State :=
  s.laneInt c i (iShift 2)

/-- Population count of A (R455). -/
def vopIntPopcount (c : Clu) (i : VInst) (s : State) : State :=
  s.laneInt c i (fun a _ => popc a)

/-- Integer compare (R456). -/
def vopIntCompare (c : Clu) (i : VInst) (s : State) : State :=
  s.laneCmp c i (iRel (bits i.imm.toNat 2 0))

/-- Take the oldest queued draw (R220). -/
def vopVecDraw (c : Clu) (i : VInst) (s : State) : State :=
  s.vecDrawRun c i

/-- Position of each lane's token (R235). -/
def vopVecPosition (c : Clu) (i : VInst) (s : State) : State :=
  s.lanes c i (fun l => { v := s.position c i.imm.toNat l })

/-- Convert (R217). -/
def vopVecConvert (c : Clu) (i : VInst) (s : State) : State :=
  if cvReserved i.imm.toNat then s.vecEnd c 1 else s.vecConvertRun c i

/-- Load contiguous words (R213). -/
def vopVecLoad (c : Clu) (i : VInst) (s : State) : State :=
  s.poolRead c i false

/-- Store contiguous words (R213). -/
def vopVecStore (c : Clu) (i : VInst) (s : State) : State :=
  s.poolWrite c i false

/-- Gather (R234). -/
def vopVecGather (c : Clu) (i : VInst) (s : State) : State :=
  s.poolRead c i true

/-- Scatter (R234). -/
def vopVecScatter (c : Clu) (i : VInst) (s : State) : State :=
  s.poolWrite c i true

/-- Lane l takes A of the lane that B names modulo 64 (R233). -/
def vopVecShuffle (c : Clu) (i : VInst) (s : State) : State :=
  s.lanes c i (fun l => { v := s.vreg c i.sa (s.vreg c i.sb l % 64) })

/-- Tree reduction (R233). -/
def vopVecTreeReduction (c : Clu) (i : VInst) (s : State) : State :=
  if bits i.imm.toNat 1 0 == 3 then s.vecEnd c 1 else s.vecTreeRun c i

/-- Inclusive scan (R233). -/
def vopVecScan (c : Clu) (i : VInst) (s : State) : State :=
  s.vecScanRun c i

/-- Sort (R233). -/
def vopVecSort (c : Clu) (i : VInst) (s : State) : State :=
  s.vecSortRun c i

/-- Predicate and (R455). -/
def vopPredAnd (c : Clu) (i : VInst) (s : State) : State :=
  s.setPreg c i.dst ((s.lanesOn c i).map (fun l => (l, bit (s.preg c i.sa) l && bit (s.preg c i.sb) l)))

/-- Predicate or (R455). -/
def vopPredOr (c : Clu) (i : VInst) (s : State) : State :=
  s.setPreg c i.dst ((s.lanesOn c i).map (fun l => (l, bit (s.preg c i.sa) l || bit (s.preg c i.sb) l)))

/-- Predicate not (R455). -/
def vopPredNot (c : Clu) (i : VInst) (s : State) : State :=
  s.setPreg c i.dst ((s.lanesOn c i).map (fun l => (l, !bit (s.preg c i.sa) l)))

/-- Jump (R455). -/
def vopVecJump (c : Clu) (i : VInst) (s : State) : State :=
  s.vecJumpRun c i

/-- Branch when any lane of the predicate is 1 (R455). -/
def vopBranchAny (c : Clu) (i : VInst) (s : State) : State :=
  if s.vecAny c i then s.vecJumpRun c i else s

/-- Branch when no lane of the predicate is 1 (R455). -/
def vopBranchNone (c : Clu) (i : VInst) (s : State) : State :=
  if s.vecAny c i then s else s.vecJumpRun c i

/-- End the kernel (R455). -/
def vopEndOfKernel (c : Clu) (_i : VInst) (s : State) : State :=
  s.vecDone c

/-- The operation of an opcode, none when the opcode is reserved (R455). -/
def vecOp (opc : Nat) : Option (Clu → VInst → State → State) :=
  match opc with
  | 0x10 => some vopVecAdd
  | 0x11 => some vopVecSub
  | 0x12 => some vopVecMul
  | 0x13 => some vopVecFma
  | 0x14 => some vopVecMoveImmediate
  | 0x18 => some vopVecMin
  | 0x19 => some vopVecMax
  | 0x1A => some vopVecAbs
  | 0x1B => some vopVecNeg
  | 0x1C => some vopVecCopysign
  | 0x1D => some vopVecCompare
  | 0x1E => some vopVecSelect
  | 0x20 => some vopVecDiv
  | 0x21 => some vopVecSqrt
  | 0x22 => some vopVecRcp
  | 0x23 => some vopVecRsqrt
  | 0x28 => some vopVecExp2
  | 0x29 => some vopVecLog2
  | 0x2A => some vopVecExp
  | 0x2B => some vopVecLn
  | 0x2C => some vopVecTanh
  | 0x2D => some vopVecSigmoid
  | 0x30 => some vopIntAdd
  | 0x31 => some vopIntSub
  | 0x32 => some vopIntMulLow
  | 0x33 => some vopIntAnd
  | 0x34 => some vopIntOr
  | 0x35 => some vopIntXor
  | 0x36 => some vopIntShl
  | 0x37 => some vopIntShr
  | 0x38 => some vopIntSar
  | 0x39 => some vopIntPopcount
  | 0x3A => some vopIntCompare
  | 0x40 => some vopVecDraw
  | 0x41 => some vopVecPosition
  | 0x48 => some vopVecConvert
  | 0x50 => some vopVecLoad
  | 0x51 => some vopVecStore
  | 0x52 => some vopVecGather
  | 0x53 => some vopVecScatter
  | 0x58 => some vopVecShuffle
  | 0x59 => some vopVecTreeReduction
  | 0x5A => some vopVecScan
  | 0x5B => some vopVecSort
  | 0x60 => some vopPredAnd
  | 0x61 => some vopPredOr
  | 0x62 => some vopPredNot
  | 0x70 => some vopVecJump
  | 0x71 => some vopBranchAny
  | 0x72 => some vopBranchNone
  | 0x7F => some vopEndOfKernel
  | _ => none

/-- The fields of an instruction word (R454). -/
def vinstOf (w : Nat) : VInst :=
  { pred := ⟨bits w 55 53 % 8, Nat.mod_lt _ (by decide)⟩, pneg := bit w 52
    dst := ⟨bits w 51 47 % 32, Nat.mod_lt _ (by decide)⟩, sa := ⟨bits w 46 42 % 32, Nat.mod_lt _ (by decide)⟩
    sb := ⟨bits w 41 37 % 32, Nat.mod_lt _ (by decide)⟩, sc := ⟨bits w 36 32 % 32, Nat.mod_lt _ (by decide)⟩
    imm := BitVec.ofNat 32 w }

/-- Run the instruction word w: a reserved opcode ends the kernel before it (R238, R455). -/
def State.vecWord (s : State) (c : Clu) (w : Nat) : State :=
  match vecOp (bits w 63 56) with
  | some f => s.issue c (f c (vinstOf w))
  | none => s.vecEnd c 1

/-- Run at most k instructions of the cluster's kernel (R213); a pointer outside the kernel ends it. -/
def State.kernelRun (s : State) (c : Clu) : Nat → State
  | 0 => s
  | k + 1 =>
    match (s.clu c).kernel with
    | none => s
    | some n =>
      let ip := (s.clu c).ip
      if ip < 0 || decide ((n.count : Int) ≤ ip) then s.vecDone c
      else (s.vecWord c (s.ld (poolAt c (n.off + 8 * ip.toNat)) 8)).kernelRun c k

/-- VEC_RESERVED_OPCODE: a kernel reaches a reserved opcode; the kernel ends before it (R238, R455). -/
def execVecReservedOpcode (c : Clu) (opc : BitVec 8) (s : State) : Host.Outcome State Fault Refusal :=
  .next (if s.vecRuns c && (vecOp opc.toNat).isNone then s.vecEnd c 1 else s)

/-- VEC_ADD: add (R215). -/
def execVecAdd (c : Clu) (i : VInst) (s : State) : Host.Outcome State Fault Refusal :=
  .next (s.issue c (vopVecAdd c i))

/-- VEC_SUB: subtract (R215). -/
def execVecSub (c : Clu) (i : VInst) (s : State) : Host.Outcome State Fault Refusal :=
  .next (s.issue c (vopVecSub c i))

/-- VEC_MUL: multiply (R215). -/
def execVecMul (c : Clu) (i : VInst) (s : State) : Host.Outcome State Fault Refusal :=
  .next (s.issue c (vopVecMul c i))

/-- VEC_FMA: a * B + C with one rounding (R215). -/
def execVecFma (c : Clu) (i : VInst) (s : State) : Host.Outcome State Fault Refusal :=
  .next (s.issue c (vopVecFma c i))

/-- VEC_MOVE_IMMEDIATE: move the immediate to all executing lanes (R455). -/
def execVecMoveImmediate (c : Clu) (i : VInst) (s : State) : Host.Outcome State Fault Refusal :=
  .next (s.issue c (vopVecMoveImmediate c i))

/-- VEC_MIN: minimum (R215). -/
def execVecMin (c : Clu) (i : VInst) (s : State) : Host.Outcome State Fault Refusal :=
  .next (s.issue c (vopVecMin c i))

/-- VEC_MAX: maximum (R215). -/
def execVecMax (c : Clu) (i : VInst) (s : State) : Host.Outcome State Fault Refusal :=
  .next (s.issue c (vopVecMax c i))

/-- VEC_ABS: absolute value (R214, R215). -/
def execVecAbs (c : Clu) (i : VInst) (s : State) : Host.Outcome State Fault Refusal :=
  .next (s.issue c (vopVecAbs c i))

/-- VEC_NEG: negate (R214, R215). -/
def execVecNeg (c : Clu) (i : VInst) (s : State) : Host.Outcome State Fault Refusal :=
  .next (s.issue c (vopVecNeg c i))

/-- VEC_COPYSIGN: magnitude of A with the sign of B (R214, R215). -/
def execVecCopysign (c : Clu) (i : VInst) (s : State) : Host.Outcome State Fault Refusal :=
  .next (s.issue c (vopVecCopysign c i))

/-- VEC_COMPARE: fP32 compare (R456). -/
def execVecCompare (c : Clu) (i : VInst) (s : State) : Host.Outcome State Fault Refusal :=
  .next (s.issue c (vopVecCompare c i))

/-- VEC_SELECT: select A or B (R214, R215). -/
def execVecSelect (c : Clu) (i : VInst) (s : State) : Host.Outcome State Fault Refusal :=
  .next (s.issue c (vopVecSelect c i))

/-- VEC_DIV: divide (R216). -/
def execVecDiv (c : Clu) (i : VInst) (s : State) : Host.Outcome State Fault Refusal :=
  .next (s.issue c (vopVecDiv c i))

/-- VEC_SQRT: square root (R216). -/
def execVecSqrt (c : Clu) (i : VInst) (s : State) : Host.Outcome State Fault Refusal :=
  .next (s.issue c (vopVecSqrt c i))

/-- VEC_RCP: reciprocal (R216). -/
def execVecRcp (c : Clu) (i : VInst) (s : State) : Host.Outcome State Fault Refusal :=
  .next (s.issue c (vopVecRcp c i))

/-- VEC_RSQRT: reciprocal square root (R216). -/
def execVecRsqrt (c : Clu) (i : VInst) (s : State) : Host.Outcome State Fault Refusal :=
  .next (s.issue c (vopVecRsqrt c i))

/-- VEC_EXP2: base-2 exponential (R216). -/
def execVecExp2 (c : Clu) (i : VInst) (s : State) : Host.Outcome State Fault Refusal :=
  .next (s.issue c (vopVecExp2 c i))

/-- VEC_LOG2: base-2 logarithm (R216). -/
def execVecLog2 (c : Clu) (i : VInst) (s : State) : Host.Outcome State Fault Refusal :=
  .next (s.issue c (vopVecLog2 c i))

/-- VEC_EXP: natural exponential (R216). -/
def execVecExp (c : Clu) (i : VInst) (s : State) : Host.Outcome State Fault Refusal :=
  .next (s.issue c (vopVecExp c i))

/-- VEC_LN: natural logarithm (R216). -/
def execVecLn (c : Clu) (i : VInst) (s : State) : Host.Outcome State Fault Refusal :=
  .next (s.issue c (vopVecLn c i))

/-- VEC_TANH: hyperbolic tangent (R216). -/
def execVecTanh (c : Clu) (i : VInst) (s : State) : Host.Outcome State Fault Refusal :=
  .next (s.issue c (vopVecTanh c i))

/-- VEC_SIGMOID: logistic sigmoid (R216). -/
def execVecSigmoid (c : Clu) (i : VInst) (s : State) : Host.Outcome State Fault Refusal :=
  .next (s.issue c (vopVecSigmoid c i))

/-- INT_ADD: integer add (R455). -/
def execIntAdd (c : Clu) (i : VInst) (s : State) : Host.Outcome State Fault Refusal :=
  .next (s.issue c (vopIntAdd c i))

/-- INT_SUB: integer subtract (R455). -/
def execIntSub (c : Clu) (i : VInst) (s : State) : Host.Outcome State Fault Refusal :=
  .next (s.issue c (vopIntSub c i))

/-- INT_MUL_LOW: integer multiply, low half (R455). -/
def execIntMulLow (c : Clu) (i : VInst) (s : State) : Host.Outcome State Fault Refusal :=
  .next (s.issue c (vopIntMulLow c i))

/-- INT_AND: bitwise and (R455). -/
def execIntAnd (c : Clu) (i : VInst) (s : State) : Host.Outcome State Fault Refusal :=
  .next (s.issue c (vopIntAnd c i))

/-- INT_OR: bitwise or (R455). -/
def execIntOr (c : Clu) (i : VInst) (s : State) : Host.Outcome State Fault Refusal :=
  .next (s.issue c (vopIntOr c i))

/-- INT_XOR: bitwise exclusive or (R455). -/
def execIntXor (c : Clu) (i : VInst) (s : State) : Host.Outcome State Fault Refusal :=
  .next (s.issue c (vopIntXor c i))

/-- INT_SHL: shift left (R455). -/
def execIntShl (c : Clu) (i : VInst) (s : State) : Host.Outcome State Fault Refusal :=
  .next (s.issue c (vopIntShl c i))

/-- INT_SHR: logical shift right (R455). -/
def execIntShr (c : Clu) (i : VInst) (s : State) : Host.Outcome State Fault Refusal :=
  .next (s.issue c (vopIntShr c i))

/-- INT_SAR: arithmetic shift right (R455). -/
def execIntSar (c : Clu) (i : VInst) (s : State) : Host.Outcome State Fault Refusal :=
  .next (s.issue c (vopIntSar c i))

/-- INT_POPCOUNT: population count of A (R455). -/
def execIntPopcount (c : Clu) (i : VInst) (s : State) : Host.Outcome State Fault Refusal :=
  .next (s.issue c (vopIntPopcount c i))

/-- INT_COMPARE: integer compare (R456). -/
def execIntCompare (c : Clu) (i : VInst) (s : State) : Host.Outcome State Fault Refusal :=
  .next (s.issue c (vopIntCompare c i))

/-- VEC_DRAW: take the oldest queued draw (R220). -/
def execVecDraw (c : Clu) (i : VInst) (s : State) : Host.Outcome State Fault Refusal :=
  .next (s.issue c (vopVecDraw c i))

/-- VEC_POSITION: position of each lane's token (R235). -/
def execVecPosition (c : Clu) (i : VInst) (s : State) : Host.Outcome State Fault Refusal :=
  .next (s.issue c (vopVecPosition c i))

/-- VEC_CONVERT: convert (R217). -/
def execVecConvert (c : Clu) (i : VInst) (s : State) : Host.Outcome State Fault Refusal :=
  .next (s.issue c (vopVecConvert c i))

/-- VEC_SHUFFLE: lane l takes A of the lane that B names modulo 64 (R233). -/
def execVecShuffle (c : Clu) (i : VInst) (s : State) : Host.Outcome State Fault Refusal :=
  .next (s.issue c (vopVecShuffle c i))

/-- VEC_TREE_REDUCTION: tree reduction (R233). -/
def execVecTreeReduction (c : Clu) (i : VInst) (s : State) : Host.Outcome State Fault Refusal :=
  .next (s.issue c (vopVecTreeReduction c i))

/-- VEC_SCAN: inclusive scan (R233). -/
def execVecScan (c : Clu) (i : VInst) (s : State) : Host.Outcome State Fault Refusal :=
  .next (s.issue c (vopVecScan c i))

/-- VEC_SORT: sort (R233). -/
def execVecSort (c : Clu) (i : VInst) (s : State) : Host.Outcome State Fault Refusal :=
  .next (s.issue c (vopVecSort c i))

/-- PRED_AND: predicate and (R455). -/
def execPredAnd (c : Clu) (i : VInst) (s : State) : Host.Outcome State Fault Refusal :=
  .next (s.issue c (vopPredAnd c i))

/-- PRED_OR: predicate or (R455). -/
def execPredOr (c : Clu) (i : VInst) (s : State) : Host.Outcome State Fault Refusal :=
  .next (s.issue c (vopPredOr c i))

/-- PRED_NOT: predicate not (R455). -/
def execPredNot (c : Clu) (i : VInst) (s : State) : Host.Outcome State Fault Refusal :=
  .next (s.issue c (vopPredNot c i))

/-- VEC_JUMP: jump (R455). -/
def execVecJump (c : Clu) (i : VInst) (s : State) : Host.Outcome State Fault Refusal :=
  .next (s.issue c (vopVecJump c i))

/-- BRANCH_ANY: branch when any lane of the predicate is 1 (R455). -/
def execBranchAny (c : Clu) (i : VInst) (s : State) : Host.Outcome State Fault Refusal :=
  .next (s.issue c (vopBranchAny c i))

/-- BRANCH_NONE: branch when no lane of the predicate is 1 (R455). -/
def execBranchNone (c : Clu) (i : VInst) (s : State) : Host.Outcome State Fault Refusal :=
  .next (s.issue c (vopBranchNone c i))

/-- END_OF_KERNEL: end the kernel (R455). -/
def execEndOfKernel (c : Clu) (i : VInst) (s : State) : Host.Outcome State Fault Refusal :=
  .next (s.issue c (vopEndOfKernel c i))

end Sys2Proof.Machine
end

