-- ==== Sys2Proof/Machine/Scout.lean ====
section
/-!
DEFINITION. The Scout (R193 to R211): call descriptors, stochastic products, the four kinds of call, and the queue.
-/

namespace Sys2Proof.Machine

/-! ### Call descriptors (R200) -/

def sct.tensor (d : Nat) : Nat := bits d 15 0
def sct.op (d : Nat) : Nat := bits d 18 16
/-- Stream length L. -/
def sct.L (d : Nat) : Nat := 16 * 2 ^ bits d 21 19
def sct.xFmt (d : Nat) : Nat := bits d 25 22
def sct.wFmt (d : Nat) : Nat := bits d 29 26
def sct.gx (d : Nat) : Nat := bits d 39 32
def sct.gw (d : Nat) : Nat := bits d 47 40
def sct.samp (d : Nat) : Nat := bits d 51 48
def sct.phase (d : Nat) : Nat := bits d 59 52
def sct.xSrc (d : Nat) : Nat := 32 * bits d 80 64
def sct.wSrc (d : Nat) : Nat := 32 * bits d 97 81
def sct.dst (d : Nat) : Nat := 32 * bits d 114 98
def sct.rows (d : Nat) : Nat := bits d 130 115 + 1
def sct.cols (d : Nat) : Nat := bits d 146 131 + 1
def sct.blocks (d : Nat) : Nat := bits d 158 147 + 1
def sct.k (d : Nat) : Nat := bits d 166 159 + 1
def sct.thr (d : Nat) : Nat := bits d 199 168
def sct.ctr (d : Nat) : Nat := bits d 263 200

/-- Does a call descriptor hold a reserved value (R200, R202). -/
def sctReserved (d : Nat) : Bool :=
  decide (3 < sct.op d) || decide (4 < bits d 21 19) || (Fmt.ofCode (sct.xFmt d)).isNone || (Fmt.ofCode (sct.wFmt d)).isNone
    || bits d 31 30 != 0 || decide (8 < sct.samp d) || decide (2 ^ sct.samp d ≤ sct.phase d) || bits d 63 60 != 0
    || bit d 167 || bits d 511 264 != 0 || (sct.op d == 1 && decide (sct.cols d < sct.k d))

/-! ### Elements and magnitude codes (R195) -/

/-- One element as the Scout takes it: m * 2^e, or not finite. -/
structure SctEl where
  m : Int
  e : Int
  bad : Bool := false
  deriving DecidableEq, Repr

/-- A decoded element, scaled by m0 * 2^e0. -/
def sctEl (x : Elem) (m0 : Nat) (e0 : Int) : SctEl :=
  match x.cls with
  | .fin => ⟨x.m * m0, x.e + e0, false⟩
  | .zero => ⟨0, 0, false⟩
  | _ => ⟨0, 0, true⟩

/-- The places of the carriers of line i of a block operand at a pool offset. -/
def sctCarriers (c : Clu) (f : Fmt) (base i depth : Nat) : List Nat :=
  let n := (depth + 95) / 96
  (List.range n).map (fun j => poolAt c (base / f.carrierBytes * f.carrierBytes + (i * n + j) * f.carrierBytes))

/-- Line i (a row of x, a column of w) of an operand at a pool offset: depth elements, with the input events but those of
carriers. -/
def State.sctLine (s : State) (c : Clu) (f : Fmt) (base i depth : Nat) : List SctEl × Evs :=
  let rd := fun (o n : Nat) => s.ldBytes (poolAt c (base + o)) n
  match f with
  | .b8 | .b4 =>
    let cs := (sctCarriers c f base i depth).map (fun a => decodeCarrier f (s.ldBytes a f.carrierBytes))
    (((cs.flatMap (fun p => p.1)).take depth).map (fun x => sctEl x 1 0), {})
  | .a8 =>
    let d := a8Desc (leNat (rd (8 * i) 8))
    let r := decodeA8Run rd i depth
    match d with
    | .scaled m e _ => (r.1.map (fun x => sctEl x m e), r.2)
    | _ => (r.1.map (fun x => sctEl x 1 0), r.2)
  | _ =>
    let w := f.width
    let r := decodeRun f (rd (i * depth * w / 8) ((depth * w + 7) / 8)) depth
    (r.1.map (fun x => sctEl x 1 0), r.2)

/-- The exponent of an element. -/
def SctEl.exp (x : SctEl) : Int := ilog2 x.m + x.e

/-- A block's exponent: of its largest finite nonzero element (R195). -/
def sctBlockExp (l : List SctEl) : Option Int := maxI ((l.filter (fun x => x.m != 0)).map SctEl.exp)

/-- The magnitude code of an element in a block of exponent E (R195). -/
def sctCode (E : Int) (x : SctEl) : Nat := min 255 (Rnd.rne.at x.m.natAbs 1 x.e (E - 7)).toNat

/-! ### Generators (R197, R198, R210) -/

/-- A generator number after remap entries: the first in force whose `from` matches applies (R210). -/
def remapGen (ents : List Nat) (g : Nat) : Nat :=
  match ents.find? (fun w => bit w 31 && bits w 7 0 == g % 256) with
  | some w => bits w 15 8
  | none => g % 256

/-- A generator number after the remap entries of the cluster, in ascending n (R210). -/
def State.genMap (s : State) (c : Clu) (g : Nat) : Nat :=
  remapGen (genRemaps.map (fun r => (s.rd r (cluU c)).toNat)) g

/-- The random byte of lane j from generator g at ac `a` of a call (R198). -/
def State.genByte (s : State) (c : Clu) (g ctr a j : Nat) : Nat :=
  let sigma := 0x100000 + 256 * (s.logClu c).getD 0 + g
  bits (streamDraw (s.clu c).key sigma ((8 * (ctr + a) + j / 4) % 2 ^ 64)) (8 * (j % 4) + 7) (8 * (j % 4))

/-- Is any group of a call correlated (R199, R205). -/
def State.sctCorr (s : State) (c : Clu) (d : Nat) : Bool :=
  (List.range 128).any (fun n => s.genMap c (sct.gx d + n) == s.genMap c (sct.gw d + n))

/-- Does a call use a generator that failed and stayed in use (R361). -/
def State.genLost (s : State) (c : Clu) (d : Nat) : Bool :=
  let bad := fun (g : Nat) => s.quarIs 8 (unitOf c.die c.cl 0 0 + s.genMap c g)
  (List.range 128).any (fun n => bad (sct.gx d + n) || bad (sct.gw d + n))

/-! ### One estimate (R194) -/

/-- The block count c_b of a block pair streamed from ac `a` by group n. -/
def State.sctCount (s : State) (c : Clu) (d n a : Nat) (xs ws : List (Nat × Bool)) : Int :=
  let gx := s.genMap c (sct.gx d + n)
  let gw := s.genMap c (sct.gw d + n)
  let one := fun (i : Nat) =>
    ((xs.zip ws).zipIdx.map (fun p =>
      let j := p.2
      if decide (s.genByte c gx (sct.ctr d) (a + i) j < p.1.1.1) && decide (s.genByte c gw (sct.ctr d) (a + i) j < p.1.2.1) then
        (if p.1.1.2 == p.1.2.2 then (1 : Int) else -1)
      else 0)).foldl (· + ·) 0
  ((List.range (sct.L d)).map one).foldl (· + ·) 0

/-- Add an exact term to the FP32 accumulator, rounding to nearest even (R194). -/
def sctAdd (acc : Nat) (m : Int) (e : Int) : Nat :=
  if (fRead acc).1.cls == .inf then acc
  else
    let x := fVal acc
    let q := min x.e e
    (fSum (x.num * (2 ^ (x.e - q).toNat : Nat) + m * (2 ^ (e - q).toNat : Nat)) q false 0).v

/-- Insert a number by its key. -/
def insertKey (key : Nat → Nat) (p : Nat) : List Nat → List Nat
  | [] => [p]
  | q :: l => if key p < key q then p :: q :: l else q :: insertKey key p l

/-- The order in which the Scout takes n sampled outputs (log 19): any order, each output once. -/
def sctOrder (n : Nat) : List Nat := (List.range n).foldl (fun l p => insertKey (fun q => Config.scoutKey q n) p l) []

/-- The first ac of a round of 128 outputs: each round streams its block pairs, L ac each, after the one before; the ac
besides lie within the bound of R201. -/
def sctRound (d : Nat) : Nat → Nat
  | 0 => Config.scoutGap d 0 % 65
  | r + 1 => sctRound d r + sct.blocks d * sct.L d + Config.scoutGap d (r + 1) % 9

/-- The group and the first ac in which sampled output p of n streams: a group estimates one output at a time (R193). -/
def sctSlot (d p n : Nat) : Nat × Nat :=
  let k := (sctOrder n).idxOf p
  (k % 128, sctRound d (k / 128))

/-- The estimate of one output from its row of x and its column of w: sampled output p of N (R194, log 19). -/
def State.sctOne (s : State) (c : Clu) (d p N : Nat) (xs ws : List SctEl) : Nat :=
  let slot := sctSlot d p N
  (List.range (sct.blocks d)).foldl (fun acc b =>
    let xb := (xs.drop (32 * b)).take 32
    let wb := (ws.drop (32 * b)).take 32
    match sctBlockExp xb, sctBlockExp wb with
    | some ex, some ew =>
      let code := fun (E : Int) (l : List SctEl) => l.map (fun x => (sctCode E x, decide (x.m < 0)))
      let n := s.sctCount c d slot.1 (slot.2 + b * sct.L d) (code ex xb) (code ew wb)
      sctAdd acc n (ex + ew + 2 - (Nat.log2 (sct.L d) : Nat))
    | _, _ => acc) 0

/-- The sampled outputs of a call (R201), row by row. -/
def sctSampled (d : Nat) : List (Nat × Nat) :=
  (List.range (sct.rows d)).flatMap (fun r => (List.range (sct.cols d)).filterMap (fun j =>
    if (r / 32 * ((sct.cols d + 31) / 32) + j / 32) % 2 ^ sct.samp d == sct.phase d then some (r, j) else none))

/-- What a call computes: the estimates of its sampled outputs, whether it met an element that is not finite, and the
input events. -/
structure SctRes where
  est : List ((Nat × Nat) × Nat)
  nonfinite : Bool
  evs : Evs
  deriving DecidableEq, Repr

/-- The events of the carriers of a call: each is decoded once for the call, whichever lines of x (true) and w read it (R596). -/
def State.sctCarrierEvs (s : State) (c : Clu) (xf wf : Fmt) (lines : List (Bool × Nat)) (d : Nat) : Evs :=
  let at' := fun (f : Fmt) => lines.flatMap (fun p =>
    if (if p.1 then xf else wf) == f then sctCarriers c f (if p.1 then sct.xSrc d else sct.wSrc d) p.2 (32 * sct.blocks d) else [])
  (s.carriersEvs .b8 (at' .b8)).add (s.carriersEvs .b4 (at' .b4))

/-- The bytes of the pool that a call reads of its lines. -/
def State.sctSpans (_s : State) (c : Clu) (d : Nat) : List (Nat × Nat) :=
  let depth := 32 * sct.blocks d
  let span := fun (f : Fmt) (base i : Nat) =>
    match f with
    | .b8 | .b4 => (sctCarriers c f base i depth).map (fun a => (a, f.carrierBytes))
    | .a8 => [(poolAt c (base + 8 * i), 8), (poolAt c (base + 0x800 + i * depth), depth)]
    | _ => [(poolAt c (base + i * depth * f.width / 8), (depth * f.width + 7) / 8)]
  (((sctSampled d).map (fun p => p.1)).eraseDups).flatMap (span ((Fmt.ofCode (sct.xFmt d)).getD .fp32) (sct.xSrc d))
    ++ (((sctSampled d).map (fun p => p.2)).eraseDups).flatMap (span ((Fmt.ofCode (sct.wFmt d)).getD .fp32) (sct.wSrc d))

/-- Run the products of a call. DESIGN CHOICE (log 125): it decodes the rows and columns of its sampled outputs only, and an element
elsewhere that is not finite does not mark it nonfinite. -/
def State.sctRun (s : State) (c : Clu) (d : Nat) : SctRes :=
  let depth := 32 * sct.blocks d
  let xf := (Fmt.ofCode (sct.xFmt d)).getD .fp32
  let wf := (Fmt.ofCode (sct.wFmt d)).getD .fp32
  let out := sctSampled d
  let rows := (out.map (fun p => p.1)).eraseDups
  let cols := (out.map (fun p => p.2)).eraseDups
  let xs := rows.map (fun r => (r, s.sctLine c xf (sct.xSrc d) r depth))
  let ws := cols.map (fun j => (j, s.sctLine c wf (sct.wSrc d) j depth))
  let line := fun (l : List (Nat × (List SctEl × Evs))) (k : Nat) => (slFind l k).getD ([], {})
  { est := out.zipIdx.map (fun p => (p.1, s.sctOne c d p.2 out.length (line xs p.1.1).1 (line ws p.1.2).1))
    nonfinite := (xs ++ ws).any (fun p => p.2.1.any (fun x => x.bad))
    evs := (s.sctCarrierEvs c xf wf (rows.map (fun r => (true, r)) ++ cols.map (fun j => (false, j))) d).add
      (Evs.sum ((xs ++ ws).map (fun p => p.2.2))) }

/-! ### Results (R202) -/

/-- Rank estimates in descending order, equal ones by lower column. -/
def sctInsert (x : Nat × Nat) : List (Nat × Nat) → List (Nat × Nat)
  | [] => [x]
  | y :: l => if fLt y.2 x.2 then x :: y :: l else y :: sctInsert x l

/-- Write the results of an estimate call. -/
def State.sctEstimates (s : State) (c : Clu) (d : Nat) (r : SctRes) : State :=
  let z := (List.range (sct.rows d)).foldl (fun s i =>
    (List.range (sct.cols d)).foldl (fun s j => s.st (poolAt c (sct.dst d + 4 * (i * sct.cols d + j))) 4 0) s) s
  r.est.foldl (fun s p => s.st (poolAt c (sct.dst d + 4 * (p.1.1 * sct.cols d + p.1.2))) 4 p.2) z

/-- Write the results of a top-k call; a record that no sampled output fills is 0xFFFF_FFFF and +0. -/
def State.sctTopK (s : State) (c : Clu) (d : Nat) (r : SctRes) : State :=
  (List.range (sct.rows d)).foldl (fun s i =>
    let mine := (r.est.filter (fun p => p.1.1 == i)).foldl (fun l p => sctInsert (p.1.2, p.2) l) []
    (List.range (sct.k d)).foldl (fun s n =>
      let q := mine.getD n (0xFFFFFFFF, 0)
      let a := poolAt c (sct.dst d + 8 * (i * sct.k d + n))
      (s.st a 4 q.1).st (a + 4) 4 q.2) s) s

/-- Write the results of a threshold call. -/
def State.sctBitmap (s : State) (c : Clu) (d : Nat) (r : SctRes) : State :=
  let stride := (sct.cols d + 255) / 256 * 32
  let ge := fun (v : Nat) => match fCmp v (sct.thr d) with
    | some o => o != .lt
    | none => false
  (List.range (sct.rows d)).foldl (fun s i =>
    let hit := ((r.est.filter (fun p => p.1.1 == i && ge p.2)).map (fun p => p.1.2))
    let v := hit.foldl (fun v j => v + 2 ^ j) 0
    s.stBytes (poolAt c (sct.dst d + i * stride)) (toBytes stride v)) s

/-- The largest magnitude of a call's estimates, an FP32 pattern (R202). -/
def sctMax (r : SctRes) : Nat := (r.est.map (fun p => p.2 % 2 ^ 31)).foldl max 0

/-! ### The queue (R207) -/

/-- Remove the call at the head; a range call that ran no product is untrusted (R204, R207). -/
def State.sctSkip (s : State) (c : Clu) (k : ScoutCall) (d : Nat) : State :=
  let s := (s.sctPost c 3 (sct.tensor d)).setClu c { s.clu c with calls := (s.clu c).calls.drop 1 }
  if k.range || sct.op d == 3 then s.estimate (sct.tensor d) none true else s

/-- Start the call at the head when it is of kind `op` (R202, R205, R206): a reserved descriptor is skipped; a
correlation is counted and reported; `write` stores the results. -/
def State.sctStart (s : State) (c : Clu) (op : Nat) (write : State → Nat → SctRes → State) : State :=
  match (s.clu c).calls with
  | [] => s
  | k :: ks =>
    let d := s.ld (poolAt c k.off) 64
    if k.executed then s
    else if sctReserved d then s.sctSkip c k d
    else if sct.op d != op then s
    else
      let corr := s.sctCorr c d
      let s := if corr then (s.satUp F.SCT_COUNT_corr (cluU c)).sctPost c 1 (sct.tensor d) else s
      let s := s.sramMeets (s.sctSpans c d)
      let r := s.sctRun c d
      let s := if op == 3 then s.count c (sct.tensor d) r.evs else s
      let k := { k with executed := true, est := sctMax r,
                        untrusted := corr || s.genLost c d || r.nonfinite || r.est.isEmpty || sctMax r == 0 }
      (write s d r).setClu c { s.clu c with calls := k :: ks }

/-- SCOUT_CALL_DONE (R203, R207): the running call completes; a range call's estimate goes to the merge. A call at the
head whose descriptor holds a reserved value is skipped. -/
def execScoutCallDone (c : Clu) (s : State) : Host.Outcome State Fault Refusal :=
  .next (
    if !s.cluOn c then s
    else match (s.clu c).calls with
      | [] => s
      | k :: ks =>
        let d := s.ld (poolAt c k.off) 64
        if !k.executed then (if sctReserved d then s.sctSkip c k d else s)
        else
          let s := ((s.setClu c { s.clu c with calls := ks }).put F.SCT_COUNT_calls (cluU c)
            (s.get F.SCT_COUNT_calls (cluU c) + 1)).perfClu c 4 (sctRound d (((sctSampled d).length + 127) / 128))
          if sct.op d == 3 then
            -- the exponent of an estimate that overflowed is not stated: a free value
            if (fRead k.est).1.cls == .inf then
              ({ s with freeCtr := s.freeCtr + 1 }).estimate (sct.tensor d) (some (Config.free s.freeCtr)) k.untrusted
            else s.estimate (sct.tensor d) (if k.est == 0 then none else some (fVal k.est).log2) k.untrusted
          else s)

/-- SCT_CALL: a write of the register submits a direct call (R207, R209). -/
def execSctCall (c : Clu) (desc : BitVec 16) (s : State) : Host.Outcome State Fault Refusal :=
  .next (if s.cluOn c then s.sctQueue c (64 * desc.toNat) false else s)

/-- SCOUT_CALL_ITEM: a sequencer item submits a call (R207, R453). -/
def execScoutCallItem (c : Clu) (off : PoolOff) (s : State) : Host.Outcome State Fault Refusal :=
  .next (if s.cluGo c then s.sctQueue c off.toNat false else s)

/-- The Scout's calls are lost with their cluster: SCT_ABORTED for each call in the queue; range calls are untrusted
(R207). -/
def State.sctAbort (s : State) (c : Clu) : State :=
  let calls := (s.clu c).calls
  let s := s.setClu c { s.clu c with calls := [] }
  calls.foldl (fun s k =>
    let d := s.ld (poolAt c k.off) 64
    let s := s.sctPost c 4 (sct.tensor d)
    if k.range || sct.op d == 3 then s.estimate (sct.tensor d) none true else s) s

end Sys2Proof.Machine
end

