-- ==== Sys2Proof/Machine/Trace.lean ====
section
/-!
DEFINITION. Waits and the synchronization trace (R486 to R503), freeze (R504 to R508) and photo-finish (R509 to R519).
-/

namespace Sys2Proof.Machine

/-! ### Waits (R491) -/

/-- WAIT_END: the wait of a waiter ends (R491). A cluster that gave up its lap ends it without arrival. -/
def execWaitEnd (w : Waiter) (s : State) : Host.Outcome State Fault Refusal :=
  let k := waiterCode w
  .next (if s.live then
    s.waitClose k (match waiterClu k with
      | some c => (s.clu c).abandoned
      | none => false)
  else s)

/-! ### Photo-finish (R509 to R515) -/

/-- Round up to whole MiB. -/
def upMib (n : Nat) : Nat := (n + 2 ^ 20 - 1) / 2 ^ 20 * 2 ^ 20

/-- Bytes of a core's record at a level (R510). -/
def photoCore (lv : Nat) : Nat :=
  512 + (if 1 ≤ lv then 12288 else 0) + (if 2 ≤ lv then 65536 else 0) + (if 3 ≤ lv then 2 ^ 20 else 0)

/-- Bytes of a cluster's record at a level, without its cores (R510). -/
def photoClu (lv : Nat) : Nat := 8192 + (if 1 ≤ lv then 16384 else 0) + (if 3 ≤ lv then 2 ^ 22 else 0)

/-- Bytes of the section of a physical die. -/
def State.photoDie (s : State) (d lv : Nat) : Nat :=
  65536 + ((s.activeClus d).map (fun n => photoClu lv + photoCore lv * (s.activeCores (cluNo d n)).length)).foldl (· + ·) 0

/-- Length of section u: logical dies, then hubs (R512, R513). -/
def State.photoLen (s : State) (lv u : Nat) : Nat :=
  if u < 16 then s.photoDie (s.flt.dieMap.getD u 0) lv else 2 ^ 18

/-- Space of section u in the region. -/
def State.photoSpace (s : State) (lv u : Nat) : Nat := upMib (s.photoLen lv u)

/-- Offset of section u: the header takes 1 MiB (R512, R513). -/
def State.photoOff (s : State) (lv u : Nat) : Nat :=
  2 ^ 20 + ((List.range u).map (s.photoSpace lv)).foldl (· + ·) 0

/-- Bytes a region needs for a level (R510). -/
def State.photoNeed (s : State) (lv : Nat) : Nat := s.photoOff lv 20

/-- First byte of the photo region. -/
def State.photoBase (s : State) : Nat :=
  s.get F.TRC_PHOTO_BASE_HI_base_hi 0 * 2 ^ 32 + s.get F.TRC_PHOTO_BASE_LO_base 0 * 2 ^ 20

/-- The highest level up to lv whose region fits (R515). -/
def State.photoFit (s : State) (size : Nat) : Nat → Option Nat
  | 0 => if s.photoNeed 0 ≤ size then some 0 else none
  | k + 1 => if s.photoNeed (k + 1) ≤ size then some (k + 1) else s.photoFit size k

/-- The registers in a span of plain addresses. -/
def State.regsIn (s : State) (lo hi : Nat) : List (Nat × Word) := s.regs.filter (fun p => decide (lo ≤ p.1 ∧ p.1 < hi))

/-- A part of n bytes of a photo record, by its kind and contents. -/
def photoPart {α : Type} (kind : Nat) (x : α) (n : Nat) : List Byte := (List.range n).map (Config.photoPart kind x)

/-- The parts of a core's record up to a level, each with whether it holds data contents (R510): registers with the passes under way;
the cells, edge bank and pipelines; the staging store; the near store. -/
def State.photoCore (s : State) (k : CoreId) (level : Nat) : List (Bool × List Byte) :=
  let b := coreBase (coreU k)
  [(false, photoPart 0 (s.regsIn b (b + 0x80), (s.core k).runs.map (fun r => (r.desc, r.next))) 512)]
    ++ (if 1 ≤ level then [(true, photoPart 1 (s.core k) 12288)] else [])
    ++ (if 2 ≤ level then [(true, s.ldBytes (stageAt k 0) (2 ^ 16))] else [])
    ++ (if 3 ≤ level then [(true, s.ldBytes (nearAt k 0) (2 ^ 20))] else [])

/-- The parts of a cluster's record up to a level (R510): registers with the sequencer, the queues and the lane counters; the vector
and predicate registers and the draw queues; the pool. -/
def State.photoClu (s : State) (c : Clu) (level : Nat) : List (Bool × List Byte) :=
  let b := cluBase (cluU c)
  let x := s.clu c
  [(false, photoPart 2 (s.regsIn b (b + 0x4000), (x.heldItem, x.kernel, x.ip), (x.calls, x.copies, x.copyIdx, x.sends),
      x.lanes.map (fun p => (p.1, p.2.n, p.2.q.length))) 8192)]
    ++ (if 1 ≤ level then [(true, photoPart 3 (x.vreg, x.preg, x.lanes) 16384)] else [])
    ++ (if 3 ≤ level then [(true, s.ldBytes (poolAt c 0) (2 ^ 22))] else [])

/-- The parts of section u in order, each with whether it holds data contents (R510, R513). Of mesh, bridge and hub state the spec names
none, so those records hold free values. -/
def State.photoParts (s : State) (p : Photo) (u : Nat) : List (Bool × List Byte) :=
  if 16 ≤ u then [(false, photoPart 4 (s.freeCtr, u) (2 ^ 18))]
  else
    let d := s.flt.dieMap.getD u 0
    (false, photoPart 5 (s.freeCtr, u, slFind s.img.routes d, s.regsIn (dieBase d + 0x8000) (dieBase d + 0xC000)) 65536)
      :: (s.activeClus d).flatMap (fun n =>
        let c := cluNo d n
        s.photoClu c p.level ++ (s.activeCores c).flatMap (fun k => s.photoCore (coreNo c k) p.level))

/-- How many parts of section u start before the grant's expiry: all without one, none when it had passed at the start, and a
free number when it passes meanwhile (R511). -/
def State.photoIntact (s : State) (p : Photo) (u n : Nat) : Nat :=
  match p.expiry with
  | none => n
  | some e => if s.ns < e then n else if e ≤ p.t0 then 0 else Config.free (s.freeCtr + u) % (n + 1)

/-- Does a data part of section u start after the grant's expiry (R511). -/
def State.photoRed (s : State) (p : Photo) (u : Nat) : Bool :=
  let ps := s.photoParts p u
  (ps.drop (s.photoIntact p u ps.length)).any (fun x => x.1)

/-- The bytes of section u: data parts after the expiry are zeros (R511). -/
def State.photoSection (s : State) (p : Photo) (u : Nat) : List Byte :=
  let ps := s.photoParts p u
  let n := s.photoIntact p u ps.length
  ps.zipIdx.flatMap (fun x => if x.1.1 && decide (n ≤ x.2) then x.1.2.map (fun _ => (0 : Byte)) else x.1.2)

/-- The photo header (R512); `wrote u`: bytes written of section u. -/
def State.photoHead (s : State) (p : Photo) (t1 : Nat) (aborted : Bool) (wrote : Nat → Nat) : List Byte :=
  let fl := b2n p.clamped + 2 * b2n ((List.range 16).any (s.photoRed p)) + 4 * b2n aborted + 8 * b2n p.blk
  let o := s.frz.srcs.headD { kind := 0, id := 0, bib := 0, time := 0 }
  toBytes 4 0x4F544850 ++ toBytes 1 p.req ++ toBytes 1 p.level ++ toBytes 1 fl ++ toBytes 1 (min 255 s.frz.total)
    ++ toBytes 2 (s.get F.TRC_FRZ_STATE_id 0) ++ toBytes 3 o.bib ++ toBytes 3 0 ++ toBytes 8 o.time
    ++ toBytes 8 s.frz.tStop ++ toBytes 8 p.t0 ++ toBytes 8 t1 ++ toBytes 8 s.lap.lam
    ++ toBytes 8 (s.get64 R.IMG_ID_LO R.IMG_ID_HI 0)
    ++ (List.range 8).flatMap (fun j =>
      match s.frz.srcs[j]? with
      | some x => toBytes 1 x.kind ++ toBytes 2 x.id ++ toBytes 3 x.bib ++ toBytes 2 0 ++ toBytes 8 x.time
      | none => toBytes 16 0)
    ++ (List.range 20).flatMap (fun u =>
      toBytes 1 (if u < 16 then s.flt.dieMap.getD u 0 else u - 16)
        ++ toBytes 1 (b2n (s.photoRed p u) + 2 * b2n (wrote u != s.photoLen p.level u)) ++ toBytes 6 0
        ++ toBytes 8 (s.photoOff p.level u) ++ toBytes 8 (s.photoLen p.level u) ++ toBytes 8 (wrote u))

/-- Start the scan-out of a freeze that began with `armed` (R509, R511, R515). -/
def State.scanStart (s : State) : State :=
  let req := s.get F.TRC_PHOTO_CTRL_level 0
  let size := s.get F.TRC_PHOTO_SIZE_size_mib 0 * 2 ^ 20
  if size == 0 then s.trcPost 0x0C 0
  else if !s.claimHeld 3 3 0 s.photoBase size then s.imgPost 0x12 0
  else
    let approved := s.flag F.JDG_STATE_approved 0
    let grant := match s.jdg.grant with
      | some g => if bit g.1 0 then some g.2 else none
      | none => none
    let clamped := approved && grant.isNone && req != 0
    let lv := if clamped then 0 else req
    match s.photoFit size lv with
    | none => s.trcPost 0x0C 0
    | some k =>
      let s := if clamped then s.trcPost 9 0 else s
      let s := if k != lv then s.trcPost 0x0C 0 else s
      let s := s.puts 0 [(F.TRC_PHOTO_CTRL_armed, 0), (F.TRC_FRZ_STATE_scan, 1), (F.TRC_PHOTO_STATE_section, 0),
        (F.TRC_PHOTO_STATE_redacted, 0), (F.TRC_PHOTO_STATE_clamped, b2n clamped), (F.TRC_PHOTO_STATE_done, 0)]
      let p : Photo :=
        { req := req, level := k, clamped := clamped, base := s.photoBase, t0 := s.ns,
          expiry := if approved then grant else none }
      { s with photo := some p }

/-- End a scan-out: each section's first `wrote u` bytes and the header are written (R512 to R514, R516). -/
def State.scanEnd (s : State) (p : Photo) (aborted : Bool) (wrote : Nat → Nat) : State :=
  let red := (List.range 16).any (s.photoRed p)
  let s0 := s
  let s := (List.range 20).foldl (fun s u =>
    s.stBytes (p.base + s.photoOff p.level u) ((s0.photoSection p u).take (wrote u))) s
  let s := s.stBytes p.base (s0.photoHead p s.ns aborted wrote)
  let s := { s with photo := none, freeCtr := s.freeCtr + 20 }
  let s := s.puts 0 [(F.TRC_FRZ_STATE_scan, 0), (F.TRC_PHOTO_STATE_done, 1), (F.TRC_PHOTO_STATE_level_done, p.level),
    (F.TRC_PHOTO_STATE_redacted, b2n red)]
  (if red then s.trcPost 0x0A 0 else s).trcPost 8 0

/-- A scan-out goes on to its next section: a tick a section, since the spec gives no instants (log 133); it stands still in Blocks
(R436). -/
def State.photoTick (s : State) : State :=
  if s.photo.isNone || s.asleep then s
  else s.put F.TRC_PHOTO_STATE_section 0 (min 19 (s.get F.TRC_PHOTO_STATE_section 0 + 1))

/-- SCAN_OUT_DONE: the scan-out ends with every section written (R514). It stands still in Blocks (R436). -/
def execScanOutDone (s : State) : Host.Outcome State Fault Refusal :=
  .next (match s.photo with
    | some p => if s.asleep then s else (s.put F.TRC_PHOTO_STATE_section 0 19).scanEnd p false (s.photoLen p.level)
    | none => s)

/-- Bytes of section u that were written when a scan-out is cut off: a free value (R516 names no point). -/
def State.photoCut (s : State) (p : Photo) (u : Nat) : Nat := Config.free (s.freeCtr + 20 + u) % (s.photoLen p.level u + 1)

/-- Cut a scan-out off: what is not written is marked incomplete (R516). -/
def State.scanCut (s : State) (aborted : Bool) : State :=
  match s.photo with
  | some p => { s.scanEnd p aborted (s.photoCut p) with freeCtr := s.freeCtr + 40 }
  | none => s

/-- ABORT_SCAN: the scan-out ends (R516). -/
def execAbortScan (s : State) : Host.Outcome State Fault Refusal := .next (s.whenServed .trace 0 0 (s.scanCut true))

/-! ### Triggers (R500, R501) -/

/-- A trigger reaches quadrant q at time T. -/
def State.trcTrig (s : State) (b : Nat) (q : Nat) : State :=
  if !s.flag F.TRC_Q_MODE_en q then s
  else
    let x := s.tru q
    let t := s.ns
    let r : TraceRec := { tEnd := t, bytes := traceRec t t 0 0x10 0 (s.lap.lam % 65536) s.bib b }
    if s.get F.TRC_Q_MODE_mode q == 2 then
      if s.flag F.TRC_Q_MODE_triggered q || s.flag F.TRC_Q_MODE_stopped q then s.trcQueue q r
      else
        let next := s.get F.TRC_Q_NEXT_next q
        let s := s.setTru q { x with
          tTrigger := t, preNext := next, preOldest := if s.trcPre q ≤ x.count then next else 0,
          queue := r :: x.queue }
        s.puts q [(F.TRC_Q_MODE_triggered, 1), (F.TRC_Q_NEXT_next, s.trcPre q)]
    else
      let s := s.trcQueue q r
      (s.setTru q { s.tru q with tTrigger := t }).put F.TRC_Q_MODE_triggered q 1

/-- The effect of trigger b on the trace (R500). -/
def State.trigTrace (s : State) (b : Nat) : State :=
  let s := s.put64 R.TRC_TRIG_TIME_LO R.TRC_TRIG_TIME_HI 0 s.ns
  ((List.range 4).foldl (fun s q => s.trcTrig b q) s).trcPost 1 0

/-! ### Freeze (R504 to R508) -/

/-- Remember a freeze id among the 16 seen most recently (R321). -/
def State.frzSeen (s : State) (id : Nat) : State :=
  { s with frz := { s.frz with seen := (id :: s.frz.seen.filter (· != id)).take 16 } }

/-- Send freeze flits on every UP link with `freeze_fwd` (R321). -/
def State.frzFlits (s : State) (id bib hops time : Nat) : State :=
  s.upLinks.foldl (fun s l =>
    if s.flag F.RLY_CTRL_freeze_fwd l then
      s.sendCtl l 7 (toBytes 2 id ++ toBytes 3 bib ++ toBytes 1 hops ++ toBytes 8 time) 3
    else s) s

/-- Freeze the module from a source: `fromFlit` carries id, origin bib, hops left to forward (none: not forwarded) and
origin time (R504 to R507). -/
def State.freezeEnter (s : State) (kind : Nat) (fromFlit : Option (Nat × Nat × Option Nat × Nat)) : State :=
  if s.frozen then
    let src : FrzSrc := match fromFlit with
      | some (id, bib, _, t) => { kind := kind, id := id, bib := bib, time := t }
      | none => { kind := kind, id := s.get F.TRC_FRZ_STATE_id 0, bib := s.bib, time := s.ns }
    let s := { s with frz := { s.frz with srcs := (s.frz.srcs ++ [src]).take 8, total := s.frz.total + 1 } }
    let s := s.satUp F.TRC_FRZ_STATE_sources 0
    if kind == 0 then s.put F.TRC_FRZ_STATE_pin_low 0 1 else s
  else
    let own := (s.frz.idCtr + 1) % 65536
    let src : FrzSrc := match fromFlit with
      | some (id, bib, _, t) => { kind := kind, id := id, bib := bib, time := t }
      | none => { kind := kind, id := own, bib := s.bib, time := s.ns }
    let want := s.flag F.TRC_FRZ_CTRL_drive 0
    let may := s.claimHeld 1 3 0 0 0
    let s := s.halt
    let s := if want && !may then s.imgPost 0x12 0 else s
    let s := { s with
      frz := { s.frz with
        idCtr := if fromFlit.isSome then s.frz.idCtr else own, srcs := [src], total := 1, released := false,
        driven := want && may, tStop := s.ns }
      waits := s.waits.map (fun (p : Nat × Wait) => (p.1, { p.2 with frz := true })) }
    let s := s.frzSeen src.id
    -- the flits leave before the link logic stops
    let s := match fromFlit with
      | some (id, bib, some h, t) => s.frzFlits id bib h t
      | some (_, _, none, _) => s
      | none => s.frzFlits own s.bib (s.get F.TRC_FRZ_CTRL_hops 0) s.ns
    let s := s.puts 0 [(F.TRC_FRZ_STATE_id, src.id), (F.TRC_FRZ_STATE_sources, 1), (F.TRC_FRZ_STATE_held, 1),
      (F.TRC_FRZ_STATE_frozen, 1)]
    let s := if kind == 0 || s.frz.driven then s.put F.TRC_FRZ_STATE_pin_low 0 1 else s
    let s := s.exempt
    let s := if bit (s.get F.TRC_TRIG_CFG_en 0) 2 then s.trigTrace 2 else s
    let s := s.trcPost 6 0
    if s.flag F.TRC_PHOTO_CTRL_armed 0 then s.scanStart else s.trcPost 0x0B 0

/-- Trigger b of R501: when enabled it acts on the trace, and it freezes when its bit of `freeze_on` is set; bit 2 of
`freeze_on` is ignored. -/
def State.trigger (s : State) (b : Nat) : State :=
  if bit (s.get F.TRC_TRIG_CFG_en 0) b then
    let s := s.trigTrace b
    if bit (s.get F.TRC_TRIG_CFG_freeze_on 0) b && b != 2 then s.freezeEnter 1 none else s
  else s

/-- TRACE_TRIGGER: a write of `trigger` in TRC_CTRL (R501, bit 0). -/
def execTraceTrigger (s : State) : Host.Outcome State Fault Refusal := .next (s.whenServed .trace 0 0 (s.trigger 0))

/-- FREEZE_N_FALL: FREEZE_N falls for 2 ns or more (R504). -/
def execFreezeNFall (s : State) : Host.Outcome State Fault Refusal := .next (if s.stage == 0 then s else s.freezeEnter 0 none)

/-- FREEZE: a write of `freeze` in TRC_FRZ_CTRL (R504). -/
def execFreeze (s : State) : Host.Outcome State Fault Refusal := .next (s.whenServed .trace 0 0 (s.freezeEnter 2 none))

/-- FREEZE_RELEASE: `release` stops this module's drive of FREEZE_N and lets the freeze end (R508). -/
def State.freezeRelease (s : State) : State :=
  if s.frozen then
    ({ s with frz := { s.frz with released := true, driven := false } }).put F.TRC_FRZ_STATE_held 0 0
  else s

/-- FREEZE_RELEASE: a write of `release` in TRC_FRZ_CTRL (R508). -/
def execFreezeRelease (s : State) : Host.Outcome State Fault Refusal := .next (s.whenServed .trace 0 0 s.freezeRelease)

/-- Links whose peers sent while this side stood still nak from the first flit they missed (R321); a swap that was not
acknowledged before the freeze is requested again (R317). -/
def State.nakMissed (s : State) : State :=
  s.upLinks.foldl (fun s l =>
    let x := s.lnk l
    let s := match x.tx.swap with
      | some w => if w.acked then s else s.swapAsk l w.out w.tries
      | none => s
    if x.missed then (s.setLnk l { s.lnk l with missed := false }).sendCtl l 3 (toBytes 2 x.rxSeq) 1 else s) s

/-! ### Sync timeout, enable, counters -/

/-- Trace enable of quadrant q: its region must meet R497 and lie under a granted claim of class 4 (R450, R497). -/
def State.trcEnable (s : State) (q : Nat) : State :=
  let size := s.get F.TRC_Q_SIZE_size_mib q
  let post := s.get F.TRC_Q_POST_post_mib q
  let mode := s.get F.TRC_Q_MODE_mode q
  if size < 64 || 65536 < size || post == 0 || size ≤ post || mode == 3 || decide (2 ^ 41 < s.trcBase q + size * 2 ^ 20) then
    (s.put F.TRC_Q_MODE_en q 0).trcPost 0x0D (256 * q)
  else if !s.trcMay q 0 (size * 2 ^ 20) then (s.put F.TRC_Q_MODE_en q 0).imgPost 0x12 0
  else
    let s := s.puts q [(F.TRC_Q_MODE_triggered, 0), (F.TRC_Q_MODE_stopped, 0), (F.TRC_Q_MODE_wrapped, 0), (F.TRC_Q_MODE_en, 1),
      (F.TRC_Q_NEXT_next, 0), (F.TRC_Q_LOST_lost, 0)]
    (s.setTru q { tEnable := s.ns }).trcHead q

/-- TRACE_ENABLE: `en` of TRC_Qq_MODE is set (R497). -/
def execTraceEnable (q : Fin 4) (s : State) : Host.Outcome State Fault Refusal := .next (s.whenServed .traceQ q 0 (s.trcEnable q))

/-- SYNC_TIMEOUT: a wait of a cluster's sequencer, copy engine or Scout lasts beyond `timeout_us` (R496). -/
def State.syncTimeout (s : State) (w : Nat) : State :=
  match waiterClu w, slFind s.waits w with
  | some c, some x =>
    let lim := 1000 * s.get F.CLU_TRC_CFG_timeout_us (cluU c)
    if !s.live || x.timedOut || lim == 0 || decide (s.ns ≤ x.tStart + x.stopped + lim) then s
    else
      let s := { s with waits := slSet s.waits w { x with timedOut := true } }
      let s := s.trcQueue (s.traceQuad c.die) (x.toRec w s.ns true false)
      let s := s.trcPost 5 (bits (unitOf c.die c.cl 0 0) 23 8)
      let s := s.trigger 1
      if s.get F.CLU_TRC_CFG_to_act (cluU c) == 1 then s.abandon c else s
  | _, _ => s

/-- SYNC_TIMEOUT: see State.syncTimeout. -/
def execSyncTimeout (w : Waiter) (s : State) : Host.Outcome State Fault Refusal :=
  .next ((s.waitsOf (waiterCode w)).foldl (fun s k => s.syncTimeout k) s)

/-- Set every performance counter to 0 (R487). -/
def State.perfClear (s : State) : State :=
  { s with regs := s.regs.filter (fun p => !isPerf p.1), perf := { s.perf with since := s.runNs, read := [] } }

/-- PERF_CLEAR: a write of `perf_clear` in TRC_CTRL (R487). -/
def execPerfClear (s : State) : Host.Outcome State Fault Refusal := .next (s.whenServed .trace 0 0 s.perfClear)

/-! ### Exception records (R171) -/

/-- EXC_RECORD_MERGE: a free die record (of die u) or the free module record takes the earliest valid record of the
level below (R171); the latch of the module record is trigger 3 (R501). -/
def execExcRecordMerge (u : Option (Fin 17)) (s : State) : Host.Outcome State Fault Refusal :=
  match s.excMerge u with
  | (s', latched) => .next (if latched then s'.trigger 3 else s')

end Sys2Proof.Machine
end

