-- ==== Sys2Proof/Machine/Faults.lean ====
section
/-!
DEFINITION. The fault engine (R355 to R366, R376 to R380): quarantine, remap, column and generator tests,
requalification, and the persistence of the remap table.
-/

namespace Sys2Proof.Machine

/-! ### Quarantine (R356) -/

/-- The cluster a unit word names. -/
def unitClu (u : Nat) : Clu := cluNo (bits u 23 19) (bits u 18 12)

/-- The core a unit word names. -/
def unitCore (u : Nat) : CoreId := coreNo (unitClu u) (bits u 11 6)

/-- Mark a unit quarantined in the remap table; its counters count no more (R487). -/
def State.quarAdd (s : State) (kind unit : Nat) : State :=
  if s.quarIs kind unit then s
  else
    ({ s with flt := { s.flt with quar := s.flt.quar ++ [kind * 2 ^ 24 + unit], dirty := true } }).perfStop (kind * 2 ^ 24 + unit)

/-- A lasting fault: the record and trigger 5 (R355, R501). -/
def State.fltLasting (s : State) (kind unit code addr : Nat) : State :=
  (s.fltLog kind unit 1 code addr).trigger 5

/-- The module becomes degraded (R366). -/
def State.degrade (s : State) (kind unit : Nat) : State :=
  if s.flt.degraded then s else ({ s with flt := { s.flt with degraded := true } }).fltPost kind unit 8

/-- No spare was left at a level: the escalation is recorded and reported (R24, R381). -/
def State.noSpare (s : State) (kind unit : Nat) : State := (s.fltLog kind unit 3 0 0).fltPost kind unit 3

/-- A fault found during a lap abandons the cluster at once (R357). -/
def State.fltAbandon (s : State) (c : Clu) : State :=
  if s.lap.step == 0 then s else s.abandon c

/-- Quarantine a cluster: its Scout calls are lost, its domain goes off (R207, R356). -/
def State.cluOff (s : State) (c : Clu) : State :=
  let s := (s.fltAbandon c).sctAbort c
  let s := s.quarAdd 3 (cluUnit c)
  s.domSet (.cluster c) .off

/-- Can the alternate take over a position of die d's quadrant (R16, R363). -/
def State.altFor (s : State) (d : Nat) : Bool :=
  match s.flt.alt with
  | some a => !s.quarIs 4 (unitOf a 0 0 0) && (a == 16 || s.traceQuad d == a / 4)
  | none => false

/-- A takeover of die d fails: the module is degraded (R362, R374). -/
def State.takeoverFail (s : State) (d : Nat) (rest : List Nat) : State :=
  (({ s with flt := { s.flt with takeovers := rest } }).fltPost 4 (unitOf d 0 0 0) 5).degrade 4 (unitOf d 0 0 0)

/-- A lasting fault in die a, which may be the alternate of a running takeover: that takeover fails (R374). -/
def State.altFault (s : State) (a : Nat) : State :=
  match s.flt.takeovers with
  | d :: rest => if s.flt.alt == some a then s.takeoverFail d rest else s
  | [] => s

/-- Does a takeover run for a die of the quadrant in which die d works (R374). -/
def State.takeoverNear (s : State) (d : Nat) : Bool :=
  s.flt.takeovers.any (fun x => x != d && s.traceQuad x == s.traceQuad d) && !s.flt.takeovers.contains d

/-- A fault whose spare is assigned after the running takeover (R28, R374). -/
def State.fltQueue (s : State) (key : Nat) : State :=
  { s with flt := { s.flt with queued := s.flt.queued ++ [(s.ns, key)] } }

/-- A lasting fault meets the region of an image that takes effect: the application stops (R449). -/
def State.imgHit (s : State) (l : List Clu) : State :=
  if s.img.sect.isSome && l.any (fun c => (s.clu c).stalled) then { s with img := { s.img with hit := true } } else s

/-- Retire a field die (R362): it is quarantined, its clusters are abandoned, and its position waits for a takeover. A
die without a position only loses the alternate role, and a takeover that it serves fails. Without an alternate the module is
degraded. -/
def State.retireDie (s : State) (d : Nat) (code : Nat := 0) : State :=
  let unit := unitOf d 0 0 0
  if s.quarIs 4 unit then s
  else
    let s := (s.fltLasting 4 unit code 0).altFault d
    let held := s.flt.dieMap.contains d
    let ok := s.altFor d
    let s := s.imgHit ((s.activeClus d).map (fun n => cluNo d n))
    let s := (s.activeClus d).foldl (fun s n => (s.fltAbandon (cluNo d n)).sctAbort (cluNo d n)) s
    let s := s.quarAdd 4 unit
    let s := { s with flt := { s.flt with mapDue := s.flt.mapDue.filter (fun k => bits k 23 19 != d) } }
    let s := if s.flt.alt == some d then { s with flt := { s.flt with alt := none } } else s
    if !held then s
    else if ok then { s with flt := { s.flt with takeovers := s.flt.takeovers ++ [d] } }
    else (s.fltPost 4 unit 5).degrade 4 unit

/-- Replace the element a of a list by b. -/
def replaceN (a b : Nat) (l : List Nat) : List Nat := l.map (fun x => if x == a then b else x)

/-- A core that becomes active has `retired_col_next` equal to `retired_col` (R51). -/
def State.activateCore (s : State) (c : CoreId) : State :=
  s.put F.CORE_COLMAP_retired_col_next (coreU c) (s.get F.CORE_COLMAP_retired_col (coreU c))

/-- Does a physical cluster hold a logical position, now or from the next start hurdle on. -/
def State.holdsPos (s : State) (c : Clu) : Bool := s.flt.dieMap.contains c.die.val && (s.mapped.activeClus c.die).contains c.cl.val

/-- A position of die d moves from its cluster a to its cluster n. While the die holds a logical position the new mapping takes
effect at the next start hurdle, for which the cluster is powered and waits to be refilled (R29, R51, R357, R359). -/
def State.cluMove (s : State) (d : Fin 17) (a n : Nat) : State :=
  let l := replaceN a n (s.mapped.activeClus d)
  if !s.flt.dieMap.contains d.val then { s with flt := { s.flt with cluMap := slSet s.flt.cluMap d.val l, dirty := true } }
  else
    let c := cluNo d n
    let s := s.imgHit [cluNo d a]
    let s := { s with flt := { s.flt with
      cluNext := slSet s.flt.cluNext d.val l, dirty := true
      mapDue := s.flt.mapDue.filter (· != 3 * 2 ^ 24 + cluUnit (cluNo d a)) ++ [3 * 2 ^ 24 + cluUnit c] } }
    let s := s.domSet (.cluster c) .on
    s.setClu c { s.clu c with refillPend := true, reload := true }

/-- A position of cluster c moves from its core a to its core n, like State.cluMove. -/
def State.coreMove (s : State) (c : Clu) (a n : Nat) : State :=
  let l := replaceN a n (s.mapped.activeCores c)
  if !s.holdsPos c then { s with flt := { s.flt with coreMap := slSet s.flt.coreMap (cluU c) l, dirty := true } }
  else
    let k := coreNo c n
    let s := s.imgHit [c]
    let s := { s with flt := { s.flt with
      coreNext := slSet s.flt.coreNext (cluU c) l, dirty := true
      mapDue := s.flt.mapDue.filter (· != 2 * 2 ^ 24 + coreUnit (coreNo c a)) ++ [2 * 2 ^ 24 + coreUnit k] } }
    (s.setClu c { s.clu c with refillPend := true }).activateCore k

/-- A retired cluster's position moves to the lowest-numbered good, unused cluster of the die; with none left the die is retired
(R24, R26). -/
def State.spareCluster (s : State) (c : Clu) : State :=
  let act := s.mapped.activeClus c.die
  if !act.contains c.cl then s
  else match (List.range 105).find? (fun n => !act.contains n && !s.quarIs 3 (unitOf c.die n 0 0)) with
    | none => (s.noSpare 3 (cluUnit c)).retireDie c.die
    | some n => s.cluMove c.die c.cl n

/-- Retire a cluster (R24, R26): it is quarantined, and its position moves to a spare, after the takeover that runs in its quadrant
(R374). -/
def State.retireCluster (s : State) (c : Clu) (code : Nat := 0) : State :=
  let unit := cluUnit c
  if s.quarIs 3 unit then s
  else
    let s := ((s.fltLasting 3 unit code 0).altFault c.die).cluOff c
    if s.takeoverNear c.die then s.fltQueue (3 * 2 ^ 24 + unit) else s.spareCluster c

/-- A retired core's position moves to the lowest-numbered good, unused core of the cluster; with none left the cluster is retired
(R24, R26). -/
def State.spareCore (s : State) (c : CoreId) : State :=
  let act := s.mapped.activeCores c.clu
  if !act.contains c.core then s
  else match (List.range 52).find? (fun n => !act.contains n && !s.quarIs 2 (unitOf c.clu.die c.clu.cl n 0)) with
    | none => (s.noSpare 2 (coreUnit c)).retireCluster c.clu
    | some n => s.coreMove c.clu c.core n

/-- Retire a core (R24, R26), like State.retireCluster. -/
def State.retireCore (s : State) (c : CoreId) (code : Nat) : State :=
  let unit := coreUnit c
  if s.quarIs 2 unit then s
  else
    let held := (s.mapped.activeCores c.clu).contains c.core
    let s := ((s.fltLasting 2 unit code 0).altFault c.clu.die).quarAdd 2 unit
    let s := if held then s.fltAbandon c.clu else s
    if s.takeoverNear c.clu.die then s.fltQueue (2 * 2 ^ 24 + unit) else s.spareCore c

/-- The faults that waited for a takeover get their spares, in the order of their detection, the lower position first at one time
(R28, R374). -/
def State.serveQueued (s : State) : State :=
  if !s.flt.takeovers.isEmpty then s
  else
    (sortOn (fun p => p.1 * 2 ^ 28 + p.2) s.flt.queued).foldl (fun s p =>
      if p.2 / 2 ^ 24 == 3 then s.spareCluster (unitClu (p.2 % 2 ^ 24)) else s.spareCore (unitCore (p.2 % 2 ^ 24)))
      { s with flt := { s.flt with queued := [] } }

/-- At a start hurdle the mappings written to the remap table take effect, and each is reported (R29, R357). -/
def State.mapTake (s : State) : State :=
  let due := s.flt.mapDue
  let t := s.mapped
  let t := { t with flt := { t.flt with mapDue := [] } }
  due.foldl (fun s k => (s.fltLog (k / 2 ^ 24) (k % 2 ^ 24) 2 0 0).fltPost (k / 2 ^ 24) (k % 2 ^ 24) 2) t

/-! ### The column test (R360) -/

/-- What the fault engine does with columns that are lasting: an excluded column is no spare any more; an active one is excluded
from the next hurdle on while the spare is there and no fault detected before took it; else the core is retired (R24, R28, R360).
`residue`: the test followed CORE_RESIDUE_LASTING, which an active column must explain. -/
def State.colAct (s : State) (c : CoreId) (cols : List Nat) (residue : Bool) (code : Nat) : State :=
  let u := coreU c
  let ex := s.get F.CORE_COLMAP_retired_col u
  let next := s.get F.CORE_COLMAP_retired_col_next u
  let col := fun (k : Nat) => unitOf c.clu.die c.clu.cl c.core k
  let taken := next != ex && s.quarIs 1 (col next)
  let s := cols.foldl (fun s k => s.quarAdd 1 (col k)) s
  let s := if cols.contains ex then s.put F.CORE_COLMAP_spare_avail u 0 else s
  match cols.filter (· != ex) with
  | [] => if residue then s.retireCore c code else s
  | [k] =>
    if s.flag F.CORE_COLMAP_spare_avail u && (!taken || k == next) then
      let s := s.put F.CORE_COLMAP_retired_col_next u k
      if code == 0x0A then { s with flt := { s.flt with tested := s.flt.tested.filter (· != col k) ++ [col k] } } else s
    else s.retireCore c code
  | _ => s.retireCore c code

/-- The result of a column test of a core (R102, R360): columns that mismatched in one run only are transient; each lasting one is
recorded with CORE_COLUMN_TEST. -/
def State.colLog (s : State) (c : CoreId) (once cols : List Nat) : State :=
  let col := fun (k : Nat) => unitOf c.clu.die c.clu.cl c.core k
  let s := (sortOn id once.eraseDups).foldl (fun s k => s.fltTransient 1 (col k) 0x0A 0) s
  (sortOn id cols.eraseDups).foldl (fun s k => s.fltLasting 1 (col k) 0x0A 0) s

/-- A column test of a core and what follows from it (R360). -/
def State.colResult (s : State) (c : CoreId) (once cols : List Nat) (residue : Bool) : State :=
  (s.colLog c once cols).colAct c (sortOn id cols.eraseDups) residue 0x0A

/-- A lasting error of the word of SRAM at place a: its core is quarantined, or for a word of the pool its cluster (R355). -/
def State.sramLasting (s : State) (a : Nat) : State :=
  if bits a 63 61 == 1 then s.retireCluster (placeClu a) 7 else s.retireCore (placeCore a) 7

/-- The lasting errors that reads of SRAM have found are acted on. -/
def State.sramServe (s : State) : State :=
  s.flt.sramBad.foldl State.sramLasting { s with flt := { s.flt with sramBad := [] } }

/-- RESIDUE_RETRY: the retry of R88 and R89; when the fault is lasting, the column test that follows finds columns `cols` that
mismatch, each with whether it does in both of its runs (R360), and the cluster's part of a lap ends (R357). -/
def execResidueRetry (c : CoreId) (q : Fin 4) (upset : List (Nat × Nat × Int)) (cols : List (Fin 33 × Bool)) (s : State) :
    Host.Outcome State Fault Refusal :=
  .next (if s.cluGo c.clu && !s.coreQuar c then
    match s.failedRun c q with
    | none => s
    | some _ =>
      let r := s.residueRetry c q upset
      if r.2 then
        let s := r.1.fltLasting 2 (coreUnit c) 7 0
        let s := s.colResult c ((cols.filter (fun p => !p.2)).map (fun p => p.1.val)) ((cols.filter (fun p => p.2)).map (fun p => p.1.val)) true
        let s := s.setCore c { s.core c with lastingPend := false }
        s.fltAbandon c.clu
      else r.1.fltTransient 2 (coreUnit c) 6 0
  else s)

/-! ### Scout generators (R361) -/

/-- Does any range descriptor of the cluster's scout table use generator g: groups 0 to 127 of its two bases (R198). -/
def State.genUsed (s : State) (c : Clu) (g : Nat) : Bool :=
  let base := s.get F.SCT_CFG_base (cluU c) * 4096
  (List.range (s.get F.SCT_CFG_entries (cluU c))).any (fun k =>
    let d := s.ld (poolAt c (base + 64 * k)) 64
    decide ((g + 256 - sct.gx d) % 256 < 128) || decide ((g + 256 - sct.gw d) % 256 < 128))

/-- A generator that fails twice is remapped to the lowest-numbered generator that no scout table entry uses; with none
unused, or all four entries in force, it stays in use, NO_SPARE is reported, and its calls are untrusted (R361,
State.genLost). -/
def State.genFault (s : State) (c : Clu) (g : Nat) : State :=
  let u := cluU c
  let unit := unitOf c.die c.cl 0 0 + g
  let s := s.fltLasting 8 unit 0 0
  let s := (s.quarAdd 8 unit)
  match genRemaps.find? (fun r => !bit (s.rd r u).toNat 31),
    (List.range 256).find? (fun k => !s.genUsed c k && !s.quarIs 8 (unitOf c.die c.cl 0 0 + k)) with
  | some r, some k =>
    ((s.wr r u (BitVec.ofNat 32 (2 ^ 31 + k * 256 + g))).fltLog 8 unit 2 0 0).fltPost 8 unit 2
  | _, _ => s.noSpare 8 unit

/-! ### Lanes, links, channels, stewards (R314, R365) -/

/-- The unit of a link lane: direction 0 transmit, 1 receive (R380). -/
def laneUnit (l : Nat) (rx : Bool) (lane : Nat) : Nat := l * 256 + b2n rx * 128 + lane

/-- Post RLY_SEND_STATUS of a cluster (R327). -/
def State.sendPost (s : State) (c : Clu) (code tensor : Nat) : State :=
  s.post R.RLY_SEND_STATUS (cluU c) [(F.RLY_SEND_STATUS_tensor, tensor)] code (dieSrc c.die 7)

/-- Packets that a send is cut into (R309). -/
def Send.n (k : Send) : Nat := (bits k.desc 199 168 + 15359) / 15360

/-- Are all flits of a send acknowledged on its first hop (R309). -/
def State.sndAcked (s : State) (c : Clu) (k : Send) : Bool :=
  let x := s.lnk k.link
  let mine := fun (f : TxFlit) => f.owner == some (cluU c, k.off)
  k.started && k.next == k.n && !x.queue.any mine && !(x.replay.any (fun p => mine p.2))

/-- Drop a send with a status (R300, R309). -/
def State.sndDrop (s : State) (c : Clu) (k : Send) (code tensor : Nat) : State :=
  (s.setClu c { s.clu c with sends := (s.clu c).sends.erase k }).sendPost c code tensor

/-- The sends in flight by a link that is retired, by cluster: those with packets or flits that were not acknowledged. -/
def State.sndsOn (s : State) (l : Nat) : List (Clu × Send) :=
  s.clus.flatMap (fun p =>
    let c := cluNo (p.1 / 105) (p.1 % 105)
    (p.2.sends.filter (fun k => k.started && k.link == l && !s.sndAcked c k)).map (fun k => (c, k)))

/-- The queued flits of packets that came by a retired link end their packets where they are cut. -/
def cutTails (a : Nat) : List TxFlit → List TxFlit
  | [] => []
  | f :: r =>
    (if f.src == some a && !(r.any (fun g => g.src == some a && g.vc == f.vc)) then { f with tail := true } else f)
      :: cutTails a r

/-- A link whose forwarded packets came by link a, which is retired: they end here, sent in part. -/
def LinkSt.cutFrom (x : LinkSt) (a : Nat) : LinkSt :=
  let left := fun (vc : Nat) => x.queue.any (fun f => f.src == some a && f.vc == vc)
  { x with queue := cutTails a x.queue, busy := x.busy.filter (fun p => p.2 != some a || left p.1) }

/-- Retire a link (R300): unacknowledged flits are lost, packets that passed through leave their buffers, and sends whose packets
are lost fail at their sender. -/
def State.retireLink (s : State) (l : Nat) : State :=
  if s.get F.RLY_STATE_state l == 5 then s
  else
    let x := s.lnk l
    let s := s.fltLasting 6 l 6 0
    let s := (s.sndsOn l).foldl (fun (s : State) (p : Clu × Send) => s.sndDrop p.1 p.2 0x0C (bits p.2.desc 51 36)) s
    let s := s.setLnk l { x with
      queue := [], replay := [], asm := [], busy := [], parked := [], bad := none, requal := false, tx := { x.tx with swap := none }
      rx := { x.rx with swap := none } }
    let s : State := { s with links := s.links.map (fun (p : Nat × LinkSt) => (p.1, p.2.cutFrom l)) }
    let s := x.queue.foldl (fun s f => match f.src with
      | some a => s.batonBack a f.vc 1
      | none => s) s
    ((s.put F.RLY_STATE_state l 5).perfStop (6 * 2 ^ 24 + l)).rlyPost l 6

/-- The register field that tells whether a direction's spare is available, and the one that names it. -/
def spareAvail (rx : Bool) : Fld := if rx then F.RLY_STATE_rx_spare_avail else F.RLY_STATE_tx_spare_avail
def spareLane (rx : Bool) : Fld := if rx then F.RLY_STATE_rx_spare else F.RLY_STATE_tx_spare

/-- Ask the transmitter for an emergency swap of receive lane `out`, 16 frames ahead (R315). A swap under way that takes this lane
out goes on; without a spare, or when a swap under way holds it for another lane, the link is retired (R24, R28, R317). -/
def State.swapEmergency (s : State) (l out : Nat) : State :=
  let x := s.lnk l
  if x.rx.swap.any (fun w => w.out == out) then s
  else if !s.flag F.RLY_STATE_rx_spare_avail l || x.rx.swap.isSome then s.retireLink l
  else
    let w : Swap := { out := out, inn := s.get F.RLY_STATE_rx_spare l, frame := (x.rxFrame + 16) % 2 ^ 32, acked := true,
                      emergency := true }
    (s.setLnk l { x with rx := { x.rx with swap := some w } }).sendCtl l 8 (swapBytes w) 3

/-- An active transmit lane leaves service for the spare: as State.swapEmergency, from this side (R24, R28, R314). -/
def State.swapOut (s : State) (l out : Nat) : State :=
  match (s.lnk l).tx.swap with
  | some w => if w.out == out then s else s.retireLink l
  | none => if s.flag F.RLY_STATE_tx_spare_avail l then s.swapAsk l out 1 else s.retireLink l

/-- Quarantine a lane (R24, R314, R365): the spare of its direction is unavailable; an active lane is swapped out for the spare, and
without one the link is retired. -/
def State.laneQuar (s : State) (l : Nat) (rx : Bool) (lane : Nat) : State :=
  let s := (s.fltLasting 5 (laneUnit l rx lane) 5 0).quarAdd 5 (laneUnit l rx lane)
  let x := s.lnk l
  let s := s.rlyPost l 5
  if !(if rx then x.rx else x.tx).act.contains lane then s.put (spareAvail rx) l 0
  else if rx then s.swapEmergency l lane
  else s.swapOut l lane

/-- An HBM channel goes out of service: the module is degraded (R289, R365). -/
def State.chanQuar (s : State) (unit code : Nat) : State :=
  if s.quarIs 7 unit then s else (((s.fltLasting 7 unit code 0).quarAdd 7 unit)).degrade 7 unit

/-- A steward is quarantined: its targets pass to the lowest-numbered live steward, its stack is discarded and its
active sources become pending again (R365, R540). With none live the module is degraded. -/
def State.stewQuar (s : State) (t : Nat) : State :=
  if s.stewBad t then s
  else
    let s0 := s
    let s := (s.fltLasting 9 t 0 0).quarAdd 9 t
    let act := s.stack t
    let s := act.foldl (fun s p => s.setPend p.1 true) s
    let s := { s with starter := { s.starter with stk := slDel s.starter.stk t } }
    let s := s.post R.HUB_INT_STATUS 0 [(F.HUB_INT_STATUS_target, t), (F.HUB_INT_STATUS_source, (act.map (·.1)).headD 0)]
      2 1364
    let s := if (List.range 8).all s.stewBad then s.degrade 9 t else s
    s.notify s0

/-- Blocks of steward firmware found uncorrectable, each read again: recorded as transient, or as lasting (R355). -/
def State.flashLog (s : State) (l : List Bool) : State :=
  l.foldl (fun s last => if last then s.fltLasting 0 0 0 0 else s.fltTransient 0 0 0 0) s

/-! ### Commands (R364, R374, R380) -/

/-- Is a unit word laid out for its kind, with every number in range (R380). -/
def fltUnitOk (kind u : Nat) : Bool :=
  let d := bits u 23 19
  let c := bits u 18 12
  let k := bits u 11 6
  let b := bits u 5 0
  match kind with
  | 1 => d ≤ 16 && c ≤ 104 && k ≤ 51 && b ≤ 32
  | 2 => d ≤ 16 && c ≤ 104 && k ≤ 51 && b == 0
  | 3 => d ≤ 16 && c ≤ 104 && bits u 11 0 == 0
  | 4 => d ≤ 16 && bits u 18 0 == 0
  | 5 => bits u 23 14 == 0 && bits u 6 3 == 0 && bits u 2 0 ≤ 4
  | 6 => bits u 23 6 == 0
  | 7 => bits u 23 13 == 0 && bits u 7 5 == 0
  | 8 => d ≤ 16 && c ≤ 104 && bits u 11 8 == 0
  | 9 => bits u 23 3 == 0
  | _ => false

/-- Does a lane take part in a swap or in a retraining of its direction (R314). -/
def Wire.works (w : Wire) (lane : Nat) : Bool :=
  w.swap.any (fun k => k.out == lane || k.inn == lane) || w.retrain.any (fun p => p.1 == lane)

/-- Is the procedure of a unit running (R374): its refill, its takeover or one that the alternate serves, the swap or retraining of a
lane, the requalification of a link. -/
def State.fltBusy (s : State) (kind u : Nat) : Bool :=
  match kind with
  | 1 => (s.clu (unitClu u)).refillPend
  | 2 => (s.clu (unitClu u)).refillPend
  | 3 => (s.clu (unitClu u)).refillPend
  | 4 => s.flt.takeovers.contains (bits u 23 19) || (!s.flt.takeovers.isEmpty && s.flt.alt == some (bits u 23 19))
  | 5 =>
    let x := s.lnk (bits u 13 8)
    (if bit u 7 then x.rx else x.tx).works (bits u 2 0)
  | 6 => (s.lnk (bits u 5 0)).requal
  | _ => false

/-- Put the named unit in quarantine; for a die, take it over (R356, R380). -/
def State.quarUnit (s : State) (kind u : Nat) : State :=
  match kind with
  | 1 => s.fltLasting 1 u 0 0 |>.colAct (unitCore u) [bits u 5 0] false 0
  | 2 => s.retireCore (unitCore u) 0
  | 3 => s.retireCluster (unitClu u)
  | 4 => s.retireDie (bits u 23 19)
  | 5 => s.laneQuar (bits u 13 8) (bit u 7) (bits u 2 0)
  | 6 => s.retireLink (bits u 5 0)
  | 7 => s.chanQuar u 0
  | 8 => s.genFault (unitClu u) (bits u 7 0)
  | _ => s.stewQuar (bits u 2 0)

/-- A command of HUB_FLT_CMD: refused with a reserved value, ignored while the unit's procedure runs (R374, R380). -/
def State.fltCmd (s : State) (kind u : Nat) (act : State → State) : State :=
  if !fltUnitOk kind u then s.fltPost kind u 0x0A
  else if s.fltBusy kind u then s.fltPost kind u 0x0B
  else act s

/-- FAULT_QUARANTINE: command 0x1 of HUB_FLT_CMD (R380). -/
def execFaultQuarantine (kind : BitVec 4) (u : BitVec 24) (s : State) : Host.Outcome State Fault Refusal :=
  .next (s.whenServed .fault 0 0 (s.fltCmd kind.toNat u.toNat (fun s => s.quarUnit kind.toNat u.toNat)))

/-- The performance counters of a requalified unit are set to 0 (R487). -/
def State.perfZero (s : State) (kind u : Nat) : State :=
  let clr := fun (s : State) (lo hi : Nat) =>
    ({ s with regs := s.regs.filter (fun p => !(isPerf p.1 && lo ≤ p.1 && p.1 < hi)) }).perfStart (kind * 2 ^ 24 + u)
  match kind with
  | 2 => let b := coreBase (coreU (unitCore u)); clr s b (b + 0x80)
  | 3 => let b := cluBase (cluU (unitClu u)); clr s b (b + 0x10000)
  | 4 => let b := dieBase (bits u 23 19); clr s b (b + 0x800000)
  | 6 => let b := Blk.base .link (bits u 5 0); clr s b (b + 0x4000)
  | _ => s

/-- A unit has passed its requalification (R364). -/
def State.requalDone (s : State) (kind u : Nat) : State := ((s.perfZero kind u).fltLog kind u 4 0 0).fltPost kind u 6

/-- A unit has failed it. -/
def State.requalFail (s : State) (kind u code : Nat) : State := (s.fltLog kind u 5 code 0).fltPost kind u 7

/-- A unit that passed goes back to the good, unused units of its level (R364). -/
def State.requalPass (s : State) (kind u : Nat) : State :=
  let s := { s with flt := { s.flt with quar := s.flt.quar.filter (· != kind * 2 ^ 24 + u), dirty := true } }
  let s := match kind with
    | 1 =>
      let c := coreU (unitCore u)
      if s.get F.CORE_COLMAP_retired_col c == bits u 5 0 then s.put F.CORE_COLMAP_spare_avail c 1 else s
    | 4 => { s with flt := { s.flt with alt := some (bits u 23 19) } }
    | 5 => s.put (if bit u 7 then F.RLY_STATE_rx_spare_avail else F.RLY_STATE_tx_spare_avail) (bits u 13 8) 1
    | _ => s
  s.requalDone kind u

/-- The requalification of a retired link begins: it trains and aligns, and passes when it enters UP (R364). -/
def State.requalLink (s : State) (l : Nat) : State :=
  (s.setLnk l { aligned := (s.lnk l).aligned, requal := true }).put F.RLY_STATE_state l 1

/-- Is a unit out of service: in quarantine, or a retired link. -/
def State.unitOut (s : State) (kind u : Nat) : Bool :=
  if kind == 6 then s.get F.RLY_STATE_state (bits u 5 0) == 5 else s.quarIs kind u

/-- Does a column lie in the unit under test. -/
def colIn (kind u : Nat) (p : CoreId × Fin 33) : Bool :=
  match kind with
  | 1 => unitOf p.1.clu.die p.1.clu.cl p.1.core p.2 == u || unitOf p.1.clu.die p.1.clu.cl p.1.core 0 == bits u 23 6 * 64
  | 2 => coreUnit p.1 == u
  | 3 => cluUnit p.1.clu == u
  | 4 => p.1.clu.die.val == bits u 23 19
  | _ => false

/-- Do at most n of a list's members differ. -/
def atMost [BEq a] (n : Nat) (l : List a) : Bool := decide (l.eraseDups.length ≤ n)

/-- Do the columns found lasting let a unit pass: none of a column or core, at most 2 cores of a cluster with any, at most 5 clusters
of a die with more (R364). -/
def colsPass (kind : Nat) (l : List CoreId) : Bool :=
  match kind with
  | 1 | 2 => l.isEmpty
  | 3 => atMost 2 l
  | 4 => atMost 5 ((l.map (fun c => c.clu)).filter (fun c => !atMost 2 (l.filter (fun x => x.clu == c))))
  | _ => true

/-- The test of a unit (R364) with the columns that mismatch, which it records (R102, R360), and its outcome. -/
def State.unitTest (s : State) (kind u : Nat) (f : UnitFound) : State × Bool :=
  let l := f.cols.filter (fun p => colIn kind u (p.core, p.col))
  (l.foldl (fun s p => if p.last then s.colLog p.core [] [p.col.val] else s.colLog p.core [p.col.val] []) s,
    f.passes && colsPass kind ((l.filter (fun p => p.last)).map (fun p => p.core)))

/-- Does a test find a lasting column in a column or core. -/
def colFound (kind u : Nat) (f : UnitFound) : Bool :=
  decide (kind ≤ 2) && f.cols.any (fun p => p.last && colIn kind u (p.core, p.col))

/-- Requalify a quarantined unit with the outcome of its test (R364). -/
def State.requalify (s : State) (kind u : Nat) (f : UnitFound) : State :=
  if !s.unitOut kind u then s
  else if kind == 6 then s.requalLink (bits u 5 0)
  else
    let r := s.unitTest kind u f
    if r.2 then r.1.requalPass kind u else r.1.requalFail kind u (if colFound kind u f then 0x0A else 0)

/-- The test of a unit by command, without a state change of the unit (R380). -/
def State.testCmd (s : State) (kind u : Nat) (f : UnitFound) : State :=
  let r := s.unitTest kind u f
  r.1.fltPost kind u (if r.2 then 6 else 7)

/-- FAULT_REQUALIFY: command 0x2 of HUB_FLT_CMD, with what the test finds (R360, R364). -/
def execFaultRequalify (kind : BitVec 4) (u : BitVec 24) (found : UnitFound) (s : State) : Host.Outcome State Fault Refusal :=
  .next (s.whenServed .fault 0 0 (s.fltCmd kind.toNat u.toNat (fun s => s.requalify kind.toNat u.toNat found)))

/-- FAULT_TEST: command 0x3 of HUB_FLT_CMD: see State.testCmd. -/
def execFaultTest (kind : BitVec 4) (u : BitVec 24) (found : UnitFound) (s : State) : Host.Outcome State Fault Refusal :=
  .next (s.whenServed .fault 0 0 (s.fltCmd kind.toNat u.toNat (fun s => s.testCmd kind.toNat u.toNat found)))

/-- The cores whose columns the test of a unit covers (R364). -/
def unitCores (kind u : Nat) : List CoreId :=
  match kind with
  | 1 | 2 => [unitCore u]
  | 3 => (List.range 52).map (coreNo (unitClu u))
  | 4 => (List.range 105).flatMap (fun n => (List.range 52).map (coreNo (cluNo (bits u 23 19) n)))
  | _ => []

/-- What a test started by a register write finds: any columns or none, and any outcome, free values (log 29). -/
def State.freeFound (s : State) (kind u : Nat) : UnitFound :=
  { passes := Config.free s.freeCtr % 2 == 1
    cols := (unitCores kind u).zipIdx.flatMap (fun c => (List.finRange 33).filterMap (fun k =>
      let v := Config.free (s.freeCtr + 1 + c.2) / 3 ^ k.val % 3
      if v == 0 then none else some { core := c.1, col := k, last := v == 2 })) }

/-- A write of HUB_FLT_CMD (R380). The outcome of a test it starts is physical: free values. -/
def State.fltCmdWrite (s : State) (cmd kind u : Nat) : State :=
  let f := s.freeFound kind u
  let s' := { s with freeCtr := s.freeCtr + 5461 }
  match cmd with
  | 1 => s.fltCmd kind u (fun s => s.quarUnit kind u)
  | 2 => s'.fltCmd kind u (fun s => s.requalify kind u f)
  | 3 => s'.fltCmd kind u (fun s => s.testCmd kind u f)
  | _ => s.fltPost kind u 0x0A

/-! ### Persistence (R376, R377) -/

/-- The kinds of unit whose state the remap table keeps: not links and stewards (R376). -/
def remapKind (k : Nat) : Bool := k / 2 ^ 24 != 6 && k / 2 ^ 24 != 9

/-- Write the remap table in effect over the older flash copy, with the next generation (R376). -/
def State.remapWrite (s : State) : State :=
  let f := s.flt
  let g := max f.copy0.gen f.copy1.gen + 1
  let k : RemapCopy :=
    { gen := g, tab := { f.toRemapTable with quar := f.quar.filter remapKind, regs := s.remapRegs } }
  { s with flt := if f.copy0.gen ≤ f.copy1.gen then { f with copy0 := k, dirty := false } else { f with copy1 := k, dirty := false } }

/-- REMAP_PERSIST: a change of the remap table is written to flash (R377), not while the clocks are stopped (R374). -/
def execRemapPersist (s : State) : Host.Outcome State Fault Refusal :=
  .next (if s.live && s.flt.dirty then s.remapWrite else s)

end Sys2Proof.Machine
end

