-- ==== Sys2Proof/Machine/Hbm.lean ====
section
/-!
DEFINITION. The HBM4E stacks: errors of reads (R287, R288, R365), refresh and recalibration (R286, R289, R290).
-/

namespace Sys2Proof.Machine

/-- Post HUB_HBM_STATUS of a stack (R293). -/
def State.hbmPost (s : State) (h chan code : Nat) : State :=
  s.post R.HUB_HBM_STATUS h [(F.HUB_HBM_STATUS_chan, chan)] code (2112 + 4 * h)

/-- The unit of the channel that serves an HBM address (R269, R380). -/
def chanUnit (a : Nat) : Nat := a / 2 ^ 36 % 32 * 256 + bits a 12 8

/-- Does an HBM address lie in a durable region: one of the snapshot plan (log 32). -/
def State.durable (s : State) (a : Nat) : Bool :=
  let base := s.get F.SNP_PLAN_HI_plan_hi 0 * 2 ^ 32 + s.get F.SNP_PLAN_LO_plan 0 * 32
  let rec go (k base : Nat) : Bool :=
    match k with
    | 0 => false
    | k + 1 =>
      let kind := s.ldH base 1
      let p0 := s.ldH (base + 8) 8 % 2 ^ 41
      let p1 := s.ldH (base + 16) 8 % 2 ^ 41
      let n := s.ldH (base + 24) 8
      if kind == 0 then false
      else decide (p0 ≤ a ∧ a < p0 + n) || (kind == 1 && decide (p1 ≤ a ∧ a < p1 + n)) || go k (base + 32)
  go 256 base

/-- n corrected reads of the stack that holds an address (R288). -/
def State.hbmCorrected (s : State) (a n : Nat) : State := s.satUpBy F.HUB_HBM_ECC_CNT_corrected (a / 2 ^ 36 % 32) n

/-- An uncorrectable read that passed when it was reissued (R288, R355). -/
def State.hbmTransient (s : State) (a : Nat) : State :=
  let h := a / 2 ^ 36 % 32
  ((s.satUp F.HUB_HBM_ECC_CNT_transient h).hbmPost h (bits a 12 8) 1).fltTransient 7 (chanUnit a) 1 a

/-- A lasting read (R288, R365): the address is latched, the row waits for its repair, and a durable region is lost. -/
def State.hbmLasting (s : State) (a : Nat) : State :=
  let h := a / 2 ^ 36 % 32
  let s := s.satUp F.HUB_HBM_ECC_CNT_lasting h
  let s := s.puts h [(F.HUB_HBM_ERR_ADDR_LO_addr, a / 64), (F.HUB_HBM_ERR_ADDR_HI_addr_hi, a / 2 ^ 32)]
  let s := (s.hbmPost h (bits a 12 8) 2).fltLasting 7 (chanUnit a) 2 a
  let s := { s with flt := { s.flt with rowsDue := s.flt.rowsDue ++ [(chanUnit a, a)] } }
  if s.durable a then (s.fltPost 7 (chanUnit a) 9).degrade 7 (chanUnit a) else s

/-- A read delivers bytes of an access, which stand there from then on: the corrected access is written back, and what the code does
not detect is what the access holds (R287, log 115). -/
def State.hbmGive (s : State) (a : Nat) (bs : List Byte) : State := if bs == s.ldBytes a 64 then s else s.stBytes a bs

/-- One read of the access at address a with what it shows: corrected, issued again once, lasting (R287, R288); true: it failed. -/
def State.hbmRead (s : State) (a : Nat) (u : HbmUpset) : State × Bool :=
  let a := a % 2 ^ 41 / 64 * 64
  let bs := s.ldBytes a 64
  match hbmDecode a bs u.first with
  | .clean => (s.hbmGive a (hbmData a bs u.first), false)
  | .corrected => ((s.hbmGive a (hbmData a bs u.first)).hbmCorrected a 1, false)
  | .bad =>
    match hbmDecode a bs u.again with
    | .clean => ((s.hbmGive a (hbmData a bs u.again)).hbmTransient a, false)
    | .corrected => (((s.hbmGive a (hbmData a bs u.again)).hbmCorrected a 1).hbmTransient a, false)
    | .bad => (s.hbmLasting a, true)

/-- The reads of a transfer of n bytes from a, up to the first that fails. -/
def State.hbmReads (s : State) (a n : Nat) (e : ReadErr) : State × Bool :=
  e.upsets.foldl (fun r u => if r.2 || decide (n ≤ u.1) then r else r.1.hbmRead (a + u.1) u.2) (s, false)

/-- HBM_REFRESH: refresh of a bank (R286): no state that a rule names changes; the contents are kept. -/
def execHbmRefresh (_h : Stack) (_chan : Fin 32) (_bank : Nat) (s : State) : Host.Outcome State Fault Refusal := .next s

/-- When and at what temperature a channel was recalibrated last: at a recalibration, or in the training of its stack at
bring-up (R286, R289). -/
def State.recalLast (s : State) (h chan : Nat) : Option (Nat × Int) :=
  match slFind s.recals (h * 32 + chan) with
  | some r => some r
  | none => slFind s.trained h

/-- Recalibrate a channel: `fails` is how many of at most two attempts failed (R289). -/
def State.recal (s : State) (h chan : Nat) (temp : Int) (fails : Nat) : State :=
  let u := h * 256 + chan
  if s.quarIs 7 u then s
  else
    let s := { s with recals := slSet s.recals (h * 32 + chan) (s.pacer.time, temp) }
    match fails with
    | 0 => s
    | 1 => (s.hbmPost h chan 3).fltTransient 7 u 3 0
    | _ => (s.hbmPost h chan 4).chanQuar u 4

/-- May a recalibration begin: no freeze, not in Blocks (R290). -/
def State.recalMay (s : State) (h : Nat) : Bool := s.live && s.domOn (.hbm ⟨h % 32, Nat.mod_lt _ (by decide)⟩)

/-- A recalibration that is asked for: it runs, or in a freeze or in Blocks it waits for the release or the wake (R290). -/
def State.recalAsk (s : State) (h chan : Nat) (temp : Int) (fails : Nat) : State :=
  if s.recalMay h then s.recal h chan temp fails
  else if s.frozen || s.asleep then { s with recalWait := slSet s.recalWait (h * 32 + chan) (temp, fails) }
  else s

/-- The recalibrations that waited for a release or a wake run (R290). -/
def State.recalLate (s : State) : State :=
  if !s.live then s
  else s.recalWait.foldl (fun s p => s.recalAsk (p.1 / 32) (p.1 % 32) p.2.1 p.2.2) { s with recalWait := [] }

/-- Has `interval_ms` of a channel elapsed since its last recalibration; one never trained is due (R289). -/
def State.recalDue (s : State) (h chan : Nat) : Bool :=
  match s.recalLast h chan with
  | some r => decide (r.1 + s.get F.HUB_HBM_CTRL_interval_ms h * 256000000 ≤ s.pacer.time)
  | none => true

/-- HBM_RECAL_DUE: `interval_ms` of a channel has elapsed (R289). -/
def execHbmRecalDue (h : Stack) (chan : Fin 32) (temp : Int) (fails : Nat) (s : State) : Host.Outcome State Fault Refusal :=
  .next (if s.recalDue h chan then s.recalAsk h chan temp fails else s)

/-- HBM_TEMP_RECAL: the stack temperature has moved by 5 degrees or more since the channel's last recalibration (R289). -/
def execHbmTempRecal (h : Stack) (chan : Fin 32) (temp : Int) (fails : Nat) (s : State) : Host.Outcome State Fault Refusal :=
  .next (match s.recalLast h chan with
    | some r => if 5 ≤ (temp - r.2).natAbs then s.recalAsk h chan temp fails else s
    | none => s)

/-- RECAL_NOW: a write of `recal_now` recalibrates channel `chan` of HUB_HBM_CTRL (R289, R290). -/
def execRecalNow (h : Stack) (temp : Int) (fails : Nat) (s : State) : Host.Outcome State Fault Refusal :=
  .next (s.whenServed .hbm h 0 (s.recalAsk h (s.get F.HUB_HBM_CTRL_chan h) temp fails))

end Sys2Proof.Machine
end

