-- ==== Sys2Proof/Machine/Place.lean ====
section
/-!
DEFINITION. Places: how a copy, send or window names bytes of the four tiers (R267, R268).
-/

namespace Sys2Proof.Machine

/-- Bytes of a tier by its code (R267). -/
def tierSize (t : Nat) : Nat :=
  match t with
  | 0 => 2 ^ 41
  | 1 => 2 ^ 22
  | 2 => 2 ^ 20
  | _ => 2 ^ 16

/-- Does a place hold a reserved encoding, or a nonzero field that must be 0 (R267, R275). -/
def placeReserved (p : Nat) : Bool :=
  let t := bits p 63 61
  let phys := bit p 60
  let d := bits p 59 55
  let c := bits p 54 48
  let k := bits p 47 42
  decide (3 < t) || bit p 41
    || (t == 0 && (d != 0 || c != 0 || k != 0))
    || (t == 1 && k != 0)
    || (t != 0 && (decide ((if phys then 16 else 15) < d) || decide ((if phys then 104 else 99) < c)
      || decide ((if phys then 51 else 49) < k)))

/-- Why a place fails its check (R268). -/
inductive PlaceFail where
  | quarantined | inactive | range
  deriving DecidableEq, Repr

/-- The unit a place names, with a core for the near and staging stores; none when a logical position has no unit. -/
def State.placeUnit (s : State) (p : Nat) : Option CoreId :=
  let d := bits p 59 55
  let c := bits p 54 48
  let k := bits p 47 42
  if bit p 60 then some (coreNo (cluNo d c) k)
  else match s.physClu d c with
    | none => none
    | some q => if bits p 63 61 == 1 then some (coreNo q 0) else ((s.activeCores q)[k]?).map (coreNo q)

/-- Is a channel of the HBM bytes lo to hi - 1 out of service; channel A[12:8] of stack A[40:36] (R269, R289). -/
def State.hbmBad (s : State) (lo hi : Nat) : Bool :=
  (s.flt.quar.filter (fun u => u / 2 ^ 24 == 7)).any (fun u =>
    let st := bits u 12 8
    let ch := bits u 4 0
    let a := max lo (st * 2 ^ 36)
    let b := min hi ((st + 1) * 2 ^ 36)
    decide (a < b) && (decide (2 ^ 13 ≤ b - a)
      || (List.range 33).any (fun i => decide (a / 256 + i ≤ (b - 1) / 256) && (a / 256 + i) % 32 == ch)))

/-- Translate a place and check it for an access of ext bytes, in the order of R268: the physical place of its first
byte, or why it fails. -/
def State.resolve (s : State) (p ext : Nat) : Except PlaceFail Nat :=
  let t := bits p 63 61
  let off := p % 2 ^ 41
  let big := decide (tierSize t < off + ext)
  if t == 0 then (if big then .error .range else .ok off)
  else match s.placeUnit p with
    | none => .error .quarantined
    | some u =>
      let quar := if t == 1 then s.cluQuar u.clu else s.coreQuar u
      let act := s.flt.dieMap.contains u.clu.die.val && (s.activeClus u.clu.die).contains u.clu.cl.val
        && (t == 1 || (s.activeCores u.clu).contains u.core.val)
      if quar then .error .quarantined
      else if !act then .error .inactive
      else if big then .error .range
      else .ok (if t == 1 then poolAt u.clu off else if t == 2 then nearAt u off else stageAt u off)

end Sys2Proof.Machine
end

