-- ==== Sys2Proof/Machine/Upsets.lean ====
section
/-!
DEFINITION. What reads of HBM and of places meet: the upsets that the memories show, and channels out of service (R270, R288, R289).
-/

namespace Sys2Proof.Machine

/-! ### HBM (R288, R289) -/

/-- Does the 64 B access of an upset hold some of n bytes from HBM address a. -/
def inAccess (a n : Nat) (p : Nat × HbmUpset) : Bool := decide (p.1 / 64 * 64 < a + n ∧ a < p.1 / 64 * 64 + 64)

/-- Read n bytes of HBM from address a: each upset in its accesses shows once, up to the first read that fails. True: a read failed,
or a channel that serves the bytes is out of service (R288, R289). -/
def State.hbmMeet (s : State) (a n : Nat) : State × Bool :=
  if s.hbmBad a (a + n) then (s, true)
  else (s.upsets.hbm.filter (inAccess a n)).foldl (fun r p =>
    if r.2 then r
    else { r.1 with upsets := { r.1.upsets with hbm := r.1.upsets.hbm.erase p } }.hbmRead p.1 p.2) (s, false)

/-- Does a write of n bytes from a with the enables `be` cover a 64 B access only in part, so that it is read first (R288). -/
def partWrite (a : Nat) (be : List Bool) (off : Nat) : Bool :=
  let w := (a + off) / 64 * 64
  let cov := (List.range 64).map (fun i => decide (a ≤ w + i) && be.getD (w + i - a) false)
  cov.any id && !cov.all id

/-- The accesses that a write of bytes with the enables `be` from HBM address a cannot write: those of a channel out of service, and
those it covers in part whose read fails (R288, R289). -/
def State.hbmFails (s : State) (a : Nat) (be : List Bool) : State × List Nat :=
  (List.range ((a + be.length + 63) / 64 - a / 64)).foldl (fun r i =>
    let w := 64 * (a / 64 + i)
    let t := if partWrite a be (w - a) then r.1.hbmMeet w 64 else (r.1, r.1.hbmBad w (w + 64))
    (t.1, if t.2 then r.2 ++ [w / 64] else r.2)) (s, [])

/-- Write bytes, of which some may be disabled, to HBM from address a upward; bytes of the image store stay (R445). -/
def State.hbmPut (s : State) (a : Nat) : List (Option Byte) → State
  | [] => s
  | b :: l =>
    let base := s.get F.IMG_STORE_HI_base_hi 0 * 2 ^ 32 + s.get F.IMG_STORE_LO_base 0 * 2 ^ 20
    let inStore := base ≤ a && decide (a < base + s.get F.IMG_STORE_HI_size_gib 0 * 2 ^ 30)
    match b with
    | some x => (if inStore then s else { s with mem := Mem.set s.mem (a % 2 ^ 41) x }).hbmPut (a + 1) l
    | none => s.hbmPut (a + 1) l

/-- A write to HBM as its controllers serve it. -/
def State.hbmWrite (s : State) (a : Nat) (bs : List (Option Byte)) : State :=
  let r := s.hbmFails a (bs.map (fun b => b.isSome))
  r.1.hbmPut a (bs.zipIdx.map (fun p => if r.2.contains ((a + p.2) / 64) then none else p.1))

/-! ### Places -/

/-- Read n bytes from a physical place; true: the read failed. The unit of a word of SRAM that fails is quarantined (R355). -/
def State.placeMeet (s : State) (a n : Nat) : State × Bool :=
  if a < 2 ^ 41 then s.hbmMeet a n
  else
    let t := s.sramMeet a n
    (t.sramServe, !t.flt.sramBad.isEmpty)

/-- Before n bytes are written from a physical place: the words and accesses that they cover in part are read (R270, R288); true: a
read failed, or a channel is out of service. -/
def State.placePart (s : State) (a n : Nat) : State × Bool :=
  if a < 2 ^ 41 then
    let r := s.hbmFails a (List.replicate n true)
    (r.1, !r.2.isEmpty)
  else
    let t := s.sramPart a n
    (t.sramServe, !t.flt.sramBad.isEmpty)

/-- Does a read of n bytes from a physical place meet an error that its retry clears (R284). -/
def State.placeShaky (s : State) (a n : Nat) : Bool :=
  if a < 2 ^ 41 then (s.upsets.hbm.filter (inAccess a n)).any (fun p =>
    let w := p.1 / 64 * 64
    hbmDecode w (s.ldBytes w 64) p.2.first == .bad && hbmDecode w (s.ldBytes w 64) p.2.again != .bad)
  else (s.upsets.sram.filter (inWords a n)).any (fun p => p.2.1 && !p.2.2)

end Sys2Proof.Machine
end

