-- ==== Sys2Proof/Machine/Copy.lean ====
section
/-!
DEFINITION. Copy engines: copy lists and descriptors (R271 to R275), the moves and conversions they make
(R273, R276 to R278), errors and their retry (R284, R285).
-/

namespace Sys2Proof.Machine

/-! ### Descriptors (R272) -/

def cpy.op (d : Nat) : Nat := bits d 3 0
def cpy.round (d : Nat) : Nat := bits d 13 12
def cpy.fence (d : Nat) : Bool := bit d 14
def cpy.last (d : Nat) : Bool := bit d 15
def cpy.tensor (d : Nat) : Nat := bits d 31 16
def cpy.src (d : Nat) : Nat := bits d 95 32
def cpy.dst (d : Nat) : Nat := bits d 159 96
def cpy.rows (d : Nat) : Nat := bits d 183 160 + 1
def cpy.cols (d : Nat) : Nat := bits d 203 184 + 1
def cpy.srcStride (d : Nat) : Nat := bits d 235 204
def cpy.dstStride (d : Nat) : Nat := bits d 267 236
def cpy.rowBase (d : Nat) : Nat := bits d 291 268
def cpy.colBase (d : Nat) : Nat := bits d 311 292
def cpy.srcTau (d : Nat) : Int := (bits d 319 312 : Int) - 127
def cpy.dstTau (d : Nat) : Int := (bits d 327 320 : Int) - 127
def cpy.split (d : Nat) : Nat := bits d 343 328
def cpy.idx (d : Nat) : Nat := bits d 407 344
def cpy.fill (d : Nat) : Nat := bits d 439 408
def cpy.limit (d : Nat) : Nat := bits d 463 440

/-- Are the rows of the destination packed end to end: a linear copy that is not split (R273). -/
def cpy.dstLin (d : Nat) : Bool := cpy.op d == 0 && cpy.split d == 0

/-- Rows and columns of the destination: a transpose exchanges them (R273). -/
def cpy.dRows (d : Nat) : Nat := if cpy.op d == 2 then cpy.cols d else cpy.rows d
def cpy.dCols (d : Nat) : Nat := if cpy.op d == 2 then cpy.rows d else cpy.cols d

/-- Bytes of one row of n elements in a format that is not A8 (R274). -/
def rowLen (f : Fmt) (n : Nat) : Nat :=
  if f.isBlock then (n + 95) / 96 * f.carrierBytes else (n * f.width + 7) / 8

/-- Do offset and stride of a carrier side meet R274. -/
def carrierOk (f : Fmt) (place stride : Nat) (strided : Bool) : Bool :=
  !f.isBlock || (place % 2 ^ 41 % f.carrierBytes == 0 && (!strided || stride % f.carrierBytes == 0))

/-- Is a descriptor invalid (R275); `n`: its index in its list. -/
def cpyInvalid (d n : Nat) : Bool :=
  let op := cpy.op d
  let sf := Fmt.ofCode (bits d 7 4)
  let df := Fmt.ofCode (bits d 11 8)
  bits d 511 464 != 0 || decide (5 < op) || decide (1 < cpy.round d) || sf.isNone || df.isNone
    || (op == 5 && sf != df)
    || (op == 5 && (df == some .b4 || df == some .b8 || df == some .a8))
    || (op != 5 && (match sf with
        | some f => !carrierOk f (cpy.src d) (cpy.srcStride d) (op != 0) || (f == .a8 && decide (256 < cpy.rows d))
        | none => false))
    || (match df with
        | some f => !carrierOk f (cpy.dst d) (cpy.dstStride d) (op != 0 || cpy.split d != 0)
            || (f == .a8 && decide (256 < cpy.dRows d))
        | none => false)
    || (cpy.split d != 0 && (bit (cpy.dst d) 60 || decide (bits (cpy.dst d) 63 61 < 2)))
    || placeReserved (cpy.src d) || placeReserved (cpy.dst d) || placeReserved (cpy.idx d)
    || (n == 4095 && !cpy.last d)

/-! ### Reading and writing elements -/

/-- An element of a decoded operand as a value to encode. -/
def Elem.out (x : Elem) : OutVal := { cls := x.cls, neg := x.neg, y := { num := x.m, e := x.e } }

/-- Bytes of the A8 channel of n elements: a whole number of 32 (R110). -/
def a8Len (n : Nat) : Nat := (n + 31) / 32 * 32

/-- Where row r of a side begins: a byte address and the index of its first element there; `lin` when rows are packed end
to end (R273). -/
def rowAt (f : Fmt) (lin : Bool) (base stride n r : Nat) : Nat × Nat :=
  if !lin then (base + r * stride, 0)
  else if f.isBlock then (base + r * rowLen f n, 0) else (base, r * n)

/-- The bit pattern of element k of a run in an element format. -/
def State.rawElem (s : State) (f : Fmt) (a k : Nat) : Nat :=
  if f.width == 4 then bits (s.ld (a + k / 2) 1) (4 * (k % 2) + 3) (4 * (k % 2)) else s.ld (a + k * (f.width / 8)) (f.width / 8)

/-- Write the bit pattern of element k of a run. -/
def State.putElem (s : State) (f : Fmt) (a k v : Nat) : State :=
  if f.width == 4 then s.st (a + k / 2) 1 (setBits (s.ld (a + k / 2) 1) (4 * (k % 2) + 3) (4 * (k % 2)) v)
  else s.st (a + k * (f.width / 8)) (f.width / 8) v

/-- Decode row r of n elements of a source side (R128, R274): values and events. -/
def State.decRow (s : State) (f : Fmt) (tau : Int) (lin : Bool) (base stride n r : Nat) : List OutVal × Evs :=
  match f with
  | .a8 =>
    let d := a8Desc (s.ld (base + 8 * r) 8)
    let sc := match d with
      | .scaled sm se _ => (sm, se)
      | _ => (0, 0)
    let l := (s.ldBytes (base + 0x800 + r * a8Len n) n).map (fun b => a8Elem d b.toNat)
    (l.map (fun p => { p.1.out with y := { num := p.1.m * sc.1, e := p.1.e + sc.2 } }), Evs.sum (l.map (fun p => p.2)))
  | .b8 | .b4 =>
    let a := (rowAt f lin base stride n r).1
    let l := (List.range ((n + 95) / 96)).map (fun k => decodeCarrier f (s.ldBytes (a + k * f.carrierBytes) f.carrierBytes))
    (((l.flatMap (fun p => p.1)).take n).map Elem.out, Evs.sum (l.map (fun p => p.2.2)))
  | _ =>
    let a := rowAt f lin base stride n r
    let l := (List.range n).map (fun k =>
      match f with
      | .int8 | .int4 => (codeElem (sext f.width (s.rawElem f a.1 (a.2 + k))) tau, ({} : Evs))
      | _ =>
        let x := decodeFloat f (s.rawElem f a.1 (a.2 + k))
        (x.1, Evs.one ctr.inFlush (b2n x.2)))
    (l.map (fun p => p.1.out), Evs.sum (l.map (fun p => p.2)))

/-- Encode and write row r of a destination side whose tensor row is i and first tensor column j (R276): the state and
the events. Only a format that has an output scale takes `tau` (R119). -/
def State.encRow (s : State) (f : Fmt) (tau : Int) (lin : Bool) (base stride r : Nat) (md : Nat → Rnd) (i : Nat)
    (os : List OutVal) : State × Evs :=
  let n := os.length
  match f with
  | .a8 =>
    let z : Q := { num := 0 }
    let rng := os.foldl (fun a o => if o.cls == .fin then (Q.pick false a.1 o.y, Q.pick true a.2 o.y) else a) (z, z)
    let d := a8Choose rng.1 rng.2
    let v := fVal d.1
    let l := os.zipIdx.map (fun p => encodeA8 (md p.2) v.num.natAbs v.e d.2 p.1)
    ((s.st (base + 8 * r) 8 (i % 65536 * 2 ^ 40 + d.2 * 2 ^ 32 + d.1)).stBytes (base + 0x800 + r * a8Len n)
      (l.map (fun p => BitVec.ofNat 8 p.1)), Evs.sum (l.map (fun p => p.2)))
  | .b8 | .b4 =>
    let a := (rowAt f lin base stride n r).1
    let l := (List.range ((n + 95) / 96)).map (fun k =>
      let r := encodeCarrier f 0xFE (fun e => md (96 * k + e)) ((os.drop (96 * k)).take 96)
      (r.bytes, r.evs))
    (s.stBytes a (l.flatMap (fun p => p.1)), Evs.sum (l.map (fun p => p.2)))
  | _ =>
    let a := rowAt f lin base stride n r
    let l := os.zipIdx.map (fun p => (p.2, encodeElem f (md p.2) (if f.needsScale then tau else 0) p.1))
    (l.foldl (fun s p => s.putElem f a.1 (a.2 + p.1) p.2.1) s, Evs.sum (l.map (fun p => p.2.2)))

/-! ### One descriptor -/

/-- The status code of a place that fails (R268, R293). -/
def PlaceFail.cpyCode : PlaceFail → Nat
  | .quarantined => 2
  | .inactive => 3
  | .range => 4

/-- Bytes a side of n-element rows reaches from its place when its last row is r. -/
def sideExt (f : Fmt) (lin : Bool) (stride n r : Nat) : Nat :=
  if f == .a8 then 0x800 + (r + 1) * a8Len n
  else if !lin then r * stride + rowLen f n
  else if f.isBlock then (r + 1) * rowLen f n else ((r + 1) * n * f.width + 7) / 8

/-- The largest number of a list. -/
def maxN (l : List Nat) : Nat := l.foldl max 0

/-- The index list of a gather or scatter (R278). -/
def State.cpyIdx (s : State) (d a : Nat) : List Nat := (List.range (cpy.rows d)).map (fun i => s.ld (a + 4 * i) 4)

/-- The places and lengths of the bytes of row r of a side. -/
def rowSpans (f : Fmt) (lin : Bool) (base stride n r : Nat) : List (Nat × Nat) :=
  if f == .a8 then [(base + 8 * r, 8), (base + 0x800 + r * a8Len n, a8Len n)]
  else
    let a := rowAt f lin base stride n r
    if f.isBlock then [(a.1, rowLen f n)]
    else
      let lo := a.2 * f.width / 8
      [(a.1 + lo, ((a.2 + n) * f.width + 7) / 8 - lo)]

/-- A copy ready to run: the places of its sides, its rows, and whether an index stops it. -/
structure CopyRun where
  sf : Fmt
  df : Fmt
  src : Nat
  /-- The destination's place, or those of the cores of a split, in order. -/
  dsts : List Nat
  /-- Source row and destination row of each row moved; of a transpose the destination rows. -/
  moves : List (Nat × Nat)
  stop : Bool
  /-- The place of the index list of a gather or scatter. -/
  idx : Option Nat := none
  deriving DecidableEq, Repr

/-- A place that failed, and whether it is logical (R268, R284). -/
structure PlaceErr where
  why : PlaceFail
  logical : Bool
  deriving DecidableEq, Repr

/-- Translate a place of a descriptor (R268). -/
def State.cpyPlace (s : State) (p ext : Nat) : Except PlaceErr Nat :=
  match s.resolve p ext with
  | .ok a => .ok a
  | .error e => .error { why := e, logical := !bit p 60 }

/-- Translate the destination, by core when it is split (R268, R273); `last`: the last destination row. -/
def State.cpyDsts (s : State) (d : Nat) (f : Fmt) (last : Nat) : Except PlaceErr (List Nat) :=
  let lin := cpy.dstLin d
  let n := cpy.split d
  if n == 0 then (s.cpyPlace (cpy.dst d) (sideExt f lin (cpy.dstStride d) (cpy.dCols d) last)).map (fun a => [a])
  else
    (List.range (last / n + 1)).foldl (fun r k =>
      match r with
      | .error e => .error e
      | .ok l =>
        let core := bits (cpy.dst d) 47 42 + k
        let ext := sideExt f lin (cpy.dstStride d) (cpy.dCols d) (min (n - 1) (last - k * n))
        if 49 < core then .error { why := .range, logical := true }
        else (s.cpyPlace (setBits (cpy.dst d) 47 42 core) ext).map (fun a => l ++ [a])) (.ok [])

/-! ### Overlapping descriptors (R279)

A descriptor without `fence` may overlap those before it. Which of two overlapping writes stands in a 64 B unit, and whether a read
meets it, is a free value for every unit. -/

/-- Is the earlier of two contents of the unit of place a taken, under free value n; `old` lists the bytes at stake. -/
def unitOlder (n : Nat) (old : List Host.Cell) (a : Nat) : Bool :=
  bit (Config.free n) (((old.map (fun p => p.1 / 64)).eraseDups.idxOf? (a / 64)).getD 0)

/-- The state a descriptor reads its source from. -/
def State.copyRead (s : State) (old : List Host.Cell) : State :=
  let mix := old.foldl (fun m p => if unitOlder s.freeCtr old p.1 then Mem.set m p.1 p.2 else m) s.mem
  { s with mem := mix }

/-- The bytes of earlier descriptors that descriptor d may overlap (R279). -/
def State.cpyOld (s : State) (c : Clu) (d : Nat) : List Host.Cell := if cpy.fence d then [] else (s.clu c).copyOld

/-- The state that descriptor d reads its indices and its source from. -/
def State.cpySee (s : State) (c : Clu) (d : Nat) : State := if (s.cpyOld c d).isEmpty then s else s.copyRead (s.cpyOld c d)

/-! ### Preparing a descriptor -/

/-- Prepare a valid descriptor: indices, places, checks of R268. -/
def State.cpyPrep (s : State) (c : Clu) (d : Nat) : Except PlaceErr CopyRun :=
  let op := cpy.op d
  let sf := (Fmt.ofCode (bits d 7 4)).getD .fp32
  let df := (Fmt.ofCode (bits d 11 8)).getD .fp32
  let fin := fun (moves : List (Nat × Nat)) (stop : Bool) (idx : Option Nat) =>
    let lastS := if op == 2 then cpy.rows d - 1 else maxN (moves.map (fun p => p.1))
    let lastD := maxN (moves.map (fun p => p.2))
    let src := if op == 5 then .ok 0 else s.cpyPlace (cpy.src d) (sideExt sf (op == 0) (cpy.srcStride d) (cpy.cols d) lastS)
    match src with
    | .error e => .error e
    | .ok a =>
      match s.cpyDsts d df lastD with
      | .error e => .error e
      | .ok l => .ok ({ sf := sf, df := df, src := a, dsts := l, moves := moves, stop := stop, idx := idx } : CopyRun)
  if op == 3 || op == 4 then
    match s.cpyPlace (cpy.idx d) (4 * cpy.rows d) with
    | .error e => .error e
    | .ok a =>
      let ix := (s.cpySee c d).cpyIdx d a
      let good := ix.takeWhile (fun i => decide (i < cpy.limit d))
      let moves := good.zipIdx.map (fun p => if op == 3 then (p.1, p.2) else (p.2, p.1))
      fin moves (good.length != ix.length) (some a)
  else fin ((List.range (cpy.dRows d)).map (fun r => (r, r))) false none

/-- A copy that ends after its first n destination rows (R284). -/
def CopyRun.cut (k : CopyRun) (n : Nat) : CopyRun := { k with moves := k.moves.take n }

/-- The base and row of destination row r: of its core when the destination is split. -/
def CopyRun.dstOf (k : CopyRun) (d r : Nat) : Nat × Nat :=
  let n := cpy.split d
  if n == 0 then (k.dsts.getD 0 0, r) else (k.dsts.getD (r / n) 0, r % n)

/-- The bytes of the destination row of one move. -/
def CopyRun.dstSpans (k : CopyRun) (d : Nat) (m : Nat × Nat) : List (Nat × Nat) :=
  let b := k.dstOf d m.2
  rowSpans k.df (cpy.dstLin d) b.1 (cpy.dstStride d) (cpy.dCols d) b.2

/-- The bytes that one move reads of the source: every row in a transpose, none in a fill. -/
def CopyRun.srcSpans (k : CopyRun) (d : Nat) (m : Nat × Nat) : List (Nat × Nat) :=
  let row := rowSpans k.sf (cpy.op d == 0) k.src (cpy.srcStride d) (cpy.cols d)
  match cpy.op d with
  | 5 => []
  | 2 => (List.range (cpy.rows d)).flatMap row
  | _ => row m.1

/-- Write one destination row of values (R276). -/
def State.cpyWrite (s : State) (c : Clu) (d : Nat) (k : CopyRun) (r : Nat) (os : List OutVal) : State × Evs :=
  let b := k.dstOf d r
  let i := cpy.rowBase d + r
  let md := fun (j : Nat) => s.rndFor c (cpy.tensor d) (cpy.round d == 1) 0 i (cpy.colBase d + j)
  s.encRow k.df (cpy.dstTau d) (cpy.dstLin d) b.1 (cpy.dstStride d) b.2 md i os

/-- Copy one row of equal formats as it is (R276). -/
def State.cpyRaw (s s0 : State) (d : Nat) (k : CopyRun) (m : Nat × Nat) : State :=
  let n := cpy.cols d
  let b := k.dstOf d m.2
  if k.sf == .a8 then
    let s := s.stBytes (b.1 + 8 * b.2) (s0.ldBytes (k.src + 8 * m.1) 8)
    s.stBytes (b.1 + 0x800 + b.2 * a8Len n) (s0.ldBytes (k.src + 0x800 + m.1 * a8Len n) (a8Len n))
  else
    let x := rowAt k.sf (cpy.op d == 0) k.src (cpy.srcStride d) n m.1
    let y := rowAt k.df (cpy.dstLin d) b.1 (cpy.dstStride d) n b.2
    if k.sf.isBlock then s.stBytes y.1 (s0.ldBytes x.1 (rowLen k.sf n))
    else (List.range n).foldl (fun s e => s.putElem k.df y.1 (y.2 + e) (s0.rawElem k.sf x.1 (x.2 + e))) s

/-- The events of the rows `rs` that a descriptor decodes from state s. Of a block format they are those of its carriers, each decoded
once for the descriptor whichever rows read it (R596). -/
def State.rowsEvs (s : State) (d : Nat) (k : CopyRun) (lin : Bool) (rs : List Nat) : Evs :=
  let n := cpy.cols d
  if k.sf.isBlock then
    s.carriersEvs k.sf (rs.eraseDups.flatMap (fun r =>
      (List.range ((n + 95) / 96)).map (fun j => (rowAt k.sf lin k.src (cpy.srcStride d) n r).1 + j * k.sf.carrierBytes)))
  else Evs.sum (rs.map (fun r => (s.decRow k.sf (cpy.srcTau d) lin k.src (cpy.srcStride d) n r).2))

/-- Move the data of a descriptor; s0 is the state its source is read from. -/
def State.cpyMove (s s0 : State) (c : Clu) (d : Nat) (k : CopyRun) : State × Evs :=
  let op := cpy.op d
  let n := cpy.cols d
  let dec := fun (r : Nat) => s0.decRow k.sf (cpy.srcTau d) (op == 0) k.src (cpy.srcStride d) n r
  match op with
  | 5 =>
    (k.moves.foldl (fun s m =>
      let b := k.dstOf d m.2
      let a := rowAt k.df false b.1 (cpy.dstStride d) n b.2
      (List.range n).foldl (fun s e => s.putElem k.df a.1 (a.2 + e) (cpy.fill d % 2 ^ k.df.width)) s) s, {})
  | 2 =>
    if k.sf == k.df && !k.df.isBlock && k.df != .a8 then
      (k.moves.foldl (fun s m =>
        let b := k.dstOf d m.2
        let a := rowAt k.df false b.1 (cpy.dstStride d) (cpy.rows d) b.2
        (List.range (cpy.rows d)).foldl (fun s e =>
          s.putElem k.df a.1 (a.2 + e) (s0.rawElem k.sf (k.src + e * cpy.srcStride d) m.2)) s) s, {})
    else
      let rows := (List.range (cpy.rows d)).map dec
      k.moves.foldl (fun r m =>
        let os := rows.map (fun p => p.1.getD m.2 { cls := .zero })
        let w := r.1.cpyWrite c d k m.2 os
        (w.1, r.2.add w.2)) (s, s0.rowsEvs d k false (List.range (cpy.rows d)))
  | _ =>
    if k.sf == k.df then (k.moves.foldl (fun s m => s.cpyRaw s0 d k m) s, {})
    else
      k.moves.foldl (fun r m =>
        let w := r.1.cpyWrite c d k m.2 (dec m.1).1
        (w.1, r.2.add w.2)) (s, s0.rowsEvs d k (op == 0) (k.moves.map (fun m => m.1)))

/-- Bytes a descriptor writes. -/
def CopyRun.bytes (k : CopyRun) (d : Nat) : Nat :=
  k.moves.length * (if k.df == .a8 then 8 + cpy.dCols d else rowLen k.df (cpy.dCols d))

/-- Does a descriptor convert (R276, R277). -/
def CopyRun.converts (k : CopyRun) (d : Nat) : Bool :=
  k.sf != k.df || (cpy.op d == 2 && (k.df.isBlock || k.df == .a8))

/-! ### The data of a descriptor (R279) -/

/-- The state t after a descriptor's writes, where writes of earlier ones may stand in it; s is the state before it. -/
def State.copyMix (t s : State) (old : List Host.Cell) (mine : List Nat) : State :=
  let both := mine.filter (fun a => old.any (fun p => p.1 == a))
  let mix := both.foldl (fun m a => if unitOlder (s.freeCtr + 1) old a then Mem.set m a (Mem.get s.mem a) else m) t.mem
  { t with mem := mix }

/-- Move the data of a descriptor beside the descriptors it may overlap, and note what it wrote. One that stops runs again from its
first element, so what it wrote is not that of an earlier one (R285). -/
def State.cpyData (s : State) (c : Clu) (d : Nat) (k : CopyRun) (stops : Bool) : State × Evs :=
  let old := s.cpyOld c d
  let mine := if (cpy.last d || stops) && old.isEmpty then []
    else k.moves.flatMap (fun m => (k.dstSpans d m).flatMap (fun p => (List.range p.2).map (· + p.1)))
  let s1 := if old.isEmpty then s else { s with freeCtr := s.freeCtr + 2 }
  let w := s1.cpyMove (s.cpySee c d) c d k
  let t := if old.isEmpty then w.1 else w.1.copyMix s old mine
  let new := mine.foldl (fun l a => if l.any (fun p => p.1 == a) then l else l ++ [(a, Mem.get s.mem a)]) old
  (if stops then t else t.setClu c { t.clu c with copyOld := if cpy.last d then [] else new }, w.2)

/-! ### The engine -/

/-- Post CPY_STATUS (R293). -/
def State.cpyPost (s : State) (c : Clu) (code tensor : Nat) : State :=
  s.post R.CPY_STATUS (cluU c) [(F.CPY_STATUS_tensor, tensor)] code (dieSrc c.die 6)

/-- The list stops at its descriptor (R275, R278, R284, R285). -/
def State.cpyStop (s : State) (c : Clu) (code tensor : Nat) : State :=
  (s.setClu c { s.clu c with copyStopped := true }).cpyPost c code tensor

/-- Where the bytes of a copy come from and go to: places, HBM addresses among them. -/
def CopyRun.ends (k : CopyRun) (d : Nat) : List Nat :=
  (if cpy.op d == 5 then [] else [k.src]) ++ k.dsts ++ (match k.idx with
    | some a => [a]
    | none => [])

/-- The route between the engine of cluster c and a place (R15): the dies whose mesh and whose bridge it takes, and whether it
takes the hub ring. -/
def State.copyRoute (s : State) (c : Clu) (a : Nat) : List Nat × List Nat × Bool :=
  let me : Nat := c.die
  if a < 2 ^ 41 then ([me], [me], a / 2 ^ 39 % 4 != s.traceQuad me)
  else
    let e := placeClu a
    if e == c then ([], [], false)
    else if e.die == c.die then ([me], [], false)
    else ([me, e.die], [me, e.die], s.traceQuad e.die != s.traceQuad me)

/-- The place at which a copy meets what an upset describes; none: it reads no such word, takes no such hop. A destination is
read where a row covers only part of a 32 B word of SRAM or a 64 B access of HBM (R270, R288). -/
def State.upsetAt (s : State) (c : Clu) (d : Nat) (k : CopyRun) (u : CopyUpset) : Option Nat :=
  let within := fun (a : Nat) (l : List (Nat × Nat)) => l.any (fun p => decide (p.1 ≤ a ∧ a < p.1 + p.2))
  let part := fun (a w : Nat) => k.moves.any (fun m => (k.dstSpans d m).any (fun p =>
    decide (p.1 < a / w * w + w ∧ a / w * w < p.1 + p.2) && !decide (p.1 ≤ a / w * w ∧ a / w * w + w ≤ p.1 + p.2)))
  let read := fun (side : CopySide) (off w : Nat) =>
    let a := match side with
      | .src => k.src + off
      | .dst => k.dsts.getD (off / 2 ^ 41) 0 + off % 2 ^ 41
      | .idx => k.idx.getD 0 + off
    let ok := match side with
      | .src => k.moves.any (fun m => within a (k.srcSpans d m))
      | .dst => part a w
      | .idx => k.idx.isSome && decide (off < 4 * cpy.rows d)
    if ok && (decide (a < 2 ^ 41) == (w == 64)) then some a else none
  let routes := (k.ends d).map (s.copyRoute c)
  match u with
  | .sram side off _ _ => read side off 32
  | .hbm side off _ => read side off 64
  | .mesh m _ => if routes.any (fun r => r.1.contains m.die.val) then some 0 else none
  | .bridge f _ => if routes.any (fun r => r.2.1.contains f.val) then some 0 else none
  | .ring _ => if routes.any (fun r => r.2.2) then some 0 else none

/-- The record of a detected copy error that its retry cleared (R284, R288, R355). -/
def State.cpyCleared (s : State) (a : Nat) : CopyUpset → State
  | .sram _ _ _ _ => s.sramCleared a
  | .mesh m _ => s.fltTransient 3 (cluUnit m) 6 0
  | .bridge f _ => s.fltTransient 4 (unitOf f 0 0 0) 6 0
  | .ring _ => s.fltTransient 0 0 6 0
  | .hbm _ _ _ => s

/-- The fault of a detected copy error that a retry did not clear, with the unit's quarantine (R284, R355); that of an HBM read is
the controller's (R288). -/
def State.cpyLasting (s : State) (a : Nat) : CopyUpset → State
  | .sram _ _ _ _ => s.sramLasting a
  | .mesh m _ => s.retireCluster m 7
  | .bridge f _ => s.retireDie f 7
  | .ring _ => (s.fltLasting 0 0 7 0).degrade 0 0
  | .hbm _ _ _ => s

/-- The retry of a descriptor passed (R284). -/
def State.cpyTransient (s : State) (c : Clu) (d : Nat) : State :=
  (s.satUp F.CPY_ERR_CNT_transient (cluU c)).cpyPost c 6 (cpy.tensor d)

/-- A copy meets an upset: a corrected word of SRAM counts in the cluster that holds it (R270), an HBM read is the controller's
(R288), a detected error is retried once (R284); true: it is lasting. -/
def State.cpyMeet (s : State) (c : Clu) (d : Nat) (k : CopyRun) (u : CopyUpset) : State × Bool :=
  match s.upsetAt c d k u with
  | none => (s, false)
  | some a =>
    match u with
    | .hbm _ _ x =>
      let r := s.hbmRead a x
      let bad := hbmDecode (a / 64 * 64) (s.ldBytes (a / 64 * 64) 64) x.first == .bad
      if r.2 || !bad then r else (r.1.cpyTransient c d, false)
    | .sram _ _ false _ => (s.satUp F.CPY_ERR_CNT_corrected (cluU (placeClu a)), false)
    | .sram _ _ true again | .mesh _ again | .bridge _ again | .ring again =>
      if again then (s, true) else ((s.cpyTransient c d).cpyCleared a u, false)

/-- A copy meets its upsets in order, up to the first lasting one, which is given. -/
def State.cpyMeets (s : State) (c : Clu) (d : Nat) (k : CopyRun) : List CopyUpset → State × Option CopyUpset
  | [] => (s, none)
  | u :: l =>
    let r := s.cpyMeet c d k u
    if r.2 then (r.1, some u) else r.1.cpyMeets c d k l

/-- The status code of a lasting upset (R284, R293). -/
def upsetCode : CopyUpset → Nat
  | .hbm _ _ _ => 8
  | .sram _ _ _ _ | .mesh _ _ | .bridge _ _ | .ring _ => 7

/-- The first move that reads or writes a channel out of service (R289); `idx` is read before any. -/
def State.cpyBad (s : State) (d : Nat) (k : CopyRun) : Option Nat :=
  let bad := fun (l : List (Nat × Nat)) => l.any (fun p => decide (p.1 < 2 ^ 41) && s.hbmBad p.1 (p.1 + p.2))
  match k.idx with
  | some a => if bad [(a, 4 * cpy.rows d)] then some 0 else (List.range k.moves.length).find? (fun i =>
      let m := k.moves.getD i (0, 0)
      bad (k.srcSpans d m) || bad (k.dstSpans d m))
  | none => (List.range k.moves.length).find? (fun i =>
      let m := k.moves.getD i (0, 0)
      bad (k.srcSpans d m) || bad (k.dstSpans d m))

/-- The descriptor completes: the next one follows, or the list ends (R271). -/
def State.cpyDone (s : State) (c : Clu) (d : Nat) : State :=
  let x := s.clu c
  if cpy.last d then
    (s.setClu c { x with copies := x.copies.drop 1, copyIdx := 0, copiesDone := x.copiesDone + 1, last := s.ns }).waitClose
      (cluWaiter c 1) false
  else s.setClu c { x with copyIdx := x.copyIdx + 1 }

/-- Data, events and counters of a descriptor or of its first rows (R163). -/
def State.cpyRows (s : State) (c : Clu) (d : Nat) (k : CopyRun) (stops : Bool) : State :=
  let w := s.cpyData c d k stops
  let s := w.1.perfClu c 2 (k.bytes d)
  if k.converts d then
    (if (s.staFind c (cpy.tensor d)).isNone then s.staPost c 1 (cpy.tensor d) else s.count c (cpy.tensor d) w.2)
  else s

/-- Run a prepared descriptor to its end, or to an index out of range (R278). -/
def State.cpyRun (s : State) (c : Clu) (d : Nat) (k : CopyRun) : State :=
  let s := s.cpyRows c d k k.stop
  if k.stop then s.cpyStop c 5 (cpy.tensor d) else s.cpyDone c d

/-- Count a lasting copy fault and stop the list (R284). -/
def State.cpyFail (s : State) (c : Clu) (d code : Nat) (lasting : Bool) : State :=
  let s := if lasting then s.satUp F.CPY_ERR_CNT_lasting (cluU c) else s
  s.cpyStop c code (cpy.tensor d)

/-- How many rows can be written before the first that needs the word at place a, of w bytes, on a side; a word of the index list
holds the indices of rows from its first one on. -/
def CopyRun.before (k : CopyRun) (d : Nat) (side : CopySide) (a w : Nat) : Nat :=
  let lo := a / w * w
  let need := fun (l : List (Nat × Nat)) => l.any (fun p => decide (p.1 < lo + w ∧ lo < p.1 + p.2))
  match side with
  | .idx => (lo - k.idx.getD 0) / 4
  | .src => (k.moves.findIdx? (fun m => need (k.srcSpans d m))).getD 0
  | .dst => (k.moves.findIdx? (fun m => need (k.dstSpans d m))).getD 0

/-- How many rows a descriptor can have written when a lasting upset met at place a stops it: none that needs the failed word, nor, of
a hop, its last row. -/
def CopyRun.bound (k : CopyRun) (d a : Nat) : CopyUpset → Nat
  | .sram side _ _ _ => k.before d side a 32
  | .hbm side _ _ => k.before d side a 64
  | .mesh _ _ | .bridge _ _ | .ring _ => k.moves.length - 1

/-- A lasting fault stops a descriptor behind the rows it has written (R284). -/
def State.cpyHalt (s : State) (c : Clu) (d : Nat) (k : CopyRun) (rows code : Nat) : State :=
  (if rows == 0 then s else s.cpyRows c d (k.cut rows) true).cpyFail c d code true

/-- Run a prepared descriptor with what it meets (R284, R289). -/
def State.cpyGo (s : State) (c : Clu) (d : Nat) (k : CopyRun) (err : CopyErr) : State :=
  match s.cpyBad d k with
  | some n => s.cpyHalt c d k n 8
  | none =>
    let r := s.cpyMeets c d k err.upsets
    match r.2 with
    | none => r.1.cpyRun c d k
    | some u =>
      let a := (s.upsetAt c d k u).getD 0
      (r.1.cpyHalt c d k (min err.rows (k.bound d a u)) (upsetCode u)).cpyLasting a u

/-- Run the descriptor at hand when it is of operation `op`; an invalid descriptor stops the list whatever it is. A quarantined
logical place is translated once more by the next command, when a remap may have given it a unit (R268, R284). -/
def State.cpyStep (s : State) (c : Clu) (op : Nat) (err : CopyErr) : State :=
  let x := s.clu c
  match x.copies with
  | [] => s
  | l :: _ =>
    let d := s.ld (poolAt c (l + 64 * x.copyIdx)) 64
    if x.copyStopped then s
    else if cpyInvalid d x.copyIdx then s.cpyStop c 1 (cpy.tensor d)
    else if cpy.op d != op then s
    else
      let once := s.setClu c { x with copyRetry := false }
      match s.cpyPrep c d with
      | .error e =>
        if e.why == .quarantined && e.logical then
          if x.copyRetry then once.cpyFail c d e.why.cpyCode true else s.setClu c { x with copyRetry := true }
        else once.cpyFail c d e.why.cpyCode false
      | .ok k =>
        if k.moves.any (fun m => (k.srcSpans d m).any (fun p => s.regionHeld p.1 (p.1 + p.2))) then
          s.waitOpen (cluWaiter c 1) 0x0C (cpy.tensor d) s.bib
        else
          let s := if x.copyRetry then once.cpyTransient c d else s
          (s.waitDone (cluWaiter c 1) 0x0C).cpyGo c d k err

/-- COPY_LINEAR: a linear descriptor (R273). -/
def execCopyLinear (c : Clu) (err : CopyErr) (s : State) : Host.Outcome State Fault Refusal :=
  .next (if s.cluOn c then s.cpyStep c 0 err else s)

/-- COPY_STRIDED: a strided descriptor (R273). -/
def execCopyStrided (c : Clu) (err : CopyErr) (s : State) : Host.Outcome State Fault Refusal :=
  .next (if s.cluOn c then s.cpyStep c 1 err else s)

/-- COPY_TRANSPOSE: a transpose descriptor (R273, R277). -/
def execCopyTranspose (c : Clu) (err : CopyErr) (s : State) : Host.Outcome State Fault Refusal :=
  .next (if s.cluOn c then s.cpyStep c 2 err else s)

/-- COPY_GATHER: a gather descriptor (R273, R278). -/
def execCopyGather (c : Clu) (err : CopyErr) (s : State) : Host.Outcome State Fault Refusal :=
  .next (if s.cluOn c then s.cpyStep c 3 err else s)

/-- COPY_SCATTER: a scatter descriptor (R273, R278). -/
def execCopyScatter (c : Clu) (err : CopyErr) (s : State) : Host.Outcome State Fault Refusal :=
  .next (if s.cluOn c then s.cpyStep c 4 err else s)

/-- COPY_FILL: a fill descriptor (R273). -/
def execCopyFill (c : Clu) (err : CopyErr) (s : State) : Host.Outcome State Fault Refusal :=
  .next (if s.cluOn c then s.cpyStep c 5 err else s)

/-- A steward submits a copy list: queued, or dropped when 8 are queued (R271). -/
def State.cpySubmit (s : State) (c : Clu) (list : Nat) : State :=
  let x := s.clu c
  let off := 64 * list % 2 ^ 22
  if 8 ≤ x.copies.length then s.cpyPost c 9 0 else s.setClu c { x with copies := x.copies ++ [off] }

/-- CPY_SUBMIT: a write of the register (R271). -/
def execCpySubmit (c : Clu) (list : BitVec 16) (s : State) : Host.Outcome State Fault Refusal :=
  .next (if s.cluOn c then s.cpySubmit c list.toNat else s)

/-- COPY_LIST_ITEM: the sequencer submits a list; with the queue full it waits for a slot (R271). -/
def execCopyListItem (c : Clu) (list : BitVec 16) (s : State) : Host.Outcome State Fault Refusal :=
  .next (if s.cluGo c then
    (if 8 ≤ (s.clu c).copies.length then s.waitOpen (cluWaiter c 0) 0x0D 0 s.bib
     else (s.cpySubmit c list.toNat).waitDone (cluWaiter c 0) 0x0D)
  else s)

/-- The stopped descriptor is to run again (R285). -/
def State.cpyResume (s : State) (c : Clu) : State :=
  if (s.clu c).copyStopped then s.setClu c { s.clu c with copyStopped := false } else s

/-- CPY_RESUME: a write of `resume` in CPY_CTRL (R285). -/
def execCpyResume (c : Clu) (s : State) : Host.Outcome State Fault Refusal :=
  .next (if s.cluOn c then s.cpyResume c else s)

end Sys2Proof.Machine
end

