-- ==== Sys2Proof/Machine/Coding.lean ====
section
/-!
DEFINITION. Payload coding of data packets: lossless groups (R312) and lossy carriers (R313).
-/

namespace Sys2Proof.Machine

/-- Exponent and fraction bits of the formats that are coded (R104, R312). -/
def codeShape (f : Fmt) : Nat × Nat :=
  match f with
  | .fp32 => (8, 23)
  | .bf16 => (8, 7)
  | _ => (5, 10)

/-- The bytes of a list of (value, width) pairs packed least significant bit first, padded to a whole byte. -/
def packBits (l : List (Nat × Nat)) : List Byte :=
  let r := l.foldl (fun a p => (a.1 + p.1 % 2 ^ p.2 * 2 ^ a.2, a.2 + p.2)) (0, 0)
  toBytes ((r.2 + 7) / 8) r.1

/-- The least width that holds n. -/
def bitWidth (n : Nat) : Nat := if n == 0 then 0 else Nat.log2 n + 1

/-- The exponent field of an element pattern. -/
def expField (f : Fmt) (v : Nat) : Nat := v / 2 ^ (codeShape f).2 % 2 ^ (codeShape f).1

/-- Code one group of at most 32 element patterns: the shorter of the raw and the coded form, raw on a tie (R312). A
group without a nonzero element has b = 0. -/
def codeGroup (f : Fmt) (l : List Nat) : List Byte :=
  let eb := (codeShape f).1
  let fb := (codeShape f).2
  let sz := f.width / 8
  let raw : List Byte := 0 :: l.flatMap (toBytes sz)
  let nz := l.filter (· != 0)
  let es := nz.map (expField f)
  let b := match es with
    | [] => 0
    | e :: t => t.foldl min e
  let d := bitWidth (maxN es - b)
  let mask := (l.zipIdx.map (fun p => if p.1 == 0 then 0 else 2 ^ p.2)).foldl (· + ·) 0
  let fields := nz.flatMap (fun v => [(v / 2 ^ (eb + fb), 1), (v % 2 ^ fb, fb), (expField f v - b, d)])
  let coded : List Byte := BitVec.ofNat 8 (128 + d) :: BitVec.ofNat 8 b :: (toBytes 4 mask ++ packBits fields)
  if coded.length < raw.length then coded else raw

/-- Cut a list into lists of n. -/
def cutN {α : Type} (n : Nat) : Nat → List α → List (List α)
  | 0, _ => []
  | k + 1, l => if l.isEmpty then [] else l.take n :: cutN n k (l.drop n)

/-- The element patterns of a payload. -/
def elemsOf (sz : Nat) (bs : List Byte) : List Nat := (cutN sz bs.length bs).map leNat

/-- Code a payload (R312). -/
def codePayload (f : Fmt) (bs : List Byte) : List Byte :=
  let els := elemsOf (f.width / 8) bs
  (cutN 32 els.length els).flatMap (codeGroup f)

/-- Decode one group of m elements: its element patterns and the bytes it took; none when bytes are missing (R312). -/
def decodeGroup (f : Fmt) (m : Nat) (bs : List Byte) : Option (List Nat × Nat) :=
  let eb := (codeShape f).1
  let fb := (codeShape f).2
  let sz := f.width / 8
  match bs with
  | [] => none
  | g :: rest =>
    if g.toNat / 128 == 0 then
      if rest.length < m * sz then none else some (elemsOf sz (rest.take (m * sz)), 1 + m * sz)
    else
      let d := g.toNat % 16
      if rest.length < 5 then none
      else
        let b := (rest.getD 0 0).toNat
        let mask := leNat ((rest.drop 1).take 4)
        let n := (List.range m).countP (fun i => bit mask i)
        let w := 1 + fb + d
        let k := (n * w + 7) / 8
        if rest.length < 5 + k then none
        else
          let stream := leNat ((rest.drop 5).take k)
          let r := (List.range m).foldl (fun (a : List Nat × Nat) i =>
            if bit mask i then
              let v := stream / 2 ^ (a.2 * w)
              let x := v % 2 * 2 ^ (eb + fb) + (v / 2 ^ (1 + fb) % 2 ^ d + b) % 2 ^ eb * 2 ^ fb + v / 2 % 2 ^ fb
              (a.1 ++ [x], a.2 + 1)
            else (a.1 ++ [0], a.2)) ([], 0)
          some (r.1, 6 + k)

/-- Decode a coded payload of n elements: its bytes and how many coded bytes it took (R312). -/
def decodePayload (f : Fmt) (n : Nat) : Nat → List Byte → Option (List Byte × Nat)
  | 0, _ => some ([], 0)
  | k + 1, bs =>
    if n == 0 then some ([], 0)
    else match decodeGroup f (min 32 n) bs with
      | none => none
      | some (l, used) =>
        match decodePayload f (n - min 32 n) k (bs.drop used) with
        | none => none
        | some (r, u) => some (l.flatMap (toBytes (f.width / 8)) ++ r, used + u)

/-- The wire format of `lossy`: B8 or B4 (R308). -/
def lossyFmt (n : Nat) : Fmt := if n == 1 then .b8 else .b4

/-- A decoded carrier element as a pattern of the landing format (R313): exact, but for values beyond the format's range
(infinity) and nonzero values below its smallest normal (zero with the sign). The flag tells which: 1 infinity, 2 zero. -/
def lossyElem (f : Fmt) (x : Elem) : Nat × Nat :=
  match x.cls with
  | .nan => (f.nanBits, 0)
  | .inf => (f.infBits x.neg, 0)
  | .zero => (0, 0)
  | .fin =>
    let r := encodeFloat f .rne { num := x.m, e := x.e }
    let inf := r.2.count ctr.infOut != 0 || r.1 % 2 ^ (f.width - 1) == f.infBits false
    let z := r.1 % 2 ^ (f.width - 1) == 0
    if inf then (f.infBits x.neg, 1)
    else if z then (b2n x.neg * 2 ^ (f.width - 1), 2)
    else (r.1, 0)

/-- Code a payload lossily as consecutive carriers of 96 elements (R313): the carriers, the events of the conversion and
of what the destination will write beyond the range of `fmt`. -/
def lossyPayload (f wire : Fmt) (md : Nat → Rnd) (bs : List Byte) : List Byte × Evs :=
  let els := (elemsOf (f.width / 8) bs).map (fun v => (decodeFloat f v))
  let inEv := Evs.one ctr.inFlush (els.countP (fun p => p.2))
  let parts := cutN 96 els.length (els.map (fun p => p.1.out))
  let r := parts.zipIdx.map (fun p =>
    let c := encodeCarrier wire 0xFE (fun e => md (96 * p.2 + e)) p.1
    let dec := ((decodeCarrier wire c.bytes).1.take p.1.length).map (lossyElem f)
    (c.bytes, Evs.sum [c.evs, Evs.one ctr.infOut (dec.countP (fun d => d.2 == 1)),
      Evs.one ctr.outFlush (dec.countP (fun d => d.2 == 2))]))
  (r.flatMap (fun p => p.1), Evs.sum (inEv :: r.map (fun p => p.2)))

/-- Decode n elements of a lossy payload into the landing format (R313). -/
def lossyDecode (f wire : Fmt) (n : Nat) (bs : List Byte) : List Byte :=
  (((cutN wire.carrierBytes bs.length bs).flatMap (fun c => (decodeCarrier wire c).1)).take n).flatMap
    (fun x => toBytes (f.width / 8) (lossyElem f x).1)

/-- Bytes a packet's payload takes on the wire, once the bytes received so far determine it (R304, R312, R313). -/
def wireLen (p : Pkt) : Option Nat :=
  let f := (Fmt.ofCode (bits p.flags 7 4)).getD .fp32
  let sz := max 1 (f.width / 8)
  if p.kind == 1 && bits p.flags 2 1 != 0 then
    some ((p.len / sz + 95) / 96 * (lossyFmt (bits p.flags 2 1)).carrierBytes)
  else if p.kind == 1 && bit p.flags 0 then (decodePayload f (p.len / sz) (p.len / sz) p.data).map (fun r => r.2)
  else some p.len

/-- The decoded payload of a data packet (R312, R313). -/
def payloadOf (p : Pkt) : List Byte :=
  let f := (Fmt.ofCode (bits p.flags 7 4)).getD .fp32
  let sz := max 1 (f.width / 8)
  if bits p.flags 2 1 != 0 then lossyDecode f (lossyFmt (bits p.flags 2 1)) (p.len / sz) p.data
  else if bit p.flags 0 then ((decodePayload f (p.len / sz) (p.len / sz) p.data).map (fun r => r.1)).getD []
  else p.data.take p.len

end Sys2Proof.Machine
end

