-- ==== Sys2Proof/Machine/Group.lean ====
section
/-!
DEFINITION. Groups: headers, member arrays and their validity (R328 to R330), epochs (R331, R332), trees (R335).
-/

namespace Sys2Proof.Machine

/-- HBM address of the header of group g (R328). -/
def State.grpAt (s : State) (g : Nat) : Nat :=
  s.get F.GRP_TABLE_HI_base_hi 0 * 2 ^ 32 + s.get F.GRP_TABLE_LO_base 0 * 2 ^ 14 + 64 * g

/-- The n bytes at offset o of the header of group g. -/
def State.grpF (s : State) (g o n : Nat) : Nat := s.ldH (s.grpAt g + o) n

/-- Write n bytes at offset o of the header of group g. -/
def State.setGrpF (s : State) (g o n v : Nat) : State := s.stH (s.grpAt g + o) n v

def State.grpEpoch (s : State) (g : Nat) : Nat := s.grpF g 0 4
def State.grpN (s : State) (g : Nat) : Nat := s.grpF g 8 4
def State.grpSelf (s : State) (g : Nat) : Nat := s.grpF g 12 2
def State.grpFanin (s : State) (g : Nat) : Nat := s.grpF g 14 1
def State.grpValid (s : State) (g : Nat) : Bool := bit (s.grpF g 15 1) 0
def State.grpVc (s : State) (g : Nat) : Nat := bits (s.grpF g 15 1) 3 2
def State.grpMem (s : State) (g : Nat) : Nat := s.grpF g 16 8

/-- The 16 bytes of the entry of rank r in a member array (R329). -/
def State.memEnt (s : State) (ptr r : Nat) : Nat := s.ldH (ptr + 16 * r) 16

def mem.bib (e : Nat) : Nat := bits e 23 0
def mem.hole (e : Nat) : Bool := bits e 31 24 != 0
def mem.rlen (e : Nat) : Nat := bits e 39 32
def mem.route (e : Nat) : Nat := bits e 89 48

/-- The entry of rank r of group g in effect. -/
def State.grpMember (s : State) (g r : Nat) : Nat := s.memEnt (s.grpMem g) r

/-- Is a member entry valid; `self`: it is that of this module's own rank (R329, R330). -/
def memberOk (bib e : Nat) (self : Bool) : Bool :=
  decide (bits e 31 24 ≤ 1) && bits e 47 40 == 0 && bits e 95 90 == 0 && bits e 127 96 == 0
    && (if self then !mem.hole e && mem.bib e == bib && mem.rlen e == 0
        else mem.hole e || (1 ≤ mem.rlen e && mem.rlen e ≤ 7))

/-- Does the array of n entries at ptr meet R330. -/
def State.membersOk (s : State) (ptr n self : Nat) : Bool :=
  ptr % 64 == 0 && decide (self < n) && (List.range n).all (fun r => memberOk s.bib (s.memEnt ptr r) (r == self))

/-- Does the header of group g meet R330, with the member array at ptr; its `vc` differs from `mvc` (R369). -/
def State.grpOk (s : State) (g ptr : Nat) : Bool :=
  let n := s.grpN g
  bits (s.grpF g 15 1) 7 4 == 0 && s.grpF g 41 3 == 0 && s.grpF g 52 12 == 0 && decide (s.grpF g 40 1 ≤ 15)
    && 1 ≤ n && n ≤ 65536 && 1 ≤ s.grpFanin g && s.grpFanin g ≤ 8
    && s.grpVc g != s.get F.GRP_MBR_CFG_mvc 0
    && s.membersOk ptr n (s.grpSelf g)

/-- Post GRP_STATUS (R354); `bib`: the bib the event names, 0 for none. -/
def State.grpPost (s : State) (code g bib : Nat) : State :=
  s.post R.GRP_STATUS 0 [(F.GRP_STATUS_group, g), (F.GRP_STATUS_bib_lo, bib % 256)] code 2400

/-- Count and report a foreign packet (R331, R371). -/
def State.grpForeign (s : State) (g bib : Nat) : State := (s.satUp F.GRP_STALE_CNT_foreign 0).grpPost 3 g bib

/-- The outcome of the epoch check (R331). -/
inductive EpochRes where
  | foreign | stale | held | accepted
  deriving DecidableEq, Repr

/-- The epoch check of a packet against the header of its group (R331). -/
def State.epochCheck (s : State) (p : Pkt) : EpochRes :=
  let g := p.group
  if !s.grpValid g then .foreign
  else if p.epoch < s.grpEpoch g then .stale
  else if s.grpEpoch g < p.epoch then .held
  else
    let e := s.grpMember g p.srcRank
    if s.grpN g ≤ p.srcRank || mem.hole e || mem.bib e != p.srcBib then .foreign else .accepted

/-! ### Trees (R335) -/

/-- The live ranks of group g, ascending. -/
def State.liveRanks (s : State) (g : Nat) : List Nat :=
  (List.range (s.grpN g)).filter (fun r => !mem.hole (s.grpMember g r))

/-- The position of this module's rank among the live ranks. -/
def State.treePos (s : State) (g : Nat) : Option Nat := (s.liveRanks g).idxOf? (s.grpSelf g)

/-- The rank of this module's parent in the tree of group g; none at the root. -/
def State.treeParent (s : State) (g : Nat) : Option Nat :=
  match s.treePos g with
  | none => none
  | some 0 => none
  | some (p + 1) => (s.liveRanks g)[p / s.grpFanin g]?

/-- The ranks at the children's positions of position p (R335). -/
def State.childrenOf (s : State) (g p : Nat) : List Nat :=
  let l := s.liveRanks g
  let f := s.grpFanin g
  (List.range f).filterMap (fun i => l[f * p + 1 + i]?)

/-- The ranks of this module's children, ascending. -/
def State.treeChildren (s : State) (g : Nat) : List Nat :=
  match s.treePos g with
  | none => []
  | some p => s.childrenOf g p

/-- The lowest live rank: the anchor. -/
def State.anchor (s : State) (g : Nat) : Nat := (s.liveRanks g).headD 0

/-- A packet to rank r of group g with the group's route, this module as sender (R304, R341). -/
def State.grpPkt (s : State) (g r kind : Nat) (data : List Byte) : Pkt :=
  let e := s.grpMember g r
  { kind := kind, group := g, hops := mem.rlen e, epoch := s.grpEpoch g, srcBib := s.bib, srcRank := s.grpSelf g,
    dstRank := r, route := mem.route e, len := data.length, data := data }

end Sys2Proof.Machine
end

