-- ==== Sys2Proof/Machine/Packets.lean ====
section
/-!
DEFINITION. Send descriptors and the packets that a send is cut into (R308, R309, R312, R313).
-/

namespace Sys2Proof.Machine

/-! ### Send descriptors (R308) -/

def snd.group (d : Nat) : Nat := bits d 7 0
def snd.rank (d : Nat) : Nat := bits d 23 8
def snd.vc (d : Nat) : Nat := bits d 25 24
def snd.code (d : Nat) : Bool := bit d 26
def snd.lossy (d : Nat) : Nat := bits d 28 27
def snd.round (d : Nat) : Bool := bit d 29
def snd.fmt (d : Nat) : Option Fmt := Fmt.ofCode (bits d 35 32)
def snd.tensor (d : Nat) : Nat := bits d 51 36
def snd.window (d : Nat) : Nat := bits d 59 52
def snd.src (d : Nat) : Nat := bits d 127 64
def snd.dstOff (d : Nat) : Nat := bits d 167 128
def snd.bytes (d : Nat) : Nat := bits d 199 168
def snd.rowBase (d : Nat) : Nat := bits d 223 200
def snd.colBase (d : Nat) : Nat := bits d 243 224
def snd.colsM1 (d : Nat) : Nat := bits d 263 244

/-- Bytes of one element of a format; of the carrier formats a carrier, of packed nibbles a byte. -/
def Fmt.unit (f : Fmt) : Nat := if f.isBlock then f.carrierBytes else max 1 (f.width / 8)

/-- A format that can be coded or sent lossily: FP32, BF16, FP16 (R309, R312). -/
def Fmt.codable (f : Fmt) : Bool := f == .fp32 || f == .bf16 || f == .fp16

/-- Is a send invalid for its descriptor alone (R309). -/
def sndInvalid (d : Nat) : Bool :=
  bits d 511 264 != 0 || bits d 63 60 != 0 || bits d 31 30 != 0 || snd.lossy d == 3 || snd.bytes d == 0
    || (match snd.fmt d with
        | none => true
        | some f => snd.bytes d % f.unit != 0 || (snd.lossy d != 0 && !f.codable))
    || placeReserved (snd.src d)

/-- Does the group entry hold no usable route to the rank, with the rank's own entry among them (R309). -/
def State.sndNoRoute (s : State) (d : Nat) : Bool :=
  let g := snd.group d
  let e := s.grpMember g (snd.rank d)
  !s.grpValid g || s.grpN g ≤ snd.rank d || mem.hole e || mem.rlen e == 0 || !s.linkUp (hopOf (mem.route e) 0)

/-- The element that begins at byte lo of data in a format; a carrier holds 96 (R304). -/
def elemAt (f : Fmt) (lo : Nat) : Nat := if f.isBlock then lo / f.carrierBytes * 96 else lo * 8 / f.width

/-- One packet of a send: bytes lo to lo + n - 1 of its source (R304, R309, R312, R313), and the events of a lossy
conversion. -/
def State.sndPkt (s : State) (c : Clu) (d src lo n : Nat) : Pkt × Evs :=
  let f := (snd.fmt d).getD .fp32
  let raw := s.ldBytes (src + lo) n
  let el := elemAt f lo
  let cols := snd.colsM1 d + 1
  let md := fun (k : Nat) =>
    s.rndFor c (snd.tensor d) (snd.round d) 0 (snd.rowBase d + (el + k) / cols) (snd.colBase d + (el + k) % cols)
  let lossy := snd.lossy d
  let w : List Byte × Nat × Evs :=
    if lossy != 0 then
      let r := lossyPayload f (lossyFmt lossy) md raw
      (r.1, lossy * 2, r.2)
    else if snd.code d && f.codable then
      let k := codePayload f raw
      if k.length < raw.length then (k, 1, {}) else (raw, 0, {})
    else (raw, 0, {})
  ({ s.grpPkt (snd.group d) (snd.rank d) 1 w.1 with
     flags := w.2.1 + 8 * b2n (snd.round d) + 16 * bits d 35 32, window := snd.window d, tensor := snd.tensor d,
     dstOff := snd.dstOff d + lo, len := n, rowBase := snd.rowBase d, colBase := snd.colBase d, colsM1 := snd.colsM1 d,
     elem0 := el }, w.2.2)

/-- A list with its first entry equal to a replaced by b. -/
def setFirst {α : Type} [BEq α] (a b : α) : List α → List α
  | [] => []
  | x :: l => if x == a then b :: l else x :: setFirst a b l

/-- The place of a send's source; none: it fails as a place, or a channel of HBM that serves it is quarantined (R309, R380). -/
def State.sndSource (s : State) (d : Nat) : Option Nat :=
  match s.resolve (snd.src d) (snd.bytes d) with
  | .error _ => none
  | .ok a => if decide (a < 2 ^ 41) && s.hbmBad a (a + snd.bytes d) then none else some a

/-- Read the packets of a send in flight, each when the flits of the one before it have left the queue (R309). A unit that is
quarantined meanwhile stops the send; so does a route that is lost. A read that fails has its unit quarantined, or for HBM is lasting:
it stops the send too (log 127). -/
def State.sendRead (s : State) (c : Clu) (off : Nat) : Nat → State
  | 0 => s
  | k + 1 =>
    let x := s.clu c
    match x.sends.find? (fun q => q.started && q.off == off && decide (q.next < q.n)) with
    | none => s
    | some q =>
      let d := q.desc
      let t := snd.tensor d
      if (s.lnk q.link).queue.any (fun f => f.owner == some (cluU c, off)) then s
      else match s.sndSource d with
        | none => s.sndDrop c q 0x0B t
        | some src =>
          if s.sndNoRoute d then s.sndDrop c q 0x0C t
          else
            let l := hopOf (mem.route (s.grpMember (snd.group d) (snd.rank d))) 0
            let lo := 15360 * q.next
            let n := min 15360 (snd.bytes d - lo)
            let r := s.placeMeet (src + lo) n
            if r.2 then r.1.sndDrop c q 0x0B t
            else
            let s := r.1
            let x := s.clu c
            let p := s.sndPkt c d src lo n
            let s := s.setClu c { x with sends := setFirst q { q with next := q.next + 1, link := l } x.sends }
            let s := s.sendPkt (snd.vc d) p.1 (some (cluU c, off))
            let s := if snd.lossy d == 0 then s
              else if (s.staFind c t).isNone then (if q.next == 0 then s.staPost c 1 t else s)
              else s.count c t p.2
            s.sendRead c off k

/-- The sends in flight that leave by a link go on reading (R309). -/
def State.sendsGo (s : State) (l : Nat) : State :=
  s.clus.foldl (fun s p =>
    let c := cluNo (p.1 / 105) (p.1 % 105)
    (p.2.sends.filter (fun q => q.started && q.link == l)).foldl (fun s q => s.sendRead c q.off (q.n + 1)) s) s

end Sys2Proof.Machine
end

