-- ==== Sys2Proof/Machine/Relay.lean ====
section
/-!
DEFINITION. Relay links: receiving flits (R297 to R306), retry (R299, R300), batons (R301, R303), lanes (R314 to R317),
states and exchanges (R318 to R322).
-/

namespace Sys2Proof.Machine

/-! ### Swaps (R314, R315) -/

/-- Insert a lane in ascending order. -/
def insLane (a : Nat) : List Nat → List Nat
  | [] => [a]
  | b :: l => if a < b then a :: b :: l else b :: insLane a l

/-- Change the striping of a direction to the new lanes; the lane taken out is retrained (R314). A spare that was lost meanwhile
retires the link (R317). -/
def State.laneSwitch (s : State) (l : Nat) (rx : Bool) : State :=
  let x := s.lnk l
  let w := if rx then x.rx else x.tx
  match w.swap with
  | none => s
  | some k =>
    if !k.acked then s
    else if !s.flag (spareAvail rx) l then s.retireLink l
    else
      let gone := s.quarIs 5 (laneUnit l rx k.out)
      let w' := { w with
        act := insLane k.inn (w.act.filter (· != k.out)), retrain := if gone then none else some (k.out, 0), swap := none }
      let s := s.setLnk l (if rx then { x with rx := w', swapped := k.emergency && x.bad.isSome } else { x with tx := w' })
      let s := s.puts l [(spareLane rx, k.out), (spareAvail rx, 0)]
      if rx && k.emergency then s.rlyPost l 4 else s

/-- LANE_SWITCH_FRAME: the switch frame of a direction (R314). -/
def execLaneSwitchFrame (l : Link) (rx : Bool) (s : State) : Host.Outcome State Fault Refusal := .next (s.laneSwitch l rx)

/-- LANE_LOCK_LOSS: the receiver loses lock on a lane (R315): an active lane is swapped out at once; a lost spare is
unavailable until it is retrained. A second loss while no spare is available retires the link (R317). -/
def execLaneLockLoss (l : Link) (lane : Fin 5) (s : State) : Host.Outcome State Fault Refusal :=
  .next (if s.live && s.linkUp l then
    let x := s.lnk l
    if x.rx.act.contains lane.val then s.swapEmergency l lane
    else if x.rx.swap.any (fun w => w.emergency) then s.retireLink l
    else (s.setLnk l { x with rx := { x.rx with retrain := some (lane.val, 0) } }).put F.RLY_STATE_rx_spare_avail l 0
  else s)

/-- The lane under retraining passes and becomes the spare, or fails: once it is retried, twice it is quarantined (R314). -/
def State.retrainDone (s : State) (l : Nat) (rx ok : Bool) : State :=
  let x := s.lnk l
  let w := if rx then x.rx else x.tx
  match w.retrain with
  | none => s
  | some (lane, n) =>
    let set := fun (s : State) (v : Option (Nat × Nat)) =>
      let w' := { w with retrain := v }
      s.setLnk l (if rx then { x with rx := w' } else { x with tx := w' })
    if ok then
      let s := (set s none).put (spareAvail rx) l 1
      if n == 0 then s else s.fltTransient 5 (laneUnit l rx lane) 5 0
    else if n == 0 then set s (some (lane, 1))
    else (set s none).laneQuar l rx lane

/-- LANE_RETRAIN_DONE: a retraining ends (R314). -/
def execLaneRetrainDone (l : Link) (rx : Bool) (ok : Bool) (s : State) : Host.Outcome State Fault Refusal :=
  .next (if s.live then s.retrainDone l rx ok else s)

/-- Take transmit lane `out` out: an active lane, with a trained spare and no swap in progress (R316, R317). -/
def State.takeOut (s : State) (l out : Nat) : State :=
  let x := s.lnk l
  if s.live && s.linkUp l && s.flag F.RLY_STATE_tx_spare_avail l && x.tx.swap.isNone && x.tx.retrain.isNone
      && x.tx.act.contains out then
    (s.setLnk l { x with tx := { x.tx with last := out } }).swapAsk l out 1
  else s

/-- LANE_RETRAIN_DUE: `retrain_s` has elapsed: the next active transmit lane in turn is taken out (R316). -/
def execLaneRetrainDue (l : Link) (s : State) : Host.Outcome State Fault Refusal :=
  let w := (s.lnk l).tx
  let next := (w.act.find? (fun k => decide (w.last < k))).getD (w.act.headD 0)
  .next (if s.get F.RLY_CTRL_retrain_s l == 0 then s else s.takeOut l next)

/-- SWAP_NOW: a write of `swap_now` takes lane `swap_lane` out at once (R316). -/
def execSwapNow (l : Link) (s : State) : Host.Outcome State Fault Refusal :=
  .next (s.whenServed .link l 0 (s.takeOut l (s.get F.RLY_CTRL_swap_lane l)))

/-- SWAP_ACK_TIMEOUT: a swap-ack has not arrived after 1 us: the swap is requested once more, then it fails (R314). -/
def execSwapAckTimeout (l : Link) (s : State) : Host.Outcome State Fault Refusal :=
  let x := s.lnk l
  .next (if s.live then
    match x.tx.swap with
    | some w =>
      if w.acked then s
      else if w.tries ≤ 1 then s.swapAsk l w.out 2
      else (s.setLnk l { x with tx := { x.tx with swap := none } }).rlyPost l 0x10
    | none => s
  else s)

/-! ### Receiving (R297, R299, R300, R301) -/

/-- Remove the flits that an acknowledgement covers from the replay buffer: those up to 2,048 before it. -/
def ackList (ack : Nat) (l : List (Nat × TxFlit)) : List (Nat × TxFlit) :=
  l.filter (fun p => let d := (ack + 4096 - p.1) % 4096; d == 0 || 2048 < d)

/-- The acknowledgement and batons of a good flit's header (R297, R301). -/
def State.rxHeader (s : State) (l hdr : Nat) : State :=
  let x := s.lnk l
  let n := bits hdr 39 34
  let vc := bits hdr 33 32
  let rep := ackList (bits hdr 31 20) x.replay
  let s := s.setLnk l { x with
    replay := rep, held := x.held.set vc (x.held.getD vc 0 + n) }
  let s := if n == 0 then s else s.waitClose (linkWaiter l vc) false
  (s.pumpAll l).sendsGo l

/-- Count a received frame and the byte errors its decoder located, by lane, kept for the last 1,024 frames (R300, R326). -/
def State.rxCount (s : State) (l : Nat) (f : Flit) : State :=
  let x := s.lnk l
  let n := (x.rxFrame + 1) % 2 ^ 32
  let at' := (frameDecode f.frame).2.2
  let s := s.setLnk l { x with
    rxFrame := n,
    errs := (x.errs ++ at'.map (fun j => (n, frameLane x.rx.act j))).filter (fun p => decide ((n + 2 ^ 32 - p.1) % 2 ^ 32 < 1024)) }
  if at'.isEmpty then s else s.satUp F.RLY_ERR_CNT_fec_corr l

/-- The lane that holds at least half of the located errors (R300). -/
def worstLane (e : List (Nat × Nat)) : Option Nat :=
  (List.range 5).find? (fun k => !e.isEmpty && decide (e.length ≤ 2 * e.countP (fun p => p.2 == k)))

/-- Is a bad flit the replayed copy that is awaited: its header says so, or it comes when the nak has made its round trip, so that
the replay is what arrives (R299, R300). -/
def State.replayBad (s : State) (l : Nat) (f : Flit) : Bool :=
  let x := s.lnk l
  let h := leNat ((flitBytes f).take 8)
  match x.bad with
  | some p =>
    let t := p.2 + s.get F.RLY_RTT_rtt_ns l
    (bits h 19 8 == x.rxSeq && (bits h 3 0 == 1 || bits h 3 0 == 2)) || decide (t ≤ s.ns ∧ s.ns ≤ t + 100)
  | none => false

/-- Has the replay of a bad flit failed to come in its time, RTT + 100 ns (R299). -/
def State.replayOver (s : State) (l : Nat) : Bool :=
  (s.lnk l).bad.all (fun p => decide (p.2 + s.get F.RLY_RTT_rtt_ns l + 100 < s.ns))

/-- A bad flit (R299, R300): discarded and nakked; one that comes before the replay is discarded only, as is one that comes before
the switch of an emergency swap; a replayed copy that is bad again is a lasting fault. A bad flit after the time in which the replay
is due is a new one. -/
def State.rxBad (s : State) (l : Nat) (f : Flit) : State :=
  let x := s.lnk l
  if s.replayOver l && !s.replayBad l f then
    (s.setLnk l { x with bad := some (x.rxSeq, s.ns) }).sendCtl l 3 (toBytes 2 x.rxSeq) 1
  else if !s.replayBad l f || x.rx.swap.any (fun w => w.emergency) then s
  else
    let s := s.satUp F.RLY_ERR_CNT_lasting l
    match worstLane x.errs with
    | some k =>
      if s.flag F.RLY_STATE_rx_spare_avail l && !x.swapped && x.rx.act.contains k then
        let s := (s.fltLasting 5 (laneUnit l true k) 3 0).swapEmergency l k
        (s.setLnk l { s.lnk l with bad := some (x.rxSeq, s.ns) }).sendCtl l 3 (toBytes 2 x.rxSeq) 1
      else s.retireLink l
    | none => s.retireLink l

/-- What the link logic makes of a received flit: the state, and the flit's payload when a flit of `kind` is to be acted
on. Nothing is accepted while the clocks stand still (R321). -/
def State.rxFlit (s : State) (l : Nat) (kind : Nat) (f : Flit) : State × Option (List Byte) :=
  if !s.linkUp l then (s, none)
  else if !s.live then (s.setLnk l { s.lnk l with missed := (s.lnk l).missed || kind == 1 || kind == 2 }, none)
  else
    let s := s.rxCount l f
    let h := leNat ((flitBytes f).take 8)
    if !flitGood f then (s.rxBad l f, none)
    else if bits h 3 0 != kind then (s, none)
    else
      let s := s.rxHeader l h
      let p := ((flitBytes f).drop 8).take 244
      if kind != 1 && kind != 2 then (s, some p)
      else
        let x := s.lnk l
        if bits h 19 8 != x.rxSeq then (s, none)
        else
          let redone := x.bad.isSome
          let s := (s.setLnk l { x with rxSeq := (x.rxSeq + 1) % 4096, ackDue := true, bad := none, swapped := false
            }).perfLink l 1 1
          let s := if redone then ((s.satUp F.RLY_ERR_CNT_retry l).rlyPost l 3).fltTransient 6 l 3 0 else s
          (s, some p)

/-- Act once on a control flit that is sent in three consecutive frames (R298): the first good copy counts; one of the same kind and
payload in the two frames after it is another copy. -/
def State.ctlOnce (s : State) (l kind : Nat) (p : List Byte) (act : State → State) : State :=
  let x := s.lnk l
  let k := p.take 16
  let again := match x.ctl with
    | some c => c.1 == kind && c.2.2 == k && decide ((x.rxFrame + 2 ^ 32 - c.2.1) % 2 ^ 32 ≤ 2)
    | none => false
  if again then s else act (s.setLnk l { x with ctl := some (kind, x.rxFrame, k) })

/-- IDLE_FLIT: acknowledgement and batons (R297). -/
def execIdleFlit (l : Link) (f : Flit) (s : State) : Host.Outcome State Fault Refusal := .next (s.rxFlit l 0 f).1

/-- BATON_FLIT: batons of the header (R298, R301). -/
def execBatonFlit (l : Link) (f : Flit) (s : State) : Host.Outcome State Fault Refusal := .next (s.rxFlit l 4 f).1

/-! ### Packets passing and arriving (R305, R306) -/

/-- The bytes received of a packet, as its head and payload. -/
def packetDone (b : List Byte) : Bool :=
  match wireLen (Pkt.ofBytes b) with
  | some n => decide (48 + n ≤ b.length)
  | none => false

/-- Take a flit's payload into the assembly of its virtual channel at the destination. -/
def State.deliverFlit (s : State) (l vc : Nat) (b : List Byte) : State :=
  let x := s.lnk l
  if packetDone b then s.setLnk l { x with asm := slDel x.asm vc, inbox := x.inbox ++ [(vc, b)] }
  else s.setLnk l { x with asm := slSet x.asm vc (.deliver b) }

/-- A head flit (R305, R306). -/
def State.headIn (s : State) (l vc : Nat) (p : List Byte) : State :=
  let x := s.lnk l
  let k := Pkt.ofBytes p
  if k.rlen ≤ k.ptr then s.deliverFlit l vc p
  else
    let out := hopOf k.route k.ptr
    if !s.linkUp out then
      let s := s.puts l [(F.RLY_DROP_group, k.group), (F.RLY_DROP_bib, k.srcBib)]
      let s := (s.setLnk l { x with asm := slSet x.asm vc .drop }).rlyPost l 0x0A
      s.batonBack l vc 1
    else
      let p' := p.take 3 ++ [BitVec.ofNat 8 (k.hops + 8)] ++ p.drop 4
      let s := s.setLnk l { x with asm := if packetDone p then slDel x.asm vc else slSet x.asm vc (.forward out p) }
      s.queueFlits out [{ vc := vc, kind := 1, payload := p', src := some l, tail := packetDone p }]

/-- A body flit continues its packet (R305). -/
def State.bodyIn (s : State) (l vc : Nat) (p : List Byte) : State :=
  let x := s.lnk l
  match slFind x.asm vc with
  | some (.deliver b) => s.deliverFlit l vc (b ++ p)
  | some (.forward out b) =>
    let b := b ++ p
    let s := s.setLnk l { x with asm := if packetDone b then slDel x.asm vc else slSet x.asm vc (.forward out b) }
    if s.linkUp out then s.queueFlits out [{ vc := vc, kind := 2, payload := p, src := some l, tail := packetDone b }]
    else s.batonBack l vc 1
  | some .drop | none => s.batonBack l vc 1

/-- Does a packet of a newer epoch hold up the traffic of a virtual channel of a link (R332). -/
def State.vcHeld (s : State) (l vc : Nat) : Bool :=
  (s.lnk l).inbox.any (fun p =>
    let k := Pkt.ofBytes p.2
    p.1 == vc && k.checked && s.epochCheck k == .held)

/-- A head or body flit in the receive buffer: it waits behind a held packet of its channel (R332), else it goes on. -/
def State.flitIn (s : State) (l vc kind : Nat) (p : List Byte) : State :=
  let x := s.lnk l
  if s.vcHeld l vc || x.parked.any (fun q => q.1 == vc) then s.setLnk l { x with parked := x.parked ++ [(vc, kind, p)] }
  else if kind == 1 then s.headIn l vc p else s.bodyIn l vc p

/-- The flits that waited behind held packets of a channel go on, up to the next held packet (R332). -/
def State.unpark (s : State) (l vc : Nat) : Nat → State
  | 0 => s
  | k + 1 =>
    let x := s.lnk l
    match x.parked.find? (fun q => q.1 == vc) with
    | none => s
    | some q =>
      if s.vcHeld l vc then s
      else
        let s := s.setLnk l { x with parked := x.parked.erase q }
        (if q.2.1 == 1 then s.headIn l vc q.2.2 else s.bodyIn l vc q.2.2).unpark l vc k

/-- What waited on any channel of any link goes on where nothing holds it any more. -/
def State.unparkAll (s : State) : State :=
  s.links.foldl (fun s p => (List.range 4).foldl (fun s vc => s.unpark p.1 vc p.2.parked.length) s) s

/-- HEAD_FLIT: forwarded by its next hop, dropped when that link is not UP, or delivered here (R305, R306). -/
def execHeadFlit (l : Link) (f : Flit) (s : State) : Host.Outcome State Fault Refusal :=
  match s.rxFlit l 1 f with
  | (s', some p) => .next (s'.flitIn l (bits (leNat ((flitBytes f).take 8)) 5 4) 1 p)
  | (s', none) => .next s'

/-- BODY_FLIT: continues its packet (R305). -/
def execBodyFlit (l : Link) (f : Flit) (s : State) : Host.Outcome State Fault Refusal :=
  match s.rxFlit l 2 f with
  | (s', some p) => .next (s'.flitIn l (bits (leNat ((flitBytes f).take 8)) 5 4) 2 p)
  | (s', none) => .next s'

/-! ### Replay (R299) -/

/-- Send the flits of the replay buffer again, in order. -/
def State.replayAll (s : State) (l : Nat) : List (Nat × TxFlit) → State
  | [] => s
  | p :: ps =>
    ((((s.sendFlit l p.2.kind p.2.vc p.1 p.2.payload).perfLink l 0 1).perfLink l 4 1).perfLink l 6 244).replayAll l ps

/-- NAK_FLIT: the sender replays from the named flit (R299). -/
def execNakFlit (l : Link) (f : Flit) (s : State) : Host.Outcome State Fault Refusal :=
  match s.rxFlit l 3 f with
  | (s', some p) =>
    let seq := leNat (p.take 2) % 4096
    .next (s'.replayAll l ((s'.lnk l).replay.dropWhile (fun q => q.1 != seq)))
  | (s', none) => .next s'

/-- REPLAY_TIMEOUT: flits unacknowledged for 4 us are replayed from the oldest, which counts as a retry of it (R299). -/
def execReplayTimeout (l : Link) (s : State) : Host.Outcome State Fault Refusal :=
  let x := s.lnk l
  .next (if s.live && s.linkUp l && !x.replay.isEmpty then (s.satUp F.RLY_ERR_CNT_retry l).replayAll l x.replay else s)

/-- BATON_STALL: a flit has waited 100 us for a baton (R303). -/
def execBatonStall (l : Link) (vc : Fin 4) (s : State) : Host.Outcome State Fault Refusal :=
  let x := s.lnk l
  .next (if s.live && s.linkUp l && x.queue.any (fun f => f.vc == vc.val) && x.held.getD vc 0 == 0 then
    (s.batonWait l vc).rlyPost l 8
  else s)

/-! ### Swap flits (R314, R315) -/

/-- SWAP_FLIT: a planned swap of the peer's transmit lanes, 17 to 64 frames ahead on the receive side, is acknowledged;
any other is the peer's emergency request, which the transmitter follows at once (R314, R315). -/
def execSwapFlit (l : Link) (f : Flit) (s : State) : Host.Outcome State Fault Refusal :=
  match s.rxFlit l 8 f with
  | (s', some p) => .next (s'.ctlOnce l 8 p (fun s =>
      let x := s.lnk l
      let w : Swap := { out := leNat (p.take 1), inn := leNat ((p.drop 1).take 1), frame := leNat ((p.drop 2).take 4), acked := true }
      let d := (w.frame + 2 ^ 32 - x.rxFrame) % 2 ^ 32
      if 17 ≤ d && d ≤ 64 then
        (s.setLnk l { x with rx := { x.rx with swap := some w } }).sendCtl l 9 (swapBytes w) 3
      else s.setLnk l { x with tx := { x.tx with swap := some { w with emergency := true } } }))
  | (s', none) => .next s'

/-- SWAP_ACK_FLIT: the planned switch is confirmed (R314). -/
def execSwapAckFlit (l : Link) (f : Flit) (s : State) : Host.Outcome State Fault Refusal :=
  match s.rxFlit l 9 f with
  | (s', some p) => .next (s'.ctlOnce l 9 p (fun s =>
      let x := s.lnk l
      match x.tx.swap with
      | some w => if swapBytes w == p.take 6 then
          s.setLnk l { x with tx := { x.tx with swap := some { w with acked := true } } } else s
      | none => s))
  | (s', none) => .next s'

/-! ### States (R317 to R319) -/

/-- LINK_RETIRE: a write of `retire` retires the link (R317, R318). -/
def execLinkRetire (l : Link) (s : State) : Host.Outcome State Fault Refusal :=
  .next (s.whenServed .link l 0 (s.retireLink l))

/-- A change of `enable` (R318): DOWN to TRAIN, or back to DOWN; a retired link stays, and one under requalification is retired again
(R364). -/
def State.linkEnable (s : State) (l : Nat) (en : Bool) : State :=
  let st := s.get F.RLY_STATE_state l
  if en then (if st == 0 && s.flag F.HUB_ID_BIB_bib_valid 0 then s.put F.RLY_STATE_state l 1 else s)
  else if st == 5 then s
  else
    let x := s.lnk l
    let t := s.setLnk l { aligned := x.aligned, alignNs := x.alignNs }
    if x.requal then (t.put F.RLY_STATE_state l 5).requalFail 6 l 0 else t.put F.RLY_STATE_state l 0

/-- LINK_ENABLE: `enable` of RLY_CTRL is written, while the link's block is in service (R318, R524). -/
def execLinkEnable (l : Link) (en : Bool) (s : State) : Host.Outcome State Fault Refusal :=
  .next (if s.live && s.domOn (.link l) then (s.put F.RLY_CTRL_enable l (b2n en)).linkEnable l en else s)

/-- PEER_SIGNAL_DETECT: the peer's training signal is detected: an attempt begins (R318). -/
def execPeerSignalDetect (l : Link) (s : State) : Host.Outcome State Fault Refusal :=
  let x := s.lnk l
  .next (if s.live && s.get F.RLY_STATE_state l == 1 && !x.training && x.trainTries == 0 then
    s.setLnk l { x with training := true }
  else s)

/-- The four lanes that become active and the fifth, of the lanes that passed. -/
def pickLanes (good : List Nat) : List Nat × Nat :=
  let act := ((List.range 5).filter good.contains).take 4
  (act, ((List.range 5).find? (fun k => !act.contains k)).getD 4)

/-- TRAIN_ATTEMPT_END: at least 4 lanes of each direction passed: to ALIGN, where bib and link number are sent (R319), with the spare unavailable where only 4 did.
Otherwise the attempt is retried once, and then the link is retired (R318), or fails its requalification (R364). A lane in
quarantine stays out of service (R356). -/
def execTrainAttemptEnd (l : Link) (txGood rxGood : List (Fin 5)) (s : State) : Host.Outcome State Fault Refusal :=
  let x := s.lnk l
  let t := ((txGood.map Fin.val).filter (fun k => !s.quarIs 5 (laneUnit l false k))).eraseDups
  let r := ((rxGood.map Fin.val).filter (fun k => !s.quarIs 5 (laneUnit l true k))).eraseDups
  .next (if s.live && s.get F.RLY_STATE_state l == 1 && x.training then
    if 4 ≤ t.length && 4 ≤ r.length then
      let a := pickLanes t
      let b := pickLanes r
      let s := s.setLnk l { x with tx := { act := a.1 }, rx := { act := b.1 }, training := false, trainTries := 0 }
      (s.puts l [(F.RLY_STATE_state, 2), (F.RLY_STATE_tx_spare, a.2), (F.RLY_STATE_rx_spare, b.2),
        (F.RLY_STATE_tx_spare_avail, b2n (t.length == 5)), (F.RLY_STATE_rx_spare_avail, b2n (r.length == 5))]).emit
          (.align l s.bib l)
    else if x.trainTries == 0 then s.setLnk l { x with training := false, trainTries := 1 }
    else
      let s := (s.setLnk l { x with training := false, trainTries := 0, requal := false }).put F.RLY_STATE_state l 5
      (if x.requal then s.requalFail 6 l 1 else (s.fltLasting 6 l 1 0).perfStop (6 * 2 ^ 24 + l)).rlyPost l 1
  else s)

/-- TRAIN_RETRY: 100 ms after a failed attempt training is retried (R318). -/
def execTrainRetry (l : Link) (s : State) : Host.Outcome State Fault Refusal :=
  let x := s.lnk l
  .next (if s.live && s.get F.RLY_STATE_state l == 1 && !x.training && x.trainTries == 1 then
    s.setLnk l { x with training := true }
  else s)

/-- The signed difference of two stamps of 8 bytes. -/
def stampDiff (a b : Nat) : Int := sext 64 ((a + 2 ^ 64 - b % 2 ^ 64) % 2 ^ 64)

/-- The round trip of a time exchange, and the offset of the peer's site time (R320), in units of 1/256 ns. -/
def exchRtt (e : TimeExch) : Int := stampDiff e.t4 e.t1 - stampDiff e.t3 e.t2
def exchOff (e : TimeExch) : Int := (stampDiff e.t2 e.t1 - stampDiff e.t4 e.t3) / 2

/-- A round trip in whole ns, as RLY_RTT holds it. -/
def rttNs (e : TimeExch) : Nat := min (exchRtt e / 256).toNat 65535

/-- The exchange with the least round trip, the first of equals (R320). -/
def bestExch (e : TimeExch) (l : List TimeExch) : TimeExch :=
  l.foldl (fun a b => if exchRtt b < exchRtt a then b else a) e

/-- Payload of a time flit (R298). -/
def timeBytes (n t1 t2 t3 : Nat) : List Byte := toBytes 4 n ++ toBytes 8 t1 ++ toBytes 8 t2 ++ toBytes 8 t3

/-- What this side sends in ALIGN behind its bib and link number: its receive shares as batons, then its time messages (R301,
R320). -/
def State.alignSend (s : State) (l : Nat) (exch : List TimeExch) : State :=
  let b := (s.rd R.RLY_BATONS l).toNat
  let s := s.setLnk l { s.lnk l with owed := [0, 0, 0, 0] }
  let s := (List.range 4).foldl (fun s v => s.batonBack l v (8 * bits b (8 * v + 7) (8 * v))) s
  exch.foldl (fun s e =>
    let n := ((s.lnk l).msgNo + 1) % 2 ^ 32
    (s.setLnk l { s.lnk l with msgNo := n }).sendCtl l 5 (timeBytes n e.t1 0 0) 1) s

/-- ALIGN_DONE: the exchanges of ALIGN are done (R301, R319, R320): the pair is readable; a mismatch keeps the link in ALIGN;
otherwise, after 16 time exchanges, batons are held, the offset is stored, and the link is UP. Each ALIGN after the first writes a
trace record of the new offset (R503); a link under requalification has passed (R364). -/
def execAlignDone (l : Link) (peer : AlignPeer) (s : State) : Host.Outcome State Fault Refusal :=
  .next (if s.live && s.get F.RLY_STATE_state l == 2 then
    let s := s.puts l [(F.RLY_PEER_link, peer.link.toNat), (F.RLY_PEER_bib, peer.bib.toNat)]
    if !s.flag F.RLY_PEER_EXPECT_any l && (s.get F.RLY_PEER_EXPECT_link l != peer.link.toNat
        || s.get F.RLY_PEER_EXPECT_bib l != peer.bib.toNat) then s.rlyPost l 2
    else match peer.exch with
    | [] => s
    | e0 :: es =>
      if es.length != 15 then s
      else
        let e := bestExch e0 es
        let b := peer.batons.toNat
        let off := unsx 64 (exchOff e)
        let s := s.put64 R.RLY_OFFSET_LO R.RLY_OFFSET_HI l off
        let s := s.puts l [(F.RLY_RTT_rtt_ns, rttNs e), (F.RLY_RTT_rtt_last, rttNs e), (F.RLY_STATE_state, 3), (F.RLY_HB_missed, 0)]
        let s := s.alignSend l peer.exch
        let x := s.lnk l
        let s := s.setLnk l { x with
          held := (List.range 4).map (fun v => 8 * bits b (8 * v + 7) (8 * v)), aligned := true, alignNs := s.ns, exch := none, requal := false }
        let s := if x.requal then s.requalDone 6 l else s
        let s := if x.aligned then
            let q : Nat := l.val / 16
            s.trcQueue q { tEnd := s.ns, bytes := traceRec s.ns off (linkWaiter l 0) 0x11 0 (s.lap.lam % 65536) peer.bib.toNat l }
          else s
        ((List.range 4).foldl (fun s q => s.trcHead q) s).pumpAll l
  else s)

/-! ### Time exchanges, heartbeats, freeze flits (R320 to R322) -/

/-- TIME_EXCHANGE_DUE: an UP link runs a time exchange every `time_ms` (R320). -/
def execTimeExchangeDue (l : Link) (s : State) : Host.Outcome State Fault Refusal :=
  let x := s.lnk l
  let n := (x.msgNo + 1) % 2 ^ 32
  .next (if s.live && s.linkUp l && s.get F.RLY_CTRL_time_ms l != 0 then
    (s.setLnk l { x with msgNo := n, exch := some (n, s.pacer.time % 2 ^ 64) }).sendCtl l 5 (timeBytes n s.pacer.time 0 0) 1
  else s)

/-- A reply to this side's exchange (R320): `rtt_last`, and RLY_OFFSET_DRIFT beyond 16 ns. -/
def State.timeReply (s : State) (l t1 t2 t3 : Nat) : State :=
  let e : TimeExch := { t1 := t1, t2 := t2, t3 := t3, t4 := s.pacer.time }
  let old := sext 64 (s.get64 R.RLY_OFFSET_LO R.RLY_OFFSET_HI l)
  let s := (s.setLnk l { s.lnk l with exch := none }).put F.RLY_RTT_rtt_last l (rttNs e)
  if 16 * 256 < (exchOff e - old).natAbs then s.rlyPost l 9 else s

/-- A time message of the peer that arrives in ALIGN: this side is B, which stamps and answers it (R320). -/
def State.alignTime (s : State) (l : Nat) (f : Flit) : State :=
  let b := flitBytes f
  let p := b.drop 8
  if flitGood f && bits (leNat (b.take 8)) 3 0 == 5 && leNat ((p.drop 12).take 16) == 0 then
    s.sendCtl l 5 (timeBytes (leNat (p.take 4)) (leNat ((p.drop 4).take 8)) s.pacer.time s.pacer.time) 1
  else s

/-- TIME_FLIT: a time message is stamped and answered, or completes an exchange (R320). -/
def execTimeFlit (l : Link) (f : Flit) (s : State) : Host.Outcome State Fault Refusal :=
  if s.live && s.get F.RLY_STATE_state l == 2 then .next (s.alignTime l f)
  else match s.rxFlit l 5 f with
  | (s', some p) =>
    let n := leNat (p.take 4)
    let t1 := leNat ((p.drop 4).take 8)
    let t2 := leNat ((p.drop 12).take 8)
    let t3 := leNat ((p.drop 20).take 8)
    .next (if (s'.lnk l).exch == some (n, t1) && (t2 != 0 || t3 != 0) then s'.timeReply l t1 t2 t3
      else s'.sendCtl l 5 (timeBytes n t1 s'.pacer.time s'.pacer.time) 1)
  | (s', none) => .next s'

/-- Payload of a heartbeat with a state (R298). -/
def State.hbBytes (s : State) (st : Nat) : List Byte :=
  toBytes 3 s.bib ++ toBytes 1 st ++ toBytes 4 s.lap.lam ++ toBytes 8 s.pacer.time

/-- HEARTBEAT_SEND: at site times that are whole multiples of `hb_us` an UP link sends a heartbeat; a frozen module sends none (R322,
R366, R417). -/
def execHeartbeatSend (l : Link) (s : State) : Host.Outcome State Fault Refusal :=
  .next (if s.live && s.linkUp l && s.atMultiple (s.get F.RLY_CTRL_hb_us l) then s.sendCtl l 6 (s.hbBytes (b2n s.flt.degraded)) 1 else s)

/-- HEARTBEAT_FLIT: the count of misses starts again; state 2 suspends it until the link leaves LPI (R322). -/
def execHeartbeatFlit (l : Link) (f : Flit) (s : State) : Host.Outcome State Fault Refusal :=
  match s.rxFlit l 6 f with
  | (s', some p) =>
    let susp := leNat ((p.drop 3).take 1) == 2
    .next ((s'.setLnk l { s'.lnk l with hbSuspended := susp }).put F.RLY_HB_missed l 0)
  | (s', none) => .next s'

/-- HEARTBEAT_MISS: an interval passes without a heartbeat for the third time in a row, and again for each that follows:
the misses are counted and reported once (R322). -/
def execHeartbeatMiss (l : Link) (s : State) : Host.Outcome State Fault Refusal :=
  .next (if s.live && s.linkUp l && !(s.lnk l).hbSuspended then
    if s.get F.RLY_HB_missed l == 0 then (s.put F.RLY_HB_missed l 3).rlyPost l 7 else s.satUp F.RLY_HB_missed l
  else s)

/-- FREEZE_FLIT: an id not among the 16 seen most recently freezes the module and is forwarded while hops are left
(R321, R504). -/
def execFreezeFlit (l : Link) (f : Flit) (s : State) : Host.Outcome State Fault Refusal :=
  match s.rxFlit l 7 f with
  | (s', some p) =>
    let id := leNat (p.take 2)
    let hops := leNat ((p.drop 5).take 1)
    .next (if s'.frz.seen.contains id then s'
      else s'.freezeEnter 4 (some (id, leNat ((p.drop 2).take 3), if hops == 0 then none else some (hops - 1), leNat ((p.drop 6).take 8))))
  | (s', none) => .next s'

end Sys2Proof.Machine
end

