-- ==== Sys2Proof/Machine/Send.lean ====
section
/-!
DEFINITION. Sends (R308, R309) and landing windows (R310, R311).
-/

namespace Sys2Proof.Machine

/-! ### Sends (R308, R309) -/

/-- Start the first waiting send: its checks in the order of R309, then its packets of 15,360 bytes in ascending order;
at most 4 sends are in flight. -/
def State.sendStart (s : State) (c : Clu) : State :=
  let x := s.clu c
  match x.sends.find? (fun k => !k.started) with
  | none => s
  | some k =>
    let d := s.ld (poolAt c k.off) 64
    let t := snd.tensor d
    if 4 ≤ x.sends.countP (fun k => k.started) then s
    else if sndInvalid d then s.sndDrop c k 0x0B t
    else match s.sndSource d with
      | none => s.sndDrop c k 0x0B t
      | some src =>
        if s.sndNoRoute d then s.sndDrop c k 0x0C t
        else if s.regionHeld src (src + snd.bytes d) then s.waitOpen (cluWaiter c 1) 0x0C t s.bib
        else
          let l := hopOf (mem.route (s.grpMember (snd.group d) (snd.rank d))) 0
          let q : Send := { k with started := true, link := l, desc := d }
          let s := (s.waitDone (cluWaiter c 1) 0x0C).setClu c { x with sends := setFirst k q x.sends }
          s.sendRead c k.off (q.n + 1)

/-- SEND_START: a send reaches the head of its queue (R309). -/
def execSendStart (c : Clu) (s : State) : Host.Outcome State Fault Refusal :=
  .next (if s.cluOn c then s.sendStart c else s)

/-- SEND_COMPLETE: the last flit of a send in flight is acknowledged (R309). -/
def execSendComplete (c : Clu) (s : State) : Host.Outcome State Fault Refusal :=
  let x := s.clu c
  .next (if s.cluOn c then
    match x.sends.find? (s.sndAcked c) with
    | some k => s.setClu c { x with sends := x.sends.erase k, sendsDone := x.sendsDone + 1 }
    | none => s
  else s)

/-- RLY_SEND: a steward submits a send; with 8 queued it is dropped (R308). -/
def State.sendSubmit (s : State) (c : Clu) (desc : Nat) : State :=
  let x := s.clu c
  let off := 64 * desc % 2 ^ 22
  if 8 ≤ x.sends.length then s.sendPost c 0x0D (snd.tensor (s.ld (poolAt c off) 64))
  else s.setClu c { x with sends := x.sends ++ [{ off := off }] }

/-- RLY_SEND: a write of the register (R308). -/
def execRlySend (c : Clu) (desc : BitVec 16) (s : State) : Host.Outcome State Fault Refusal :=
  .next (if s.cluOn c then s.sendSubmit c desc.toNat else s)

/-- SEND_ITEM: the sequencer submits a send; with 8 queued it waits for a slot (R308). -/
def execSendItem (c : Clu) (off : PoolOff) (s : State) : Host.Outcome State Fault Refusal :=
  let x := s.clu c
  .next (if s.cluGo c then
    (if 8 ≤ x.sends.length then s.waitOpen (cluWaiter c 0) 0x0D 1 s.bib
     else (s.setClu c { x with sends := x.sends ++ [{ off := off.toNat }] }).waitDone (cluWaiter c 0) 0x0D)
  else s)

/-! ### Taking packets (R331, R332) -/

/-- The oldest packet that arrived whole on a virtual channel of a link, with its place in the inbox. -/
def State.packetAt (s : State) (l vc : Nat) : Option (List Byte) :=
  ((s.lnk l).inbox.find? (fun p => p.1 == vc)).map (fun p => p.2)

/-- Take the oldest packet of a channel out of the receive buffer; its batons go back (R301), and what waited behind
it goes on (R332). -/
def State.packetTake (s : State) (l vc : Nat) : State :=
  let x := s.lnk l
  match x.inbox.find? (fun p => p.1 == vc) with
  | none => s
  | some p => ((s.setLnk l { x with inbox := x.inbox.erase p }).batonBack l vc (p.2.length / 244)).unpark l vc x.parked.length

/-- Act on the oldest packet of a channel when it is of a kind `want` takes: the epoch check of R331 first. -/
def State.onPacket (s : State) (l vc : Nat) (want : Nat → Bool) (act : State → Pkt → State) : State :=
  match s.packetAt l vc with
  | none => s
  | some b =>
    let p := Pkt.ofBytes b
    if !s.live || !want p.kind then s
    else match s.epochCheck p with
      | .foreign => (s.packetTake l vc).grpForeign p.group p.srcBib
      | .stale => (s.packetTake l vc).satUp F.GRP_STALE_CNT_stale 0
      | .held => s
      | .accepted => act (s.packetTake l vc) p

/-! ### Landing (R310, R311) -/

/-- HBM address of landing window w. -/
def State.landAt (s : State) (w : Nat) : Nat :=
  s.get F.RLY_LAND_HI_base_hi 0 * 2 ^ 32 + s.get F.RLY_LAND_LO_base 0 * 2 ^ 13 + 32 * w

/-- Bytes landed in a window. -/
def State.landed (s : State) (w : Nat) : Nat := s.ldH (s.landAt w + 16) 8

/-- Post RLY_LAND_STATUS (R327). -/
def State.landPost (s : State) (code tensor : Nat) : State :=
  s.post R.RLY_LAND_STATUS 0 [(F.RLY_LAND_STATUS_tensor, tensor)] code 1363

/-- Land an accepted data packet: the window's checks in order, the bytes, then the count (R311). A channel of HBM that is quarantined
fails as a unit does; DESIGN CHOICE (log 127): so does a word covered in part whose read fails. -/
def State.land (s : State) (p : Pkt) : State :=
  let a := s.landAt p.window
  let base := s.ldH a 8
  let size := s.ldH (a + 8) 8
  let fl := s.ldH (a + 24) 1
  if !bit fl 0 || bits fl 7 2 != 0 || s.ldH (a + 25) 7 != 0 then s.landPost 0x0E p.tensor
  else if size < p.dstOff + p.len then s.landPost 0x0F p.tensor
  else if placeReserved base then s.landPost 0x0E p.tensor
  else match s.resolve base (p.dstOff + p.len) with
    | .error .range => s.landPost 0x0F p.tensor
    | .error _ => s.landPost 0x0E p.tensor
    | .ok q =>
      let r := if decide (q < 2 ^ 41) && s.hbmBad q (q + p.dstOff + p.len) then (s, true) else s.placePart (q + p.dstOff) p.len
      if r.2 then r.1.landPost 0x0E p.tensor
      else
      let s := r.1
      let s := s.stBytes (q + p.dstOff) (payloadOf p)
      let s := s.stH (a + 16) 8 (s.ldH (a + 16) 8 + p.len)
      { s with landBib := slSet s.landBib p.window p.srcBib }

/-- DATA_PACKET: a data packet at its destination passes the epoch and window checks and lands (R311, R331). -/
def execDataPacket (l : Link) (vc : Fin 4) (s : State) : Host.Outcome State Fault Refusal :=
  .next (s.onPacket l vc (· == 1) State.land)

end Sys2Proof.Machine
end

