-- ==== Sys2Proof/Machine/Reduce.lean ====
section
/-!
DEFINITION. Reductions and gathers over a group's tree (R335 to R349), the gate word (R249, R597), and the advance of a
group (R333, R338).
-/

namespace Sys2Proof.Machine

/-! ### Operations and elements (R340) -/

/-- Bytes of one element of an operation; none for a reserved operation. -/
def redSize (op : Nat) : Nat :=
  match op with
  | 3 | 6 => 8
  | 5 => 2
  | 7 => 32
  | 8 => 1
  | _ => 4

/-- The operation on two element patterns (R340). -/
def redOp (op a b : Nat) : Nat :=
  match op with
  | 1 => (fAdd a b).v
  | 3 => min (a + b) (2 ^ 64 - 1)
  | 5 => if sext 16 a < sext 16 b then b else a
  | 8 => a ||| b
  | 9 => (fMinMax false a b).v
  | 10 => (fMinMax true a b).v
  | _ => max a b

/-- The slice of rank r in a gather of E elements per rank and T in all: first element and number (R348). -/
def gatherSlice (E T r : Nat) : Nat × Nat := (r * E, min ((r + 1) * E) T - r * E)

/-! ### B16 blocks (R343, R344) -/

/-- A block on the wire: FP32 patterns when tagged, else 16-bit codes. -/
structure B16 where
  esc : Bool
  vals : List Nat
  deriving DecidableEq, Repr

/-- A block's bytes: the tag, then its elements. -/
def B16.bytes (b : B16) : List Byte :=
  BitVec.ofNat 8 (b2n b.esc) :: b.vals.flatMap (toBytes (if b.esc then 4 else 2))

/-- Read blocks of a segment with n elements left. -/
def b16Parse : Nat → Nat → List Byte → List B16
  | 0, _, _ => []
  | k + 1, n, bs =>
    match bs with
    | [] => []
    | t :: bs =>
      let m := min 64 n
      let sz := if t == 0 then 2 else 4
      if m == 0 then []
      else { esc := t != 0, vals := elemsOf sz (bs.take (m * sz)) } :: b16Parse k (n - m) (bs.drop (m * sz))

/-- An element of a block as FP32: a code c is c * q, exactly (R344). -/
def b16Val (sig : Nat) (esc : Bool) (v : Nat) : Nat := if esc then v else (fSum (sext 16 v) ((sig : Int) - 127) false 0).v

/-- The exact sum of a node's own value and its children's codes, as a number over 2^k: numerator and k (R344). -/
def b16Sum (sig own : Nat) (codes : List Nat) : Int × Nat × Int :=
  let x := fVal own
  let c := codes.foldl (fun a v => a + sext 16 v) 0
  let qe : Int := sig - 127
  if qe ≤ x.e then (x.num * (2 ^ (x.e - qe).toNat : Nat) + c, 0, qe)
  else (x.num + c * (2 ^ (qe - x.e).toNat : Nat), (qe - x.e).toNat, x.e)

/-- A node's block: codes when no input is tagged, every own value is finite and every code fits; FP32 otherwise (R344,
R346). A block without a scale is FP32 (R343). -/
def b16Node (sig : Nat) (own : List Nat) (kids : List B16) (draw : Nat → Nat) : B16 :=
  let second : B16 := { esc := true, vals := own.zipIdx.map (fun p =>
    kids.foldl (fun a k => (fAdd a (b16Val sig k.esc (k.vals.getD p.2 0))).v) p.1) }
  if sig == 0 || sig == 0xFF then second
  else if kids.any (fun k => k.esc) || own.any (fun v => !fFinite v) then second
  else
    let sums := own.zipIdx.map (fun p => b16Sum sig p.1 (kids.map (fun k => k.vals.getD p.2 0)))
    let codes := sums.zipIdx.map (fun p => stochDiv p.1.1 (2 ^ p.1.2.1) (draw p.2))
    if codes.all (fun c => decide (c.natAbs ≤ 32767)) then { esc := false, vals := codes.map (unsx 16) }
    else { esc := true, vals := sums.map (fun x => (fSum x.1 x.2.2 false 0).v) }

/-- floor(log2) of the magnitude of a finite nonzero FP32 pattern, subnormal ones among them (R347). -/
def fFloorLog (w : Nat) : Int :=
  let m : Nat := w % 2 ^ 31
  if m < 2 ^ 23 then ((Nat.log2 m : Nat) : Int) - 149 else ((m / 2 ^ 23 : Nat) : Int) - 127

/-- The result of a block, for the commit (R346, R347). -/
def b16Res (idx sig : Nat) (b : B16) : BlkRes :=
  let vs := (b.vals.map (b16Val sig b.esc)).filter (fun v => fFinite v && v % 2 ^ 31 != 0)
  { idx := idx, escaped := b.esc && sig != 0 && sig != 0xFF,
    exp := maxI (vs.map fFloorLog) }

/-! ### Segments -/

/-- Scale entry byte of block j of a segment (R343). -/
def State.b16Sig (s : State) (k : Seg) (j : Nat) : Nat := s.ldH (s.grpF k.group 32 8 + 2 * (k.aux + j)) 1

/-- Ranks of the subtree of position p, by depth (R335). -/
def State.subtree (s : State) (g : Nat) : Nat → Nat → List Nat
  | 0, _ => []
  | k + 1, p =>
    let n := (s.liveRanks g).length
    if n ≤ p then []
    else
      let f := s.grpFanin g
      (s.liveRanks g).getD p 0 :: (List.range f).flatMap (fun i => s.subtree g k (f * p + 1 + i))

/-- Ranks of the subtree of a live rank, ascending. -/
def State.subRanks (s : State) (g r : Nat) : List Nat :=
  match (s.liveRanks g).idxOf? r with
  | none => []
  | some p => (s.liveRanks g).filter ((s.subtree g ((s.liveRanks g).length + 1) p).contains)

/-- Elements a subtree of ranks gives a gather. -/
def gatherLen (k : Seg) (rs : List Nat) : Nat := (rs.map (fun r => (gatherSlice k.count k.aux r).2)).foldl (· + ·) 0

/-- Elements of the result of a segment. -/
def State.segTotal (s : State) (k : Seg) : Nat :=
  if k.op == 0x0B then gatherLen k (s.liveRanks k.group) else k.count

/-- This module's contribution to a segment. -/
def State.segOwn (s : State) (k : Seg) : List Byte :=
  match k.io with
  | .places src _ =>
    s.ldBytes src (if k.op == 0x0B then 4 * (gatherSlice k.count k.aux (s.grpSelf k.group)).2 else redSize k.op * k.count)
  | _ => k.own

/-- Elements that a packet's data holds from element elem0 on. -/
def segElems (k : Seg) (elem0 : Nat) (data : List Byte) : Nat :=
  if k.op == 2 then ((b16Parse data.length (k.count - elem0) data).map (fun b => b.vals.length)).foldl (· + ·) 0
  else data.length / redSize k.op

/-- The pieces a child sent for segment i, in element order. -/
def State.segPieces (s : State) (k : Seg) (i r : Nat) : List (Nat × List Byte) :=
  (s.red.inp.filter (fun p => p.group == k.group && p.seg == i && p.rank == r)).foldl
    (fun l p => slSet l p.elem0 p.data) []

/-- Has every element of child r arrived for segment i. -/
def State.segHas (s : State) (k : Seg) (i r : Nat) : Bool :=
  let want := if k.op == 0x0B then gatherLen k (s.subRanks k.group r) else k.count
  decide (want ≤ ((s.segPieces k i r).map (fun p => segElems k p.1 p.2)).foldl (· + ·) 0)

/-- The children whose input is absent. -/
def State.segMissing (s : State) (k : Seg) (i : Nat) : List Nat :=
  (s.treeChildren k.group).filter (fun r => !s.segHas k i r)

/-- Is a segment's result written. -/
def State.segDone (s : State) (k : Seg) : Bool := k.up && decide (s.segTotal k ≤ k.got)

/-- Indices of the unfinished segments the controller may run: at most 16, before the one the list stopped at (R339). -/
def State.segWindow (s : State) : List Nat :=
  let n := match s.red.stop with
    | some i => min i s.red.segs.length
    | none => s.red.segs.length
  ((List.range n).filter (fun i => match s.red.segs[i]? with
    | some k => !s.segDone k
    | none => false)).take 16

/-- Replace segment i. -/
def State.setSeg (s : State) (i : Nat) (k : Seg) : State := { s with red := { s.red with segs := s.red.segs.set i k } }

/-- Packets of a segment's data from element elem0 on: pieces of whole elements, at most 15,360 bytes each; of B16, of
59 blocks (R304, R344). -/
def segCut (op elem0 : Nat) (els : List (List Byte)) : List (Nat × List Byte) :=
  let per := if op == 2 then 59 else 15360 / redSize op
  let m := if op == 2 then 64 else 1
  ((cutN per els.length els).zipIdx).map (fun p => (elem0 + p.2 * per * m, p.1.flatMap id))

/-- Send data of segment i to a rank of its group (R341). -/
def State.segSend (s : State) (k : Seg) (i kind r elem0 : Nat) (data : List Byte) : State :=
  s.sendPkt (s.grpVc k.group) { s.grpPkt k.group r kind data with tensor := i, elem0 := elem0 } none

/-- Count a block's result: `escaped` or `fp32_blocks`, and GRP_B16_ESCAPE once per step (R343, R346). -/
def State.blkCount (s : State) (g sig : Nat) (b : BlkRes) : State :=
  if b.escaped then
    let s := s.satUp F.GRP_RED_ESC_CNT_escaped 0
    if s.red.esc then s else ({ s with red := { s.red with esc := true } }).grpPost 5 g 0
  else if sig == 0 || sig == 0xFF then s.satUp F.GRP_RED_FP32_CNT_fp32_blocks 0
  else s

/-- Write a piece of the result of segment i (R336, R344, R348). -/
def State.segPut (s : State) (i elem0 : Nat) (data : List Byte) : State :=
  match s.red.segs[i]? with
  | none => s
  | some k =>
    let k' := { k with got := k.got + segElems k elem0 data }
    match k.io with
    | .places _ dst =>
      if k.op == 2 then
        let bs := (b16Parse data.length (k.count - elem0) data).zipIdx.map (fun p => (p.1, elem0 / 64 + p.2))
        let rs := bs.map (fun p => (s.b16Sig k p.2, b16Res (k.aux + p.2) (s.b16Sig k p.2) p.1))
        let s' := bs.foldl (fun s p =>
          s.stBytes (dst + 256 * p.2) (p.1.vals.flatMap (fun v => toBytes 4 (b16Val (s.b16Sig k p.2) p.1.esc v)))) s
        let s' := rs.foldl (fun s p => s.blkCount k.group p.1 p.2) s'
        s'.setSeg i { k' with blks := k.blks ++ rs.map (fun p => p.2) }
      else (s.stBytes (dst + redSize k.op * elem0) data).setSeg i k'
    | .sum _ _ dst | .chan _ dst | .check _ _ dst =>
      (s.stBytes (dst + redSize k.op * elem0) data).setSeg i { k' with res := slSet k.res elem0 data }
    | .gate _ => s.setSeg i { k' with res := slSet k.res elem0 data }

/-- The result bytes of a segment whose contribution is no place's. -/
def Seg.resBytes (k : Seg) : List Byte := k.res.flatMap (fun p => p.2)

/-- The result elements of such a segment. -/
def Seg.resElems (k : Seg) : List Nat := elemsOf (redSize k.op) k.resBytes

/-! ### The summaries and check words in the list (R172, R173, R183, R349) -/

/-- The tensors that the governor's layer tables name, ascending. -/
def State.govTensors (s : State) : List Nat :=
  let l := (s.allClus.flatMap (fun c =>
    (List.range (s.get F.GOV_CFG_layers (cluU c))).flatMap (fun i => lay.tensors (s.lay c i)))).eraseDups
  l.foldl (fun a t => (a.filter (· < t)) ++ t :: a.filter (fun x => !(x < t))) []

/-- A tensor's module summary as it is sent: none when it is missing or its merge met two values of hist_base. -/
def State.sumSent (s : State) (t : Nat) : Option (List Byte) :=
  match slFind s.sums t with
  | some r => if r.isEmpty || s.mism.contains t then none else some r
  | none => none

/-- The A8 columns of a tensor, of the first cluster whose scale entry lists them (R151, R152). -/
def State.sumCols (s : State) (t : Nat) : List Nat :=
  ((s.allClus.filterMap (fun c => (s.sclFind c t).map (fun a => (c, s.sclWord a)))).find? (fun p => bit p.2 49)).elim []
    (fun p => (s.a8Cols p.1 p.2).eraseDups)

/-- What this module contributes to a summary segment of operation `op` over n elements from offset `off` of a record of tensor t
(R168, R172, R173): its module summary, the sums widened to 64 bits, hist_base with its complement; without one, `members` 0 and
"none" values. -/
def State.sumOwn (s : State) (op t off n : Nat) : List Nat :=
  let r := s.sumSent t
  let at' := fun (o n dflt : Nat) => match r with
    | some b => recGet b o n
    | none => dflt
  let hb := at' 2 2 0x8000
  if op == 3 then (List.range n).map (fun k => if off + 4 * k == 8 then b2n r.isSome else at' (off + 4 * k) 4 0)
  else if op == 5 then ((if off == 14 then [at' 14 2 0x8000] else [hb, if r.isNone then 0x8000 else 0xFFFF - hb]).take n)
  else if op == 4 then [at' 16 4 0]
  else [at' 12 1 0]

/-- Does a summary segment name a field that its operation reduces (R349): counters, bins and `members`; `max_exp`; `hist_base` and
its complement; `max_mag`; `flags`. -/
def sumField (op off n : Nat) : Bool :=
  match op with
  | 3 => off % 4 == 0 && (off == 8 || decide (20 ≤ off)) && decide (off + 4 * n ≤ 512)
  | 5 => (off == 14 && n == 1) || (off == 2 && decide (n ≤ 2))
  | 4 => off == 16 && n == 1
  | 8 => off == 12 && n == 1
  | _ => false

/-- What a segment record carries, by the place a of its `src` (R349). DESIGN CHOICE (log 106): a record carries a field of a tensor's
summary when its `src` is that field of the tensor's statistics record in a pool, channel ranges when it is the tensor's A8
extension, a check word with its complement when it is `check` of a layer entry; any other record carries what stands at its
place. -/
def State.segRole (s : State) (op n a dst : Nat) : SegIO :=
  let plain : SegIO := .places a dst
  if op == 1 || op == 2 || op == 0x0B || bits a 63 61 != 1 then plain
  else
    let c := placeClu a
    let off := a % 2 ^ 22
    let sta := s.get F.STA_CFG_base (cluU c) * 4096
    let gov := s.get F.GOV_CFG_base (cluU c) * 4096
    if op == 9 || op == 0x0A then
      match (List.range (s.get F.CLU_SCALE_CFG_entries (cluU c))).find? (fun i =>
        let e := s.sclWord (s.sclEnt c i)
        bit e 49 && scl.a8Ptr e % 2 ^ 22 == off) with
      | some i => .chan (bits (s.sclWord (s.sclEnt c i)) 47 32) dst
      | none => plain
    else if sta ≤ off && off < sta + 512 * s.get F.STA_CFG_records (cluU c) && sumField op ((off - sta) % 512) n then
      .sum (s.ld (s.staRec c ((off - sta) / 512)) 2) ((off - sta) % 512) dst
    else if op == 4 && gov ≤ off && off < gov + 64 * s.get F.GOV_CFG_layers (cluU c) && (off - gov) % 64 == 60 && decide (n ≤ 2) then
      .check (cluU c) ((off - gov) / 64) dst
    else plain

/-- The contribution of a segment that carries a summary, channel ranges or a check word (R152, R172, R183). -/
def State.segGiven (s : State) (op n : Nat) : SegIO → List Nat
  | .sum t off _ => s.sumOwn op t off n
  | .chan t _ =>
    let none' := (s.sumSent t).isNone
    ((s.sumCols t).take n).map (fun c =>
      match if none' then none else slFind (s.tensor t).chans c with
      | some p => if op == 9 then p.1 else p.2
      | none => fInf (op == 0x0A))
  | .check c i _ =>
    let w := lay.check (s.lay (cluNo (c / 105) (c % 105)) i)
    [w, 0xFFFFFFFF - w].take n
  | .places _ _ | .gate _ => []

/-- The reduced element at offset `off` of a record of tensor t, of the segment of operation `op` that carries it. -/
def State.sumAt (s : State) (t op off dflt : Nat) : Nat :=
  let w := if op == 5 then 2 else 4
  ((s.red.segs.findSome? (fun k => match k.io with
    | .sum t' o _ => if t' == t && k.op == op && decide (o ≤ off ∧ off < o + w * k.count) then k.resElems[(off - o) / w]? else none
    | _ => none))).getD dflt

/-- The reduced channel ranges of a tensor: minima (op 9) or maxima. -/
def State.chanAt (s : State) (t op : Nat) : List Nat :=
  ((s.red.segs.find? (fun k => k.op == op && (match k.io with
    | .chan t' _ => t' == t
    | _ => false))).map Seg.resElems).getD []

/-- The group summary that every member receives (R172, R173); g: the data-parallel group. A part that no segment of the list carries
is "none". -/
def State.gsumOf (s : State) (g t : Nat) : GroupSum :=
  let lo := s.chanAt t 9
  let hi := s.chanAt t 0x0A
  let base := s.sumAt t 5 2 0x8000
  let me := s.sumAt t 5 14 0x8000
  { members := s.sumAt t 3 8 0, sat := bit (s.sumAt t 8 12 0) 1, base := sext 16 base,
    maxExp := if me == 0x8000 then none else some (sext 16 me), maxMag := s.sumAt t 4 16 0,
    ctrs := recCounters.map (fun o => s.sumAt t 3 o 0), bins := recBins.map (fun o => s.sumAt t 3 o 0),
    chans := ((s.sumCols t).zipIdx.map (fun p => (p.1, (lo.getD p.2 (fInf false), hi.getD p.2 (fInf true))))).filter
      (fun p => p.2.1 != fInf false),
    complete := s.sumAt t 3 8 0 == s.grpN g && 0xFFFF - s.sumAt t 5 4 0x8000 == base }

/-- Do the check words of a layer differ between the members (R183). -/
def Seg.diverged (k : Seg) : Bool :=
  match k.resElems with
  | [w, n] => w != 0xFFFFFFFF - n
  | _ => false

/-- After the list: group summaries are kept, and clusters whose check words differ report GOV_DIVERGED and hold their
tables (R172, R183). -/
def State.listResults (s : State) (g : Nat) : State :=
  let s := s.govTensors.foldl (fun s t => { s with gsums := slSet s.gsums t (s.gsumOf g t) }) s
  let bad := s.red.segs.filterMap (fun k => match k.io with
    | .check c i _ => if k.diverged then some (c, i) else none
    | _ => none)
  let s := bad.foldl (fun s p =>
    let c := cluNo (p.1 / 105) (p.1 % 105)
    (s.govPost c 4 p.2).setClu c { s.clu c with govHold := true }) s
  if bad.isEmpty then s else { s with lap := { s.lap with reasons := s.lap.reasons ||| 4 } }

/-! ### The gate word (R248, R249, R597) -/

/-- Is a segment a gradient segment (R597). -/
def Seg.grad (k : Seg) : Bool :=
  match k.io with
  | .places _ _ => k.op == 1 || k.op == 2
  | _ => false

/-- The FP32 results of a gradient segment from element lo on, n of them. -/
def State.segResult (s : State) (k : Seg) (lo n : Nat) : List Nat :=
  match k.io with
  | .places _ dst => (List.range n).map (fun i => s.ld (dst + 4 * (lo + i)) 4)
  | _ => []

/-- The elements of a segment of P elements that rank r of N owns: the first, and how many (R232, R597). -/
def ownedSlice (P N r : Nat) : Nat × Nat :=
  let S := 96 * ((P + 96 * N - 1) / (96 * N))
  (r * S, min ((r + 1) * S) P - r * S)

/-- The member's sum of squares (R597). -/
def State.norm2 (s : State) : Nat :=
  (s.red.segs.filter Seg.grad).foldl (fun a k =>
    let o := ownedSlice k.count (s.grpN k.group) (s.grpSelf k.group)
    (s.segResult k o.1 o.2).foldl (fun a g => (fFma g g a).v) a) 0

/-- Is any gradient tensor marked on a cluster that counted NaN, infinite or invalid outputs, any reduced gradient not
finite, or the sum of squares not finite (R248). -/
def State.gradBad (s : State) : Bool :=
  s.sums.any (fun p => s.allClus.any (fun c => s.isGrad c p.1) &&
      (recGet p.2 (20 + 4 * ctr.nanOut) 4 != 0 || recGet p.2 (20 + 4 * ctr.infOut) 4 != 0
        || recGet p.2 (20 + 4 * ctr.invalid) 4 != 0))
    || (s.red.segs.filter Seg.grad).any (fun k => (s.segResult k 0 k.count).any (fun v => !fFinite v))
    || !fFinite s.norm2

/-- Does the loss tensor's record count a NaN or infinite output (R248); the spec names no register that holds the
tensor. -/
def State.lossBad (s : State) : Bool :=
  s.allClus.any (fun c => match s.staFind c (Config.lossTensor % 65536) with
    | some a => s.ld (a + 20 + 4 * ctr.nanOut) 4 != 0 || s.ld (a + 20 + 4 * ctr.infOut) 4 != 0
    | none => false)

/-- The configuration words of the lap (R249). -/
def State.cfgWord (s : State) : List Byte :=
  toBytes 8 s.lap.lam ++ toBytes 8 s.lap.pi ++ [s.lap.policyW, s.lap.lossScale, s.lap.clip, s.lap.tail].flatMap (toBytes 4)

/-- This member's gate word of the first step (R249). A member that joined under the new epoch votes EPOCH alone: beside the time of
its vote its other fields are 0 (R251, log 107). -/
def State.gateWord (s : State) : List Byte :=
  let cfg := s.cfgWord
  if s.lap.joined then [8, 0, 0, 0] ++ toBytes 4 0 ++ toBytes 8 s.ns ++ List.replicate 64 0
  else toBytes 1 s.lap.reasons ++ [0, 0, 0] ++ toBytes 4 s.norm2 ++ toBytes 8 s.ns ++ cfg ++ cfg.map (fun b => ~~~b)

/-- A gate word as the segments of a step in group g, each field with its reduction (R249). -/
def gateSegs (g : Nat) (w : List Byte) : List Seg :=
  let f := fun (op n field lo len : Nat) =>
    ({ op := op, group := g, count := n, io := .gate field, own := (w.drop lo).take len } : Seg)
  [f 8 1 0 0 1, f 1 1 1 4 4, f 6 1 2 8 8, f 7 2 3 16 64]

/-- The reduced gate word. -/
def State.gateResult (s : State) : List Byte :=
  let f := fun (i : Nat) => ((s.red.segs.find? (fun k => k.io == .gate i)).map Seg.resBytes).getD []
  f 0 ++ [0, 0, 0] ++ f 1 ++ f 2 ++ f 3

/-- A gate step whose segments begin at index n does not run while its group is not valid (R339). -/
def State.gateStop (s : State) (g n : Nat) : State :=
  if s.grpValid g then { s with red := { s.red with stop := none } }
  else ({ s with red := { s.red with stop := some n } }).grpPost 6 g 0

/-- The member votes: the first gate step begins in the data-parallel group (R249). -/
def State.gateOne (s : State) : State :=
  match s.gates with
  | none => ({ s with red := { s.red with phase := 0 } }).put F.GRP_RED_STATE_running 0 0
  | some (g, _) =>
    if s.mbr.noVote.contains g then s else
    let s := if s.lap.joined then s
      else { s with lap := { s.lap with reasons := s.lap.reasons ||| b2n s.lossBad ||| 2 * b2n s.gradBad } }
    ({ s with red := { s.red with phase := 2, segs := s.red.segs ++ gateSegs g s.gateWord } }).gateStop g s.red.segs.length

/-- The second gate step begins in the pipeline group: the result of the first, with the reasons found since (R249,
R251). -/
def State.gateTwo (s : State) : State :=
  match s.gates with
  | none => s
  | some (_, g) =>
    if s.mbr.noVote.contains g then s else
    let w := toBytes 1 (leNat (s.lap.gate1.take 1) ||| s.lap.reasons) ++ s.lap.gate1.drop 1
    ({ s with
      lap := { s.lap with step := 5, voted := true }
      red := { s.red with phase := 3, segs := gateSegs g w, late := false } }).gateStop g 0

/-! ### The running step -/

/-- The member is at its gate hurdle, with the first gate step done: it votes (R251). -/
def State.gateCheck (s : State) : State :=
  if (s.lap.joined || s.allClus.all (fun c => (s.clu c).atGate)) && !s.lap.gate1.isEmpty && !s.lap.voted && s.red.phase == 0 then s.gateTwo else s

/-- What follows when every segment of the step is finished: after the list the first gate step; after that the
hurdle's end, and the second step when every cluster waits at the gate; after the second the verdict (R249, R251). -/
def State.redNext (s : State) : State :=
  let open' := s.segWindow
  let s := s.put F.GRP_RED_STATE_seg 0 (open'.headD (s.red.stop.getD s.red.segs.length))
  if s.red.phase == 0 || !open'.isEmpty || s.red.stop.isSome then s
  else match s.red.phase with
    | 1 => (s.listResults ((s.gates.map (fun p => p.1)).getD 0)).gateOne
    | 2 =>
      let s := { s with lap := { s.lap with gate1 := s.gateResult },
                        red := { s.red with phase := 0, b16 := s.red.segs.filter (fun (k : Seg) => k.op == 2) } }
      (s.put F.GRP_RED_STATE_running 0 0).gateCheck
    | _ =>
      { s with lap := { s.lap with gate2 := s.gateResult }, red := { s.red with phase := 0 } }

/-- The reduction node of group g on HB0 as it waits for an input of segment i: the waiter code of R493, with the segment above it
(a node may wait for several segments at once). -/
def redWaiter (g i : Nat) : Nat := i * 2 ^ 32 + 3 * 2 ^ 28 + 17 * 2 ^ 23 + g

/-- The waits of the running step's segments end without the input: of group g, or of all (R337). -/
def State.redWaitsEnd (s : State) (g : Option Nat) : State :=
  s.red.segs.zipIdx.foldl (fun s p =>
    if g.all (· == p.1.group) then s.waitClose (redWaiter p.1.group p.2) true else s) s

/-- The result of segment i at the root, or on its way down: written here, passed to every child (R336, R348). -/
def State.segDown (s : State) (i elem0 : Nat) (data : List Byte) : State :=
  match s.red.segs[i]? with
  | none => s
  | some k =>
    let s := s.segPut i elem0 data
    (s.treeChildren k.group).foldl (fun s r => s.segSend k i (if k.op == 0x0B then 5 else 3) r elem0 data) s

/-- The pieces a node forms of segment i from its own contribution and its children's (R336, R344, R348). -/
def State.segForm (s : State) (k : Seg) (i : Nat) : List (Nat × List Byte) :=
  let kids := s.treeChildren k.group
  let own := s.segOwn k
  if k.op == 0x0B then
    let o := gatherSlice k.count k.aux (s.grpSelf k.group)
    (segCut k.op o.1 (cutN 4 own.length own) ++ kids.flatMap (s.segPieces k i)).foldl
      (fun l p => slSet l p.1 p.2) []
  else if k.op == 2 then
    let kb := kids.map (fun r => b16Parse (300 * k.count) k.count ((s.segPieces k i r).flatMap (fun p => p.2)))
    let key := lapKey s.lap.seed s.lap.lam
    let blks := (cutN 64 k.count (elemsOf 4 own)).zipIdx.map (fun p =>
      b16Node (s.b16Sig k p.2) p.1 (kb.map (fun l => l.getD p.2 { esc := false, vals := [] })) (fun e =>
        streamDraw key (0x300000 + s.grpSelf k.group) (k.group * 2 ^ 56 + (k.b16 + 64 * p.2 + e)) / 2 ^ 16))
    segCut 2 0 (blks.map B16.bytes)
  else
    let sz := redSize k.op
    let ins := kids.map (fun r => elemsOf sz ((s.segPieces k i r).flatMap (fun p => p.2)))
    let els := (elemsOf sz own).zipIdx.map (fun p => ins.foldl (fun a l => redOp k.op a (l.getD p.2 0)) p.1)
    segCut k.op 0 (els.map (toBytes sz))

/-- Does forming a U64_SUM segment saturate an element (R340). -/
def State.segSat (s : State) (k : Seg) (i : Nat) : Bool :=
  k.op == 3 &&
    (let ins := (s.treeChildren k.group).map (fun r => elemsOf 8 ((s.segPieces k i r).flatMap (fun p => p.2)))
     (elemsOf 8 (s.segOwn k)).zipIdx.any (fun p => decide (2 ^ 64 ≤ ins.foldl (fun a l => a + l.getD p.2 0) p.1)))

/-- Combine segment i when every input is present, else wait for the first absent child (R336, R337). -/
def State.segCombine (s : State) (i : Nat) : State :=
  match s.red.segs[i]? with
  | none => s
  | some k =>
    if k.up then s
    else match s.segMissing k i with
      | r :: _ => s.waitOpen (redWaiter k.group i) 0x0A i (mem.bib (s.grpMember k.group r))
      | [] =>
        let out := s.segForm k i
        let s := if s.segSat k i then s.grpPost 7 k.group 0 else s
        let s := s.setSeg i { k with up := true }
        let s := { s with red := { s.red with inp := s.red.inp.filter (fun p => !(p.group == k.group && p.seg == i)) } }
        let s := s.waitClose (redWaiter k.group i) false
        let s := match s.treeParent k.group with
          | some r => out.foldl (fun (s : State) (p : Nat × List Byte) => s.segSend k i (if k.op == 0x0B then 4 else 2) r p.1 p.2) s
          | none => out.foldl (fun (s : State) (p : Nat × List Byte) => s.segDown i p.1 p.2) s
        s.redNext

/-- SEGMENT_COMBINE: the k-th unfinished segment of the running step is combined (R336, R337, R339). -/
def execSegmentCombine (k : Fin 16) (s : State) : Host.Outcome State Fault Refusal :=
  .next (if s.live && s.red.phase != 0 then
    match s.segWindow[k.val]? with
    | some i => s.segCombine i
    | none => s
  else s)

/-- REDUCTION_LATE: a wait for a child's input has exceeded `wait_us`; reported once per step (R337). -/
def execReductionLate (k : Fin 16) (input : Nat) (s : State) : Host.Outcome State Fault Refusal :=
  .next (match s.segWindow[k.val]? with
    | none => s
    | some i =>
      match s.red.segs[i]? with
      | none => s
      | some q =>
        if s.live && s.red.phase != 0 && !s.red.late && s.grpF q.group 44 4 != 0 && (s.segMissing q i).contains input then
          ({ s with red := { s.red with late := true } }).grpPost 4 q.group (mem.bib (s.grpMember q.group input))
        else s)

/-! ### The step list (R339) -/

/-- HBM address of the step list. -/
def State.listAt (s : State) : Nat := s.lap.list

/-- Resolve an extent that may be empty. -/
def State.resolveExt (s : State) (p ext : Nat) : Option Nat :=
  if placeReserved p then none
  else match s.resolve p ext with
    | .ok a => some a
    | .error _ => none

/-- Bytes that a segment reads at its `src` (R339): of a summary the fields of the record. -/
def segReads (op n aux self : Nat) : SegIO → Nat
  | .sum _ _ _ => (if op == 3 then 4 else redSize op) * n
  | .places _ _ => if op == 0x0B then 4 * (gatherSlice n aux self).2 else redSize op * n
  | .chan _ _ | .check _ _ _ | .gate _ => 4

/-- Read record i of the list as a segment; none when it is not run (R339). -/
def State.segRead (s : State) (i b16 : Nat) : Option Seg :=
  let r := s.ldH (s.listAt + 32 * i) 32
  let op := bits r 7 0
  let g := bits r 15 8
  let n := bits r 63 32
  let aux := bits r 223 192
  let wr := if op == 0x0B then 4 * aux else redSize op * n
  if op == 0 || 11 < op || bits r 23 17 != 0 || bits r 31 24 != 0 || bits r 255 224 != 0
      || (op != 2 && op != 0x0B && aux != 0) || !s.grpValid g || (op == 2 && s.grpF g 32 8 == 0)
      || (i == 65535 && !bit r 16) then none
  else match s.resolveExt (bits r 127 64) 0, s.resolveExt (bits r 191 128) wr with
    | some a, some b =>
      let io := s.segRole op n a b
      let rd := segReads op n aux (s.grpSelf g) io
      if (s.resolveExt (bits r 127 64) rd).isNone || (decide (0 < rd ∧ 0 < wr) && decide (a < b + wr) && decide (b < a + rd)) then none
      else some { op := op, group := g, count := n, aux := aux, io := io, b16 := b16
                  own := (s.segGiven op n io).flatMap (toBytes (redSize op)) }
    | _, _ => none

/-- Read the list from record i on, at most n records: its segments, and the record it stops before. -/
def State.listRead (s : State) : Nat → Nat → Nat → List Seg × Option Nat
  | 0, _, _ => ([], none)
  | n + 1, i, b16 =>
    match s.segRead i b16 with
    | none => ([], some i)
    | some k =>
      if bit (s.ldH (s.listAt + 32 * i + 2) 1) 0 then ([k], none)
      else
        let r := s.listRead n (i + 1) (if k.op == 2 then b16 + k.count else b16)
        (k :: r.1, r.2)

/-- The group of record i of the list. -/
def State.recGroup (s : State) (i : Nat) : Nat := s.ldH (s.listAt + 32 * i + 1) 1

/-- Start the step list: its records, those of the summaries and check words among them (R339, R349). Segments of other groups
than g keep what they have, when the step restarts (R338). -/
def State.listStart (s : State) (keep : Option Nat) : State :=
  let l := s.listRead 65536 0 0
  let old := s.red.segs
  let segs := match keep with
    | none => l.1
    | some g => l.1.zipIdx.map (fun p => match old[p.2]? with
      | some k => if k.group != g && k.group == p.1.group && k.io == p.1.io then k else p.1
      | none => p.1)
  let s := { s with red := { s.red with phase := 1, segs := segs, stop := l.2, late := false, esc := false } }
  let s := match l.2 with
    | some i => s.grpPost 6 (s.recGroup i) 0
    | none => s
  (s.put F.GRP_RED_STATE_running 0 1).redNext

/-- The gate limit ends the list: what it has not finished is left, with the inputs that have come for it, and the member votes (R251,
R337, R339). -/
def State.listCut (s : State) : State :=
  let s := if s.red.phase == 0 then s.listStart none else s
  if s.red.phase != 1 then s
  else
    let s := s.redWaitsEnd none
    let segs := s.red.segs.map (fun k => { k with up := true, got := max k.got (s.segTotal k) })
    let inp := s.red.inp.filter (fun p => decide (segs.length ≤ p.seg))
    ({ s with red := { s.red with segs := segs, stop := none, inp := inp } }).gateOne

/-- A module that runs no lap and has joined the data-parallel group under its new epoch takes part in the lap's step list and gate,
with the list its registers name (R251, R339, log 107). -/
def State.joinList (s : State) : State :=
  ({ s with lap := { s.lap with
      step := 4, joined := true, reasons := 8, voted := false, gate1 := [], gate2 := []
      list := s.get F.GRP_RED_STEP_HI_list_hi 0 * 2 ^ 32 + s.get F.GRP_RED_STEP_LO_list 0 * 32 } }).listStart none

/-- A module that has joined the pipeline group while its second gate step restarts votes EPOCH alone in it (R251). -/
def State.joinVote (s : State) : State :=
  let s := { s with lap := { s.lap with joined := true, reasons := 8, voted := false, gate2 := [] }, red := { s.red with phase := 0, segs := [] } }
  ({ s with lap := { s.lap with gate1 := s.gateWord } }).gateTwo

/-- A module has joined a gate group under its new epoch (R251). Whether the peers of its data-parallel group have ended the first gate
step already does not show here: a free value (log 107). Where they have, it votes in the pipeline group at once; else it comes there
with the result of the first step. -/
def State.joinLap (s : State) (g : Nat) : State :=
  match s.gates with
  | none => s
  | some (p, q) =>
    if g == p && s.lap.step == 0 && s.red.phase == 0 then s.joinList
    else if g == q && (s.lap.step == 0 || (s.lap.joined && s.lap.gate1.isEmpty)) then
      let t := { s with freeCtr := s.freeCtr + 1 }
      if Config.free s.freeCtr % 2 == 1 then t.joinVote else t
    else s

/-- Has the backward pass of every heat of the lap completed on the module (R247): every cluster has run as many
backward heats as forward ones to their end, or has left the lap. -/
def State.backwardDone (s : State) : Bool :=
  s.allClus.all (fun c => ((s.clu c).fwd == (s.clu c).bwd && !s.cluBusy c && !(s.clu c).late) || (s.clu c).abandoned)

/-- REDUCTION_HURDLE: after the last backward heat the controller runs the step list (R247, R339). -/
def execReductionHurdle (s : State) : Host.Outcome State Fault Refusal :=
  .next (if s.live && (s.lap.step == 3 || (decide (s.lap.step == 1 ∨ s.lap.step == 2) && s.allClus.all (fun c => (s.clu c).abandoned)))
      && s.red.phase == 0 && s.backwardDone then
    ({ s with lap := { s.lap with step := 4 } }).listStart none
  else s)

/-! ### Packets of a step (R341) -/

/-- Is an input for a segment of the running step that is combined or given up (R337). -/
def State.segOver (s : State) (p : Pkt) : Bool :=
  s.red.phase != 0 && (match s.red.segs[p.tensor]? with
    | some k => k.group == p.group && k.up
    | none => false)

/-- Keep an up packet's data as an input of its segment; the last absent one ends the node's wait, whose record names its sender
(R337, R491). An input for a segment that the gate limit has ended comes to nothing. -/
def State.segInput (s : State) (p : Pkt) : State :=
  if s.segOver p then s
  else
  let s := { s with red := { s.red with inp := s.red.inp ++
      [{ group := p.group, seg := p.tensor, rank := p.srcRank, elem0 := p.elem0, data := p.data.take p.len }] } }
  let w := redWaiter p.group p.tensor
  match s.red.segs[p.tensor]?, slFind s.waits w with
  | some k, some x =>
    if k.group == p.group && (s.segMissing k p.tensor).isEmpty then
      ({ s with waits := slSet s.waits w { x with bib := p.srcBib } }).waitClose w false
    else s
  | _, _ => s

/-- REDUCE_UP: a subtree sum arrives from a child (R336, R341). -/
def execReduceUp (l : Link) (vc : Fin 4) (s : State) : Host.Outcome State Fault Refusal :=
  .next (s.onPacket l vc (· == 2) State.segInput)

/-- GATHER_UP: rank slices arrive from a child (R348). -/
def execGatherUp (l : Link) (vc : Fin 4) (s : State) : Host.Outcome State Fault Refusal :=
  .next (s.onPacket l vc (· == 4) State.segInput)

/-- A piece of a result from the parent: written and passed on; data for no combined segment of the group is dropped. -/
def State.segResultIn (s : State) (p : Pkt) : State :=
  match s.red.segs[p.tensor]? with
  | none => s
  | some k =>
    if s.red.phase == 0 || k.group != p.group || !k.up || s.segDone k then s
    else (s.segDown p.tensor p.elem0 (p.data.take p.len)).redNext

/-- RESULT_DOWN: a result arrives from the parent and is written and passed on (R336, R341). -/
def execResultDown (l : Link) (vc : Fin 4) (s : State) : Host.Outcome State Fault Refusal :=
  .next (s.onPacket l vc (· == 3) State.segResultIn)

/-- GATHER_DOWN: the gathered result arrives from the parent and is written (R348). -/
def execGatherDown (l : Link) (vc : Fin 4) (s : State) : Host.Outcome State Fault Refusal :=
  .next (s.onPacket l vc (· == 5) State.segResultIn)

/-! ### The advance (R333, R338) -/

/-- The segments of the step with those of group g in the list read again (R338). -/
def State.segsAgain (s : State) (g : Nat) : List Seg :=
  s.red.segs.zipIdx.map (fun p =>
    if p.1.group == g then
      match s.segRead p.2 p.1.b16 with
      | some k => if k.group == g then k else p.1
      | none => p.1
    else p.1)

/-- Restart the running step when it holds a segment of group g: partial values and received inputs are discarded
(R338). While the first gate step runs, the segments of another group in the list run again beside it, and the gate step keeps what it
has (R351); after the gate limit nothing of the list runs again. -/
def State.redRestart (s : State) (g : Nat) : State :=
  let s := { s with red := { s.red with inp := s.red.inp.filter (fun p => p.group != g) } }
  let inStep := s.red.segs.any (fun k => k.group == g)
    || (match s.red.stop with
        | some i => s.red.phase == 1 && s.recGroup i == g
        | none => false)
  let beside := s.red.phase == 2 && s.gates.map (fun p => p.1) != some g
  if s.red.phase == 0 || !inStep || (beside && bit s.lap.reasons 5) then s
  else
    let s := ((s.redWaitsEnd (some g)).satUp F.GRP_RED_STATE_restarts 0).grpPost 8 g 0
    if s.red.phase == 3 then s.gateTwo
    else if beside then ({ s with red := { s.red with segs := s.segsAgain g } }).redNext
    else
      let s := s.listStart (some g)
      if bit s.lap.reasons 5 then s.listCut else s

/-- A link's queue without the packets of group g that this module built and has not begun to send; `part`: the channels within a
packet of this module's own. -/
def dropGroup (g : Nat) : List Nat → List TxFlit → List TxFlit
  | _, [] => []
  | part, f :: r =>
    if f.src.isSome then f :: dropGroup g part r
    else if part.contains f.vc then f :: dropGroup g (if f.tail then part.filter (· != f.vc) else part) r
    else if f.group == some g then dropGroup g part r
    else f :: dropGroup g part r

/-- Drop the packets of group g that were built here and not sent (R333). -/
def State.dropUnsent (s : State) (g : Nat) : State :=
  { s with links := s.links.map (fun p =>
      (p.1, { p.2 with queue := dropGroup g ((p.2.busy.filter (fun b => b.2.isNone)).map (fun b => b.1)) p.2.queue })) }

/-- Adopt the next epoch and member array of group g (R333); a gate group's advance gives the lap reason EPOCH (R248). -/
def State.grpAdopt (s : State) (g : Nat) : State :=
  let s := s.setGrpF g 0 4 (s.grpF g 4 4)
  let s := s.setGrpF g 16 8 (s.grpF g 24 8)
  let s := s.setGrpF g 15 1 (setBits (s.grpF g 15 1) 1 1 0)
  let s := s.dropUnsent g
  let gate := match s.gates with
    | some p => p.1 == g || p.2 == g
    | none => false
  let s := if gate && s.lap.step != 0 then { s with lap := { s.lap with reasons := s.lap.reasons ||| 8 } } else s
  (s.redRestart g).unparkAll

/-- Advance group g, or refuse with GRP_EPOCH_REFUSED (R333). -/
def State.advance (s : State) (g : Nat) : State :=
  let fl := s.grpF g 15 1
  let next := s.grpF g 4 4
  if bit fl 1 && decide (s.grpEpoch g < next) && next != 0xFFFFFFFF && s.grpOk g (s.grpF g 24 8) then s.grpAdopt g
  else (s.setGrpF g 15 1 (setBits fl 1 1 0)).grpPost 2 g 0

/-- A group's `valid` became 0 while its segments run: the list stops at its oldest unfinished one (R339). -/
def State.redInvalid (s : State) (g : Nat) : State :=
  match (s.red.segs.zipIdx.find? (fun p => p.1.group == g && !s.segDone p.1)) with
  | some p => if s.red.phase == 0 then s
    else ({ s with red := { s.red with stop := some (min p.2 (s.red.stop.getD p.2)) } }).grpPost 6 g 0
  | none => s

end Sys2Proof.Machine
end

