-- ==== Sys2Proof/Machine/Member.lean ====
section
/-!
DEFINITION. Group membership: beats, suspicion, probes and decrees (R367 to R371).
-/

namespace Sys2Proof.Machine

/-! ### Route book and membership packets (R370, R371) -/

/-- HBM address of the route book. -/
def State.bookAt (s : State) : Nat :=
  s.get F.GRP_MBR_BOOK_HI_base_hi 0 * 2 ^ 32 + s.get F.GRP_MBR_BOOK_LO_base 0 * 16

/-- The entries of the route book, as numbers of 16 bytes. -/
def State.book (s : State) : List Nat :=
  (List.range (s.get F.GRP_MBR_BOOK_HI_entries_m1 0 + 1)).map (fun i => s.ldH (s.bookAt + 16 * i) 16)

/-- The entry of a bib in the route book. -/
def State.bookFind (s : State) (bib : Nat) : Option Nat := s.book.find? (fun e => mem.bib e == bib)

/-- The membership virtual channel. -/
def State.mvc (s : State) : Nat := s.get F.GRP_MBR_CFG_mvc 0

/-- The state a beat carries (R322, R371). -/
def State.beatState (s : State) : Nat :=
  if s.flt.degraded then 1 else if s.get F.PWR_STATE_state 0 == 3 then 2 else 0

/-- Send a membership packet to rank r of group g by its member entry. -/
def State.mbrSend (s : State) (g r kind : Nat) (data : List Byte) : State :=
  s.sendPkt s.mvc (s.grpPkt g r kind data) none

/-- Send a packet of group g to a bib by the route book (R370). -/
def State.bookSend (s : State) (vc g r bib kind : Nat) (data : List Byte) (elem0 : Nat) : State :=
  match s.bookFind bib with
  | none => s
  | some e => s.sendPkt vc { s.grpPkt g r kind data with hops := mem.rlen e, route := mem.route e, elem0 := elem0 } none

/-- Are the head fields that a membership packet leaves unused 0 (R371). -/
def Pkt.plainHead (p : Pkt) : Bool :=
  p.tensor == 0 && p.dstOff == 0 && p.rowBase == 0 && p.colBase == 0 && p.colsM1 == 0 && p.window == 0 && p.flags == 0

/-- Act on the oldest packet of a channel when it is of membership kind k: reserved values, then the route book, then the
group (R371); a decree is taken whatever the group entry holds (R368). -/
def State.onMember (s : State) (l vc k : Nat) (ok : Pkt → Bool) (act : State → Pkt → State) : State :=
  match s.packetAt l vc with
  | none => s
  | some b =>
    let p := Pkt.ofBytes b
    if !s.live || p.kind != k then s
    else
      let s := s.packetTake l vc
      if Pkt.reservedSet b || !p.plainHead || (k != 0x14 && p.elem0 != 0) || !ok p || (s.bookFind p.srcBib).isNone
          || (k != 0x14 && !s.grpValid p.group) then
        s.grpForeign p.group p.srcBib
      else act s p

/-- Bytes lo to lo + n - 1 of a payload as a number. -/
def Pkt.f (p : Pkt) (lo n : Nat) : Nat := leNat ((p.data.drop lo).take n)

/-- Key of a rank of a group in the controller's tables. -/
def mbrKey (g r : Nat) : Nat := g * 65536 + r

/-- What is known of a neighbour. -/
def State.nbr (s : State) (g r : Nat) : Nbr := slGet {} s.mbr.nbrs (mbrKey g r)

/-- Replace what is known of a neighbour. -/
def State.setNbr (s : State) (g r : Nat) (x : Nbr) : State :=
  { s with mbr := { s.mbr with nbrs := slSet s.mbr.nbrs (mbrKey g r) x } }

/-- Tree parent and children of this module in group g. -/
def State.neighbours (s : State) (g : Nat) : List Nat :=
  match s.treeParent g with
  | some p => p :: s.treeChildren g
  | none => s.treeChildren g

/-- Payload of a beat (R371). -/
def State.beatData (s : State) (st : Nat) : List Byte :=
  toBytes 1 st ++ [0, 0, 0] ++ toBytes 4 s.lap.lam ++ toBytes 8 s.ns

/-- Send a beat with a state to every neighbour in group g (R367). -/
def State.beatAll (s : State) (g st : Nat) : State :=
  (s.neighbours g).foldl (fun s r => s.mbrSend g r 0x10 (s.beatData st)) s

/-- BEAT_SEND: at site times that are whole multiples of `beat_us` a member sends a beat to its tree neighbours (R367). -/
def execBeatSend (g : Group) (s : State) : Host.Outcome State Fault Refusal :=
  .next (if s.live && s.grpValid g && s.atMultiple (s.get F.GRP_MBR_CFG_beat_us 0) then s.beatAll g s.beatState else s)

/-! ### Suspicion and probes (R367) -/

/-- The rank that judges a suspicion about rank r of group g: the anchor, or tree position 1 when r is the anchor. -/
def State.judgeOf (s : State) (g r : Nat) : Nat :=
  if s.anchor g == r then (s.liveRanks g).getD 1 r else s.anchor g

/-- A probe of rank r goes out: attempt 1 or 2. -/
def State.probeSend (s : State) (g r attempt : Nat) : State :=
  let n := (s.mbr.probeNo + 1) % 2 ^ 32
  let s := { s with mbr := { s.mbr with probeNo := n, probes := slSet s.mbr.probes (mbrKey g r) (n, attempt) } }
  s.mbrSend g r 0x12 (toBytes 4 n ++ toBytes 1 attempt ++ [0, 0, 0] ++ toBytes 8 s.ns)

/-- The judge takes up a suspicion: it probes a rank that is live, not under probe and not yet confirmed. -/
def State.suspectAct (s : State) (g r : Nat) : State :=
  if (slFind s.mbr.probes (mbrKey g r)).isSome || s.mbr.confirmed.contains (mbrKey g r)
      || !(s.liveRanks g).contains r || r == s.grpSelf g then s
  else s.probeSend g r 1

/-- A suspicion about rank r goes to the rank that judges it. -/
def State.suspectSend (s : State) (g r : Nat) : State :=
  let x := s.nbr g r
  let j := s.judgeOf g r
  if j == s.grpSelf g then s.suspectAct g r
  else s.mbrSend g j 0x11
    (toBytes 2 r ++ toBytes 3 (mem.bib (s.grpMember g r)) ++ toBytes 1 (min 255 x.missed) ++ [0, 0] ++ toBytes 8 x.last)

/-- A failure is confirmed and collected for the decree (R367). -/
def State.confirm (s : State) (g r : Nat) : State :=
  let k := mbrKey g r
  let s := { s with mbr := { s.mbr with probes := slDel s.mbr.probes k } }
  if s.mbr.confirmed.contains k then s else { s with mbr := { s.mbr with confirmed := s.mbr.confirmed ++ [k] } }

/-- BEAT_MISS: a tree neighbour missed 3 beats in a row, or one more (R367); a suspended count waits (R435). -/
def execBeatMiss (g : Group) (nb : Nat) (s : State) : Host.Outcome State Fault Refusal :=
  let x := s.nbr g nb
  .next (if s.live && s.grpValid g && (s.neighbours g).contains nb && decide (x.suspended ≤ s.ns) then
    let s := s.setNbr g nb { x with missed := if x.missed < 3 then 3 else min 255 (x.missed + 1) }
    (s.suspectSend g nb).grpPost 9 g (mem.bib (s.grpMember g nb))
  else s)

/-- A beat's payload has a state of R371 and zero reserved bytes. -/
def beatOk (p : Pkt) : Bool := decide (p.f 0 1 ≤ 2) && p.f 1 3 == 0

/-- A beat from a neighbour: its count starts again, or is suspended for 100 ms; state 1 confirms the failure, at the
judge itself or through a suspicion (R367, R371, R435). -/
def State.beatIn (s : State) (p : Pkt) : State :=
  let g := p.group
  let r := p.srcRank
  let s := s.setNbr g r { last := s.ns, suspended := if p.f 0 1 == 2 then s.ns + 100000000 else 0 }
  if p.f 0 1 != 1 then s
  else if s.judgeOf g r == s.grpSelf g then s.confirm g r
  else s.suspectSend g r

/-- BEAT: a received beat (R367, R371). -/
def execBeat (l : Link) (vc : Fin 4) (s : State) : Host.Outcome State Fault Refusal :=
  .next (s.onMember l vc 0x10 beatOk State.beatIn)

/-- SUSPECT: the rank that judges probes the suspect (R367). -/
def execSuspect (l : Link) (vc : Fin 4) (s : State) : Host.Outcome State Fault Refusal :=
  .next (s.onMember l vc 0x11 (fun p => p.f 6 2 == 0) (fun s p =>
    if s.judgeOf p.group (p.f 0 2) == s.grpSelf p.group
        && mem.bib (s.grpMember p.group (p.f 0 2)) == p.f 2 3 then s.suspectAct p.group (p.f 0 2) else s))

/-- PROBE: a probed member replies with its state (R367). -/
def execProbe (l : Link) (vc : Fin 4) (s : State) : Host.Outcome State Fault Refusal :=
  .next (s.onMember l vc 0x12 (fun p => p.f 5 3 == 0 && (p.f 4 1 == 1 || p.f 4 1 == 2)) (fun s p =>
    s.mbrSend p.group p.srcRank 0x13 (toBytes 4 (p.f 0 4) ++ toBytes 1 s.beatState ++ [0, 0, 0] ++ toBytes 8 s.ns)))

/-- PROBE_REPLY: a reply clears the suspicion; one with state 1 confirms the failure (R366, R367). -/
def execProbeReply (l : Link) (vc : Fin 4) (s : State) : Host.Outcome State Fault Refusal :=
  .next (s.onMember l vc 0x13 (fun p => decide (p.f 4 1 ≤ 2) && p.f 5 3 == 0) (fun s p =>
    let k := mbrKey p.group p.srcRank
    match slFind s.mbr.probes k with
    | none => s
    | some q =>
      if q.1 != p.f 0 4 then s
      else if p.f 4 1 == 1 then s.confirm p.group p.srcRank
      else { s with mbr := { s.mbr with probes := slDel s.mbr.probes k } }))

/-- PROBE_TIMEOUT: an unanswered probe is repeated once, then confirms the failure (R367). -/
def execProbeTimeout (g : Group) (rank : Nat) (s : State) : Host.Outcome State Fault Refusal :=
  .next (if s.live then
    match slFind s.mbr.probes (mbrKey g rank) with
    | none => s
    | some q => if q.2 == 1 then s.probeSend g rank 2 else s.confirm g rank
  else s)

/-! ### Decrees (R367, R368) -/

/-- The member entry of rank r under a decree: changed ranks as decreed, others as they are, with routes of the route
book; the own rank has none (R329, R368). -/
def State.newEntry (s : State) (d : Decree) (self r : Nat) : Nat :=
  let old := s.grpMember d.group r
  let hole := 2 ^ 24
  let live := fun (bib : Nat) =>
    if r == self then bib
    else match s.bookFind bib with
      | some e => bib + mem.rlen e * 2 ^ 32 + mem.route e * 2 ^ 48
      | none => old
  match (d.ents.find? (fun p => p.1 == r)).map (fun p => p.2) with
  | some (some b) => live b
  | some none => hole
  | none => if mem.hole old then old else live (mem.bib old)

/-- Write the new member array at next_ptr and advance the group under the decree's epoch (R333, R368). -/
def State.decreeAdopt (s : State) (d : Decree) (self : Nat) : State :=
  let g := d.group
  let ents := (List.range (s.grpN g)).map (s.newEntry d self)
  let s := s.stBytes (s.grpF g 24 8 % 2 ^ 41) (ents.flatMap (toBytes 16))
  let s := s.setGrpF g 4 4 d.epoch
  let s := s.setGrpF g 15 1 (s.grpF g 15 1 ||| 2)
  let s := { s with mbr := { s.mbr with
    adopted := slSet s.mbr.adopted g d, refused := slDel s.mbr.refused g, noVote := s.mbr.noVote.filter (· != g),
    confirmed := s.mbr.confirmed.filter (fun k => k / 65536 != g),
    probes := s.mbr.probes.filter (fun p => p.1 / 65536 != g), nbrs := s.mbr.nbrs.filter (fun p => p.1 / 65536 != g) } }
  let s := s.advance g
  if s.grpEpoch g == d.epoch then s.grpPost 0x0A g 0 else s

/-- The fills a decree names: ranks of the data-parallel gate group that got a new member (R400, R403). -/
def State.decreeFills (s : State) (d : Decree) : List FillRec :=
  match s.gates with
  | some (g, _) =>
    if g != d.group then []
    else d.ents.filterMap (fun p => p.2.map (fun b =>
      { rank := p.1, epoch := d.epoch, failed := mem.bib (s.grpMember g p.1), spare := b }))
  | none => []

/-- A decree names a module that the route book lacks: no advance, and the decree stays the first of its epoch (R368). -/
def State.decreeRefuse (s : State) (d : Decree) : State :=
  ({ s with mbr := { s.mbr with refused := slSet s.mbr.refused d.group d } }).grpPost 0x0C d.group 0

/-- Is a decree a second, different one for the epoch of one that came before it, adopted or refused (R368). -/
def State.decreeSecond (s : State) (d : Decree) : Bool :=
  [slFind s.mbr.adopted d.group, slFind s.mbr.refused d.group].any (fun x => match x with
    | some a => a.epoch == d.epoch && a.ents != d.ents
    | none => false)

/-- Act on a whole decree from the module `src` (R368). One for a group that is not valid here is a foreign packet, or several, when it
does not name this module (R371). -/
def State.decreeAct (s : State) (d : Decree) (src : Nat) : State :=
  let g := d.group
  let mine := (d.ents.find? (fun p => p.2 == some s.bib)).map (fun p => p.1)
  if s.decreeSecond d && (mine.isSome || s.grpValid g) then
    ({ s with mbr := { s.mbr with noVote := g :: s.mbr.noVote.filter (· != g) } }).grpPost 0x0B g 0
  else if s.grpValid g && decide (d.epoch ≤ s.grpEpoch g) then s
  else
    let fills := s.decreeFills d
    let keep := fun (s : State) => { s with snp := { s.snp with fills := s.snp.fills ++ fills } }
    let routes := d.ents.all (fun p => match p.2 with
      | some b => b == s.bib || (s.bookFind b).isSome
      | none => true)
    match mine with
    | some r =>
      if !routes then s.decreeRefuse d
      else
        let s := keep s
        let s := (s.setGrpF g 12 2 r).setGrpF g 15 1 (s.grpF g 15 1 ||| 1)
        let s := s.decreeAdopt d r
        if s.grpEpoch g == d.epoch then s.joinLap g else s
    | none =>
      if !s.grpValid g then
        (List.range (max 1 ((d.total + 1917) / 1918))).foldl (fun s _ => s.grpForeign g src) s
      else if d.ents.any (fun p => p.1 == s.grpSelf g) then
        ((s.setGrpF g 15 1 (setBits (s.grpF g 15 1) 0 0 0)).redInvalid g).grpPost 0x0D g 0
      else if !routes then s.decreeRefuse d
      else (keep s).decreeAdopt d (s.grpSelf g)

/-- The new bibs of failed ranks: the lowest spare bibs of the route book that are no members, else holes (R367). -/
def State.assign (s : State) (g : Nat) : List Nat → List Nat → List (Nat × Option Nat)
  | [], _ => []
  | r :: rs, used =>
    let members := (s.liveRanks g).map (fun r => mem.bib (s.grpMember g r))
    let free := (s.book.filter (fun e => bits e 24 24 == 1)).filter (fun e =>
      !members.contains (mem.bib e) && !used.contains (mem.bib e))
    match free with
    | e :: _ => (r, some (mem.bib e)) :: s.assign g rs (mem.bib e :: used)
    | [] => (r, none) :: s.assign g rs used

/-- The 8 bytes of a decree entry (R371). -/
def decreeEnt (p : Nat × Option Nat) : List Byte :=
  toBytes 2 p.1 ++ toBytes 1 (b2n p.2.isNone) ++ [0, 0] ++ toBytes 3 (p.2.getD 0)

/-- Send a decree to a bib, in packets of at most 1,918 entries (R371). -/
def State.decreeSend (s : State) (d : Decree) (r bib : Nat) : State :=
  ((cutN 1918 (d.ents.length + 1) d.ents).zipIdx).foldl (fun s p =>
    s.bookSend s.mvc d.group r bib 0x14
      (toBytes 4 d.epoch ++ toBytes 4 d.base ++ toBytes 4 d.total ++ toBytes 4 (1918 * p.2) ++ p.1.flatMap decreeEnt)
      (1918 * p.2)) s

/-- DECREE_BATCH_END: the batch window ends; one decree for the new membership goes to every member of it and is
adopted here (R367). -/
def State.decreeIssue (s : State) (g : Nat) : State :=
  let failed := sortOn id ((s.mbr.confirmed.filter (fun k => k / 65536 == g)).map (fun k => k % 65536))
  if failed.isEmpty then s
  else
    let ents := s.assign g failed []
    let d : Decree := { group := g, epoch := s.grpEpoch g + 1, base := s.grpEpoch g, total := ents.length, ents := ents }
    let dst := (s.liveRanks g).filterMap (fun r =>
      if r == s.grpSelf g then none
      else match (ents.find? (fun p => p.1 == r)).map (fun p => p.2) with
        | some (some b) => some (r, b)
        | some none => none
        | none => some (r, mem.bib (s.grpMember g r)))
    (dst.foldl (fun s p => s.decreeSend d p.1 p.2) s).decreeAct d s.bib

/-- Entries of a decree packet. -/
def decreeEnts (p : Pkt) : List (Nat × Option Nat) :=
  (cutN 8 p.len ((p.data.take p.len).drop 16)).map (fun b =>
    (leNat (b.take 2), if leNat ((b.drop 2).take 1) == 1 then none else some (leNat ((b.drop 5).take 3))))

/-- A decree packet is well formed: whole entries, first index also in elem0, no reserved value (R371). -/
def decreeOk (p : Pkt) : Bool :=
  decide (16 ≤ p.len) && (p.len - 16) % 8 == 0 && p.f 12 4 == p.elem0 &&
    (cutN 8 p.len ((p.data.take p.len).drop 16)).all (fun b =>
      decide (leNat ((b.drop 2).take 1) ≤ 1) && leNat ((b.drop 3).take 2) == 0
        && (leNat ((b.drop 2).take 1) == 0 || leNat ((b.drop 5).take 3) == 0))

/-- A packet of a decree: kept until all entries under one new epoch are held, then acted on (R368, R371). -/
def State.decreeIn (s : State) (p : Pkt) : State :=
  let ep := p.f 0 4
  let isIt := fun (d : Decree) => d.group == p.group && d.epoch == ep && d.total == p.f 8 4
  let old : Decree := (s.mbr.parts.find? isIt).getD
    { group := p.group, epoch := ep, base := p.f 4 4, total := p.f 8 4, ents := [] }
  let new := (decreeEnts p).filter (fun e => !old.ents.contains e)
  let d := { old with ents := old.ents ++ new }
  let rest := s.mbr.parts.filter (fun x => !isIt x)
  if d.ents.length < d.total then { s with mbr := { s.mbr with parts := rest ++ [d] } }
  else ({ s with mbr := { s.mbr with parts := rest } }).decreeAct d p.srcBib

end Sys2Proof.Machine
end

