-- ==== Sys2Proof/Machine/Power.lean ====
section
/-!
DEFINITION. Supply, power cap, floor and plan, thermal limits, power domains and Blocks (R418 to R436).
-/

namespace Sys2Proof.Machine

/-- Post PCR_STATUS; a timer event, code 7 or 8, names its timer, and `timer` keeps that of the most recent one (R438,
R440). -/
def State.pcrPost (s : State) (code timer : Nat) : State :=
  s.post R.PCR_STATUS 0 (if code == 7 || code == 8 then [(F.PCR_STATUS_timer, timer)] else []) code 2272

/-- Post PWR_STATUS (R440). -/
def State.pwrPost (s : State) (code : Nat) : State := s.post R.PWR_STATUS 0 [] code 2273

/-- The state of the supply: 0 RUN, 1 SAG, 2 RIDE, 3 entering Blocks, 4 Blocks, 5 waking (R439). -/
def State.pwr (s : State) : Nat := s.get F.PWR_STATE_state 0

/-- Report a code once in a lap. -/
def State.pwrOnce (s : State) (code : Nat) : State :=
  if s.pacer.said.contains code then s
  else ({ s with pacer := { s.pacer with said := code :: s.pacer.said } }).pwrPost code

/-! ### Power loss (R421, R578) -/

/-- The state when all volatile state is lost: module flash, and what the fault engine and the Judge keep in it, remain;
the input stage waits, and `cause` is what the next power-on will show (R421, R431, R579). -/
def State.lost (s : State) (cause : Nat) : State :=
  let t : State := { (State.reset) with
    pending := s.pending, flash := s.flash, freeCtr := s.freeCtr, out := s.out,
    flt := { copy0 := s.flt.copy0, copy1 := s.flt.copy1 }, jdg := s.jdg.lost, host := { faulty := s.host.faulty } }
  t.puts 0 [(F.HUB_FLT_LOG_HEAD_head, s.get F.HUB_FLT_LOG_HEAD_head 0), (F.HUB_RST_CAUSE_cause, cause)]

/-- Record the bus voltage, and the lowest since a ride or a Blocks entry began (R421). -/
def State.bus (s : State) (mv : Nat) : State :=
  let low := match s.pacer.lowMv with
    | some w => if s.pwr ≤ 1 then mv else min w mv
    | none => mv
  { s.put F.PWR_MEAS_bus_mv 0 mv with pacer := { s.pacer with lowMv := some low } }

/-- A collapse (R421): the supply record, with the lowest bus voltage seen, then the loss of all volatile state. -/
def State.collapse (s : State) (mv : Nat) : State := (s.fltLog 0x0A (min mv (s.pacer.lowMv.getD mv)) 3 0x0E 0).lost 2

/-- Is a plain address that of a register of the always-on region, of the bib, of the reset cause, or of the endpoint (R23,
R409, R578, R579). -/
def isKeptReg (a : Nat) : Bool :=
  decide (0x0007_0000 ≤ a ∧ a < 0x0009_0000) || a == R.HUB_ID_BIB.addr 0 || a == R.HUB_RST_CAUSE.addr 0
    || a == R.HUB_PCI_STATUS.addr 0 || a == R.HUB_PCI_B2.addr 0

/-- The state when every domain but the always-on regions and the endpoint is reset, and bring-up goes on from stage 0x02
(R578, R580): site time, the timers' compare values, the supply monitor and the bib stay; every timer is disarmed; the
Judge stays in its error state, which only a power-on ends (R480). -/
def State.restart (s : State) : State :=
  let p := s.pacer
  let t : State := { (State.reset) with
    pending := s.pending, flash := s.flash, freeCtr := s.freeCtr, out := s.out, host := s.host
    regs := s.regs.filter (fun q => isKeptReg q.1), doms := slSet [] (domNo .pcie) (s.dom .pcie)
    flt := { copy0 := s.flt.copy0, copy1 := s.flt.copy1 }, jdg := s.jdg.lost
    pacer := { p with
      sptLo := [], acts := [], lapDue := none, scanDue := false, planDue := false, plan := [], said := [], capHeld := none,
      drawn := none, ballast := false, sink := none, lowMv := none, stacksRest := false, cap := {
        v0 := 5000000000, v1 := 5000000000 } } }
  let t := (List.range 32).foldl (fun t n => t.put F.PCR_SPT_CTRL_arm n 0) t
  t.puts 0 [(F.HUB_FLT_LOG_HEAD_head, s.get F.HUB_FLT_LOG_HEAD_head 0), (F.JDG_STATE_error, s.get F.JDG_STATE_error 0),
    (F.HUB_HOST_READY_stage, 1)]

/-! ### Cap, ramp, floor, plan (R423 to R429) -/

/-- A ramp's level at site time t ns, with the limit in uW/ns (R423). -/
def Ramp.at (r : Ramp) (rho t : Nat) : Nat :=
  let d := rho * (t - r.t0)
  if r.v0 ≤ r.v1 then min r.v1 (r.v0 + d) else max r.v1 (r.v0 - d)

/-- The ramp limit in uW/ns, which is W/ms (R423). -/
def State.rho (s : State) : Nat := 100 * s.get F.PWR_CAP_ramp 0

/-- The power cap C in effect, in uW: it falls along the ramp (R423). -/
def State.capNow (s : State) : Nat := s.pacer.cap.at s.rho s.ns

/-- The cap that the controller holds now, in W (R419, R424, R430). -/
def State.capEff (s : State) : Nat :=
  let c := s.capNow / 1000000
  let c := if s.pwr == 1 || s.pwr == 2 then min c (10 * s.get F.PWR_SAG_sag_cap 0) else c
  match s.pacer.therm with
  | some t => min c t
  | none => c

/-- The floor in effect, in uW; a floor above C is taken as C (R426, R429). -/
def State.floorNow (s : State) : Nat := min s.capNow (s.pacer.floor.at s.rho s.ns)

/-- A write of PWR_CAP: a raised cap at once, a lowered one along the ramp from the measured draw P, so that it is reached
after (P - C)/rho; during a ride the write waits for the ride's end; a floor on its way goes on from its level under the new
ramp limit (R423, R429, R436). -/
def State.capWrite (s : State) (al : Alias) (v : Nat) : State :=
  let old := (s.rd R.PWR_CAP 0).toNat
  if s.pwr == 2 then
    let base := match s.pacer.capHeld with
      | some w => w.toNat
      | none => old
    { s with pacer := { s.pacer with capHeld := some (BitVec.ofNat 32 (R.PWR_CAP.mergeIf (· == .rw) base (al.val base v))) } }
  else
    let now := min s.capNow (1000000 * s.get F.PWR_MEAS_power_w 0)
    let fl := s.pacer.floor.at s.rho s.ns
    let s := s.regWrite R.PWR_CAP 0 al v
    let new := 10000000 * s.get F.PWR_CAP_cap_w 0
    { s with pacer := { s.pacer with
      cap := { t0 := s.ns, v0 := max now new, v1 := new }, floor := { t0 := s.ns, v0 := fl, v1 := s.pacer.floor.v1 } } }

/-- The ride is over: a cap write that waited takes effect (R436). -/
def State.capTake (s : State) : State :=
  match s.pacer.capHeld with
  | some w => ({ s with pacer := { s.pacer with capHeld := none } }).capWrite .plain w.toNat
  | none => s

/-- The floor goes toward w uW along the ramp (R425, R429). -/
def State.floorTo (s : State) (w : Nat) : State :=
  { s with pacer := { s.pacer with floor := { t0 := s.ns, v0 := s.pacer.floor.at s.rho s.ns, v1 := w } } }

/-- A write of PWR_FLOOR: without a plan in effect the floor goes to `floor_w` (R426, R429). -/
def State.floorWrite (s : State) (al : Alias) (v : Nat) : State :=
  let s := s.regWrite R.PWR_FLOOR 0 al v
  if s.pacer.plan.isEmpty then s.floorTo (10000000 * s.get F.PWR_FLOOR_floor_w 0) else s

/-- Openings of this module's slot repeat with the measured period: the latest at or before x, and the first at or after
x (R428). Without SUPPLY_PHASE a ramp needs no slot. -/
def State.slotBefore (s : State) (x : Nat) : Nat :=
  match s.pacer.edge with
  | some e =>
    let p := s.pacer.period
    if p == 0 then x else
      let o := (e + s.get F.PWR_PHASE_slot 0 * p / 16) % p
      if x < o then 0 else o + (x - o) / p * p
  | none => x

/-- See State.slotBefore. -/
def State.slotAfter (s : State) (x : Nat) : Nat :=
  let b := s.slotBefore x
  if x ≤ b then b else b + s.pacer.period

/-- The plan table (R429): none when a value is reserved or an entry is out of order, else its entries as (offset in us,
floor in units of 10 W). -/
def State.planTable (s : State) (a : Nat) : Nat → Option Nat → Option (List (Nat × Nat))
  | 0, _ => some []
  | k + 1, prev =>
    let off := s.ldH a 4
    let f := s.ldH (a + 4) 2
    let fl := s.ldH (a + 6) 2
    if fl % 2 == 0 then some []
    else if fl != 1 || !(f == 0 || decide (120 ≤ f ∧ f ≤ 500)) || prev.any (fun p => decide (off ≤ p)) then none
    else (s.planTable (a + 8) k (some off)).map ((off, f) :: ·)

/-- Program SPT2 for the first step of the plan, from a floor in uW: a rise starts at the latest opening of the slot that
lets it end at its instant, at once when that has passed; a fall at the first opening from its instant on (R429). -/
def State.planArm (s : State) (from_ : Nat) : State :=
  match s.pacer.plan with
  | [] => s.put F.PCR_SPT_CTRL_arm 2 0
  | (t, w) :: _ =>
    let f := 1000000 * w
    let arm (s : State) (x : Nat) : State := (s.put64 R.PCR_SPT_CMP_LO R.PCR_SPT_CMP_HI 2 x).puts 2
      [(F.PCR_SPT_CTRL_target, 3), (F.PCR_SPT_CTRL_periodic, 0), (F.PCR_SPT_CTRL_arm, 1)]
    if from_ < f then
      let need := (f - from_ + s.rho - 1) / s.rho
      let x := s.slotBefore (t - need)
      if x < s.ns || t < need then (arm s s.ns).pwrPost 0x0B else arm s x
    else arm s (s.slotAfter t)

/-- Read the plan for the lap boundary b (R429). -/
def State.planRead (s : State) (b : Nat) : State :=
  let base := s.get F.PWR_PLAN_HI_plan_hi 0 * 2 ^ 32 + s.get F.PWR_PLAN_LO_plan 0 * 128
  match s.planTable base 16 none with
  | none =>
    let s := { s with pacer := { s.pacer with plan := [], planDue := false } }
    ((s.put F.PCR_SPT_CTRL_arm 2 0).floorTo (10000000 * s.get F.PWR_FLOOR_floor_w 0)).pwrPost 0x0F
  | some l =>
    let s := { s with pacer := { s.pacer with plan := l.map (fun (p : Nat × Nat) => (b + 1000 * p.1, 10 * p.2)), planDue := false } }
    s.planArm s.floorNow

/-- POWER_PLAN_STEP: SPT2 has fired: the floor goes to the entry's along the ramp, and SPT2 is programmed for the next
entry; after a forward step of site time the entry now in effect is taken; in Blocks the step waits for the wake (R429,
R436). -/
def execPowerPlanStep (s : State) : Host.Outcome State Fault Refusal :=
  .next (if !s.pacer.planDue || s.asleep then s
  else
    let rec skip : List (Nat × Nat) → List (Nat × Nat)
      | a :: b :: l => if b.1 ≤ s.ns then skip (b :: l) else a :: b :: l
      | l => l
    let s := { s with pacer := { s.pacer with planDue := false } }
    match skip s.pacer.plan with
    | [] => s
    | (_, w) :: l => (({ s with pacer := { s.pacer with plan := l } }).floorTo (1000000 * w)).planArm (1000000 * w))

/-- The draw the controller admits now, in W: the cap, and since the last measured draw a rise along the ramp with 100 W (R419,
R424, R425, R434). -/
def State.drawMost (s : State) : Nat :=
  match s.pacer.drawn with
  | some (w, t) => min s.capEff (w + s.rho * (s.ns - t) / 1000000 + 100)
  | none => s.capEff

/-- The draw below which ballast is called for, in W: the floor in RUN, and since the last measured draw a fall along the ramp (R425,
R426); on the way to a commanded Blocks entry none (R433). -/
def State.drawLeast (s : State) : Nat :=
  if s.pacer.sink.isSome then 0
  else
    let f := if s.pwr == 0 then s.floorNow / 1000000 else 0
    match s.pacer.drawn with
    | some (w, t) => max f (w - s.rho * (s.ns - t) / 1000000)
    | none => f

/-- A commanded Blocks entry that waits for the draw to reach 650 W begins with the next tick (R433). -/
def State.sinkNow (s : State) : State := { s with pacer := { s.pacer with sink := s.pacer.sink.map (fun _ => 0) } }

/-- CAP_CONTROL: every 10 us the controller acts on the mean draw in W. Above what it admits the factor rises or holds, else the factor
falls or holds: to which one the spec does not say (R424). Below what the floor and the ramp ask for, ballast runs. Factor 8
that does not suffice, and a draw that ballast does not hold, are reported once a lap (R419, R424 to R426, R434). -/
def execCapControl (power : Nat) (s : State) : Host.Outcome State Fault Refusal :=
  .next (if s.asleep || s.stage == 0 then s
  else
    let most := s.drawMost
    let least := s.drawLeast
    let f := s.get F.PWR_STATE_stretch 0
    let c := Config.free s.freeCtr
    let s := { (s.put F.PWR_MEAS_power_w 0 power) with
      freeCtr := s.freeCtr + 1, pacer := { s.pacer with drawn := some (power, s.ns), ballast := decide (power < least) } }
    let s := if most < power then
        if f == 6 then (if s.capEff < power then s.pwrOnce 8 else s) else s.put F.PWR_STATE_stretch 0 (f + c % (7 - f))
      else s.put F.PWR_STATE_stretch 0 (c % (f + 1))
    if power + 100 < least && !s.pacer.said.contains 9 then (s.pwrOnce 9).exempt
    else if power ≤ 650 then s.sinkNow
    else s)

/-- BALLAST_PASS: while ballast is called for, a cluster that waits in its schedule runs it (R426): only the ballast counter of its cores moves, by
a number of ac that the spec does not give (R488). -/
def execBallastPass (c : Clu) (s : State) : Host.Outcome State Fault Refusal :=
  .next (if s.pacer.ballast && s.cluOn c && (slFind s.waits (cluWaiter c 0)).isSome then
    let k := Config.free s.freeCtr
    (s.activeCores c).foldl (fun s n => s.perfCore (coreNo c n) 6 k) { s with freeCtr := s.freeCtr + 1 }
  else s)

/-- SUPPLY_PHASE_EDGE: the period since the last edge is measured; one outside 14.3 ms to 25.0 ms counts as absent and is
reported (R428). -/
def execSupplyPhaseEdge (s : State) : Host.Outcome State Fault Refusal :=
  let s' := { s with pacer := { s.pacer with edge := some s.ns } }
  .next (if s.stage == 0 then s else match s.pacer.edge with
  | some e =>
    let p := s.ns - e
    if 14300000 ≤ p && p ≤ 25000000 then
      ({ s' with pacer := { s'.pacer with period := p } }).put F.PWR_PHASE_period_us 0 (p / 1000)
    else (({ s' with pacer := { s'.pacer with period := 0 } }).put F.PWR_PHASE_period_us 0 0).pwrPost 0x0A
  | none => s')

/-- PHASE_LOSS: no rising edge for 30 ms (R428). -/
def execPhaseLoss (s : State) : Host.Outcome State Fault Refusal :=
  .next (if s.stage == 0 then s else
    (({ s with pacer := { s.pacer with edge := none, period := 0 } }).put F.PWR_PHASE_period_us 0 0).pwrPost 0x0A)

/-! ### Supply (R418 to R421, R585) -/

/-- The sag threshold in mV. -/
def State.sagMv (s : State) : Nat := 100 * s.get F.PWR_SAG_sag_dv 0

/-- Throttle to factor 4 at once, unless a larger factor acts (R419, R595). -/
def State.throttle (s : State) : State := s.put F.PWR_STATE_stretch 0 (max 5 (s.get F.PWR_STATE_stretch 0))

/-- SUPPLY_SAG: the bus falls below `sag_dv` (R418, R419). -/
def execSupplySag (mv : Nat) (s : State) : Host.Outcome State Fault Refusal :=
  .next (if s.stage != 0 && s.pwr == 0 && mv < s.sagMv then
    ((((s.bus mv).put F.PWR_STATE_state 0 1).throttle.satUp F.PWR_EVENTS_sags 0).exempt).pwrPost 1
  else s)

/-- SAG_END: the bus crosses back above `sag_dv`, with 0.5 V of hysteresis (R418, R419). -/
def execSagEnd (mv : Nat) (s : State) : Host.Outcome State Fault Refusal :=
  .next (if s.pwr == 1 && s.sagMv + 500 < mv then (s.bus mv).put F.PWR_STATE_state 0 0 else s)

/-- The input stage draws nothing from the bus: the ride begins (R420). -/
def State.ride (s : State) : State :=
  (((s.put F.PWR_STATE_state 0 2).throttle.satUp F.PWR_EVENTS_rides 0).exempt).pwrPost 2

/-- UNDERVOLTAGE: the bus falls below 40.0 V (R418, R420); during a wake the wake stops and the module stays in Blocks with
the cause "supply" (R436). -/
def execUndervoltage (mv : Nat) (s : State) : Host.Outcome State Fault Refusal :=
  .next (if s.stage != 0 && mv < 40000 then
    if s.pwr ≤ 1 then (s.bus mv).ride
    else if s.pwr == 5 then (s.bus mv).puts 0 [(F.PWR_STATE_state, 4), (F.PWR_STATE_cause, 2)]
    else s.bus mv
  else s)

/-- The ride ends with the bus back: no state is lost (R420). -/
def State.rideRecover (s : State) (mv : Nat) : State :=
  ((s.put F.PWR_STATE_state 0 (if mv ≤ s.sagMv + 500 then 1 else 0)).capTake).pwrPost 3

/-- RIDE_RECOVER: the bus crosses back above 40.0 V, with 0.5 V of hysteresis (R418, R420). -/
def execRideRecover (mv : Nat) (s : State) : Host.Outcome State Fault Refusal :=
  .next (if s.pwr == 2 && !s.pacer.overMax && 40500 < mv then (s.bus mv).rideRecover mv else s)

/-- SUPPLY_SWELL: the bus exceeds 60.0 V (R418). -/
def execSupplySwell (mv : Nat) (s : State) : Host.Outcome State Fault Refusal :=
  .next (if s.stage != 0 && 60000 < mv then (s.bus mv).pwrPost 6 else s)

/-- ABSOLUTE_MAXIMUM: above 64.0 V the input stage disconnects and the module rides; below 62.0 V it reconnects (R585,
R595). -/
def execAbsoluteMaximum (mv : Nat) (s : State) : Host.Outcome State Fault Refusal :=
  .next (if s.stage == 0 then s
  else if 64000 < mv && !s.pacer.overMax then
    let s := s.bus mv
    let s := { s with pacer := { s.pacer with overMax := true } }
    if s.pwr ≤ 1 then s.ride else s
  else if mv < 62000 && s.pacer.overMax then
    let s := s.bus mv
    let s := { s with pacer := { s.pacer with overMax := false } }
    if s.pwr == 2 && 40500 < mv then s.rideRecover mv else s
  else s)

/-- RIPPLE_MEASURE: the ripple over 16 supply periods, in mV; without SUPPLY_PHASE none is measured (R418). -/
def execRippleMeasure (mv : Nat) (s : State) : Host.Outcome State Fault Refusal :=
  .next (if s.pacer.period == 0 then s
  else
    let s := s.put F.PWR_RIPPLE_ripple_mv 0 (min mv 65535)
    if s.get F.PWR_RIPPLE_ripple_lim_mv 0 < mv then s.pwrPost 7 else s)

/-! ### Blocks (R433 to R436) -/

/-- A Blocks entry begins: heartbeats and beats with state 2, then the clocks stop; open waits span Blocks, and a scan-out stops
where it is; a cap write that waited for the end of a ride takes effect (R433, R436). -/
def State.blocksBegin (s : State) (cause : Nat) : State :=
  let ride := s.pwr == 2
  let s := s.halt
  let s := if s.frozen then s else s.upLinks.foldl (fun s l => s.sendCtl l 6 (s.hbBytes 2) 1) s
  let s := if s.frozen then s else ((List.range 256).filter s.grpValid).foldl (fun s g => s.beatAll g 2) s
  let s := { s with
    waits := s.waits.map (fun (p : Nat × Wait) => (p.1, { p.2 with blk := true })),
    photo := s.photo.map (fun (p : Photo) => { p with blk := true }),
    pacer := { s.pacer with sink := none, ballast := false, lowMv := if ride then s.pacer.lowMv else none } }
  let s := s.puts 0 [(F.PWR_STATE_state, 3), (F.PWR_STATE_cause, cause)]
  if ride then s.capTake else s

/-- The entry completes: the stacks refresh themselves, UP links go to LPI, domains that are on to retention (R433). -/
def State.blocksDone (s : State) : State :=
  let s := s.upLinks.foldl (fun s l => s.put F.RLY_STATE_state l 4) s
  let s := { s with
    pacer := { s.pacer with stacksRest := true },
    doms := s.doms.map (fun (p : Nat × DomState) => (p.1, if p.2 == DomState.on then DomState.retention else p.2)) }
  ((s.put F.PWR_STATE_state 0 4).satUp F.PWR_EVENTS_blocks 0).pwrPost 4

/-- A write of `blocks`: ignored in Blocks, during an entry and before stage 0x0F. The draw falls along the ramp to 650 W before the
entry begins (R433, R436, R572). -/
def State.blocksCmd (s : State) : State :=
  if s.stage != 0x0F || 2 < s.pwr || s.pacer.sink.isSome then s
  else
    let p := s.get F.PWR_MEAS_power_w 0
    if p ≤ 650 || s.rho == 0 then s.blocksBegin 1
    else { s with pacer := { s.pacer with ballast := false, sink := some (s.ns + 1000000 * (p - 650) / s.rho) } }

/-- BLOCKS: see State.blocksCmd. -/
def execBlocks (s : State) : Host.Outcome State Fault Refusal := .next s.blocksCmd

/-- RIDE_END: `ride_us` has elapsed, or the store has reached the reserve. Below 36.0 V the module collapses; before stage
0x0F every functional domain goes off and bring-up restarts from stage 0x02 (R580); else it enters Blocks for supply
(R420, R421). -/
def execRideEnd (mv : Nat) (s : State) : Host.Outcome State Fault Refusal :=
  .next (if s.pwr != 2 then s
  else if mv < 36000 then s.collapse mv
  else if s.stage != 0x0F then
    let t := s.restart
    { t.put F.PWR_STATE_state 0 0 with
      doms := [], host := { alerts := t.host.alerts }, pacer := { t.pacer with waitBus := true } }
  else ((s.bus mv).blocksBegin 2).exempt)

/-- A snapshot's transfers resume after the wake from the first chunk that a copy has not acknowledged (R405). -/
def SnpRun.rewind (r : SnpRun) : SnpRun :=
  let k := ((List.range r.next).find? (fun k => r.copies.any (fun c => c.ok && !c.complete && !c.acks.contains k))).getD r.next
  { r with next := k, digests := r.digests.take k }

/-- A wake is triggered (R434). -/
def State.wakeStart (s : State) : State := s.put F.PWR_STATE_state 0 5

/-- The wake completes (R434): stacks out of self-refresh, LPI links UP, retained domains on, clocks at factor 8, the draw rising
from 650 W; actions of timers that fell due are delivered, and sources that waited (R435). -/
def State.wakeUp (s0 : State) : State :=
  let lpi := (List.range 64).filter (fun l => s0.get F.RLY_STATE_state l == 4)
  let s := lpi.foldl (fun s l => (s.put F.RLY_STATE_state l 3).setLnk l { s.lnk l with hbSuspended := false }) s0
  let s := { s with
    doms := s.doms.map (fun (p : Nat × DomState) => (p.1, if p.2 == DomState.retention then DomState.on else p.2)),
    pacer := { s.pacer with stacksRest := false, drawn := some (650, s.ns) } }
  let s := s.puts 0 [(F.PWR_STATE_state, 0), (F.PWR_STATE_cause, 0), (F.PWR_STATE_stretch, 6)]
  let s := { s with snp := { s.snp with run := s.snp.run.map SnpRun.rewind } }
  ((if s.frozen then s else s.runOn).sptFlush.recalLate.pwrPost 5).notify s0

/-- A write of `wake`: only when the cause is "command" (R434, R436). -/
def State.wakeCmd (s : State) : State :=
  if s.pwr == 4 && s.get F.PWR_STATE_cause 0 == 1 then s.wakeStart else s

/-- What a tick does for Blocks: an entry or a wake under way completes; a commanded entry begins when its time has come (R433,
R434; log 48). -/
def State.pwrTick (s : State) : State :=
  if s.pwr == 3 then s.blocksDone
  else if s.pwr == 5 then s.wakeUp
  else match s.pacer.sink with
    | some t => if t ≤ s.ns then s.blocksBegin 1 else s
    | none => s

/-- WAKE: see State.wakeCmd. -/
def execWake (s : State) : Host.Outcome State Fault Refusal := .next s.wakeCmd

/-- SUPPLY_WAKE: in Blocks for supply the bus has stayed above `sag_dv` for `recover_us` (R434). -/
def execSupplyWake (mv : Nat) (s : State) : Host.Outcome State Fault Refusal :=
  .next (if s.pwr == 4 && s.get F.PWR_STATE_cause 0 == 2 && !s.pacer.overMax && s.sagMv < mv then (s.bus mv).wakeStart else s)

/-- COLLAPSE: the bus falls below 36.0 V in Blocks or during an entry, or the store falls below its reserve there (R421,
R595). -/
def execCollapse (mv : Nat) (s : State) : Host.Outcome State Fault Refusal :=
  .next (if (s.pwr == 3 || s.pwr == 4) && (mv < 36000 || s.pacer.overMax) then s.collapse mv else s)

/-- A write of PWR_CTRL (R439). -/
def State.pwrCtrl (s : State) (al : Alias) (v : Nat) : State :=
  let en := s.flag F.PWR_CTRL_plan_en 0
  let s := s.regWrite R.PWR_CTRL 0 al v
  let s := if en && !s.flag F.PWR_CTRL_plan_en 0 then
      let s := { s with pacer := { s.pacer with plan := [], planDue := false } }
      (s.put F.PCR_SPT_CTRL_arm 2 0).floorTo (10000000 * s.get F.PWR_FLOOR_floor_w 0)
    else s
  if al != .plain then s
  else
    let s := if bit v 1 then s.wakeCmd else s
    if bit v 0 then s.blocksCmd else s

/-! ### The end of a freeze (R508) -/

/-- FREEZE_END: FREEZE_N has read high for 1 us; with `release` written and no scan-out running the clocks restart at
factor 8 (R508), and the Starter delivers what it held; recalibrations asked for meanwhile run (R290). -/
def execFreezeEnd (s : State) : Host.Outcome State Fault Refusal :=
  .next (if s.frozen && s.frz.released && s.photo.isNone then
    let s' := s.puts 0 [(F.TRC_FRZ_STATE_frozen, 0), (F.TRC_FRZ_STATE_pin_low, 0), (F.PWR_STATE_stretch, 6)]
    let s' := ({ s' with frz := { s'.frz with srcs := [], total := 0, released := false } }).trcPost 7 0
    (if s'.asleep then s' else s'.runOn.nakMissed.sptFlush.recalLate).notify s
  else s)

/-! ### Temperature and domains (R430 to R432) -/

/-- THERMAL_THROTTLE: the hottest sensor reads t: above `t_throttle` the effective cap falls by 100 W, not below 1,200 W;
below `t_throttle` - 2 the cap is restored (R430). -/
def execThermalThrottle (t : Nat) (s : State) : Host.Outcome State Fault Refusal :=
  let s := s.put F.PWR_THERM_t_max 0 (min t 255)
  let lim := s.get F.PWR_THERM_t_throttle 0
  .next (if s.stage == 0 then s
  else if lim < t then
    let c := max 1200 (s.pacer.therm.getD (s.capNow / 1000000) - 100)
    ({ s with pacer := { s.pacer with therm := some c } }).pwrOnce 0x0C
  else if t + 2 < lim then
    match s.pacer.therm with
    | some c =>
      let c0 := min (1000000 * c) s.capNow
      { s with pacer := { s.pacer with therm := none, cap := { t0 := s.ns, v0 := c0, v1 := s.pacer.cap.v1 } } }
    | none => s
  else s)

/-- THERMAL_TRIP: a sensor reaches 110 degrees: the record, THERMTRIP_N, every domain off, volatile state lost (R431). -/
def execThermalTrip (t : Nat) (s : State) : Host.Outcome State Fault Refusal :=
  .next (if 110 ≤ t then
    let u := (s.fltLog 0x0A t 3 0x0D 0).lost 3
    { u with pacer := { u.pacer with thermtrip := true } }
  else s)

/-- May the Pacer power a domain: spares, the bridge of an FD16 without a position, and quarantined units stay off (R23, R356, R432). -/
def State.domMay (s : State) (d : Dom) : Bool :=
  match d with
  | .cluster c => s.holdsPos c && !s.cluQuar c
  | .bridge d | .mesh d | .dieCtl d | .sram d => s.flt.dieMap.contains d.val
  | _ => true

/-- DOMAIN_SWITCH: the Pacer switches a domain (R432, R533). -/
def execDomainSwitch (d : Dom) (dst : DomState) (s : State) : Host.Outcome State Fault Refusal :=
  .next (if s.stage == 0 || (dst != .off && !s.domMay d) then s else s.domSet d dst)

end Sys2Proof.Machine
end

