-- ==== Sys2Proof/Machine/Pacer.lean ====
section
/-!
DEFINITION. Site time (R409 to R413) and the split timers (R415, R416, R435, R438).
-/

namespace Sys2Proof.Machine

/-! ### Site time -/

/-- One tick of the site-time counter, 64 bits of ns and 8 of fraction (R409, R412). -/
def State.tick (s : State) : State :=
  let p := s.pacer
  { s with pacer := { p with
    time := (p.time + s.tickLen) % 2 ^ 72, slew := if 0 < p.slew then p.slew - 1 else if p.slew < 0 then p.slew + 1 else 0 } }

/-- CRC-16 of n bits of v, bit 0 first: polynomial 0x1021, initial value 0xFFFF (R410). -/
def crc16 (v : Nat) : Nat → Nat
  | 0 => 0xFFFF
  | n + 1 =>
    let c := crc16 v n
    let x := c * 2 % 65536
    if bit c 15 != bit v n then x ^^^ 0x1021 else x

/-- The s of a time code that passes its CRC (R410). -/
def codeS (code : Nat) : Option Nat :=
  let v := bits code 63 0
  if bits code 79 64 == crc16 v 64 then some v else none

/-- Is a run in progress (R409). -/
def State.inRun (s : State) : Bool := s.lap.lam != 0 || s.lap.step != 0

/-- An accepted mark that belongs to site time `t` (1/256 ns), stamped with the counter at c (R412). -/
def State.markAt (s : State) (c t : Nat) : State :=
  let e : Int := (c : Int) - t
  let ms : Int := 256000000
  let s := s.put F.PCR_MARK_ERR_err 0 (unsx 32 (max (-(2 ^ 31)) (min (2 ^ 31 - 1) e)))
  let p := s.pacer
  let load := p.loadNext && !s.inRun
  let s := { s with pacer := { p with loadNext := false } }
  let adj (x : Int) (sl : Int) : State := { s with pacer := { s.pacer with time := (p.time + x).toNat % 2 ^ 72, slew := sl } }
  if load then adj (-e) 0
  else if e < -ms then (adj (-e) 0).pcrPost 4 0
  else if ms < e then (adj 0 e).pcrPost 5 0
  else adj 0 e

/-- The time code after a mark (R411). -/
def State.codeIn (s : State) (code : Nat) : State :=
  let lock := s.get F.PCR_STATE_lock 0
  match codeS code with
  | none => ({ s with pacer := { s.pacer with markS := none, lastS := none, goodCodes := 0 } }).pcrPost 6 0
  | some v =>
    let ok := s.pacer.lastS.isNone || s.pacer.lastS == some (v - 1) && v != 0
    let n := if ok then s.pacer.goodCodes + 1 else 1
    let s := { s with pacer := { s.pacer with lastS := some v, goodCodes := min n 2, markS := if ok then some v else none } }
    let s := if ok then s else s.pcrPost 6 0
    if lock == 0 then s.put F.PCR_STATE_lock 0 1
    else if lock == 1 && 2 ≤ n then (s.put F.PCR_STATE_lock 0 2).pcrPost 1 0
    else s

/-- SYNC_MARK: a mark, stamped `tdc` sixteenths of a ns after the last tick, and the code that follows it (R410 to R412). -/
def execSyncMark (code : BitVec 80) (tdc : Fin 64) (s : State) : Host.Outcome State Fault Refusal :=
  .next (if s.get F.HUB_HOST_READY_stage 0 == 0 then s
  else
    let s := s.put F.PCR_STATE_missed_marks 0 0
    let s := match s.pacer.markS with
      | some v =>
        if s.get F.PCR_STATE_lock 0 == 2 then
          s.markAt (s.pacer.time + 16 * tdc) (v * 256000000000 + (s.rd R.PCR_DELAY 0).toNat)
        else s
      | none => s
    s.codeIn code.toNat)

/-- MARK_MISSING: an expected mark does not come; two in a row are reported (R411). -/
def execMarkMissing (s : State) : Host.Outcome State Fault Refusal :=
  let t := ({ s with pacer := { s.pacer with markS := none } }).satUp F.PCR_STATE_missed_marks 0
  .next (if s.stage == 0 then s else if t.get F.PCR_STATE_missed_marks 0 == 2 then t.pcrPost 2 0 else t)

/-- SYNC_CLK_LOSS: SYNC_CLK has no edge for 100 ns (R411). -/
def execSyncClkLoss (s : State) : Host.Outcome State Fault Refusal :=
  .next (if s.stage == 0 || s.get F.PCR_STATE_lock 0 == 3 then s else (s.put F.PCR_STATE_lock 0 3).pcrPost 3 0)

/-- SYNC_CLK_RETURN: the PLL relocks and the state returns to LOCKED (R411). -/
def execSyncClkReturn (s : State) : Host.Outcome State Fault Refusal :=
  .next (if s.stage != 0 && s.get F.PCR_STATE_lock 0 == 3 then (s.put F.PCR_STATE_lock 0 2).pcrPost 1 0 else s)

/-- A write of `resync`: the next accepted mark loads the counter; refused while a run is in progress (R412). -/
def State.resync (s : State) : State :=
  if s.inRun then s.pcrPost 9 0 else { s with pacer := { s.pacer with loadNext := true } }

/-- PCR_RESYNC: see State.resync. -/
def execPcrResync (s : State) : Host.Outcome State Fault Refusal := .next (s.whenServed .pacer 0 0 s.resync)

/-! ### Split timers -/

/-- Is a claim on split timer n granted for the feature that uses it: as a freeze source one of class 3; else of any class, since the
rules name the class of no other use (R416, R450, log 128). -/
def State.sptClaimed (s : State) (n : Nat) : Bool :=
  s.claims.any (fun k => k.granted && k.res == 2 && k.id == n && (s.get F.PCR_SPT_CTRL_target n != 4 || k.cls == 3))

/-- A software write of a timer register (R416, R438): 0 CMP_LO, 1 CMP_HI, 2 PERIOD, 3 CTRL. SPT0 to SPT2 ignore it; CMP_LO
is held until CMP_HI; targets 1 to 3 are reserved on the other timers; a period of 0 is reserved for a periodic timer, so the field
that would make it one keeps its value (R8, log 45); arming needs a claim. -/
def State.sptWrite (s : State) (n k : Nat) (al : Alias) (v : Nat) : State :=
  if n < 3 then s.pcrPost 7 n
  else match k with
    | 0 =>
      let old := (slGet (s.rd R.PCR_SPT_CMP_LO n) s.pacer.sptLo n).toNat
      { s with pacer := { s.pacer with sptLo := slSet s.pacer.sptLo n (BitVec.ofNat 32 (al.val old v)) } }
    | 1 =>
      let s := match slFind s.pacer.sptLo n with
        | some lo => { s.wr R.PCR_SPT_CMP_LO n lo with pacer := { s.pacer with sptLo := slDel s.pacer.sptLo n } }
        | none => s
      s.regWrite R.PCR_SPT_CMP_HI n al v
    | 2 =>
      let old := s.get F.PCR_SPT_PERIOD_period n
      let s := s.regWrite R.PCR_SPT_PERIOD n al v
      if s.flag F.PCR_SPT_CTRL_periodic n && s.get F.PCR_SPT_PERIOD_period n == 0 then s.put F.PCR_SPT_PERIOD_period n old else s
    | _ =>
      let t := s.get F.PCR_SPT_CTRL_target n
      let armed := s.flag F.PCR_SPT_CTRL_arm n
      let per := s.get F.PCR_SPT_CTRL_periodic n
      let s := s.regWrite R.PCR_SPT_CTRL n al v
      let s := if s.get F.PCR_SPT_PERIOD_period n == 0 then s.put F.PCR_SPT_CTRL_periodic n per else s
      let s := if (1 ≤ s.get F.PCR_SPT_CTRL_target n && s.get F.PCR_SPT_CTRL_target n ≤ 3) then s.put F.PCR_SPT_CTRL_target n t else s
      if s.flag F.PCR_SPT_CTRL_arm n && !armed then
        if !s.sptClaimed n then (s.put F.PCR_SPT_CTRL_arm n 0).imgPost 0x12 0
        else s
      else s

/-- SPLIT_TIMER_ARM: a software write of PCR_SPT_CTRL of timer n (R415, R416). -/
def execSplitTimerArm (n : Fin 32) (v : Word) (s : State) : Host.Outcome State Fault Refusal :=
  .next (s.whenServed .spt n 0 (s.sptWrite n 3 .plain v.toNat))

/-- A periodic timer's next compare value, in the future, and how many periods were added (R415). -/
def sptNext (cmp period now : Nat) : Nat × Nat :=
  let k := if period == 0 then 1 else (now - cmp) / period + 1
  (cmp + k * period, k)

/-- SPLIT_TIMER_FIRE: timer n is armed and site time has reached its compare value (R415). Its action is delivered at once,
or waits in the exchange zone while the functional clocks stand: those of the module's own timers once each and without
loss, those of the others up to the zone's depth (R435, R530, R532); a freeze and a plan step need no functional clock. -/
def State.sptFire (s : State) (n : Nat) : State :=
  let cmp := s.get64 R.PCR_SPT_CMP_LO R.PCR_SPT_CMP_HI n
  if !s.flag F.PCR_SPT_CTRL_arm n || s.ns < cmp then s
  else
    let t := s.get F.PCR_SPT_CTRL_target n
    let s := if s.live then s.sptAct n
      else if n < 3 && s.pacer.acts.contains n then s
      else if n < 3 || decide ((s.pacer.acts.filter (3 ≤ ·)).length < 16) then { s with pacer := { s.pacer with acts := s.pacer.acts ++ [n] } }
      else s.hubOverrun 0 4
    let s := if t == 3 then { s with pacer := { s.pacer with planDue := true } } else s
    let per := s.get F.PCR_SPT_PERIOD_period n
    let s := if s.flag F.PCR_SPT_CTRL_periodic n && per != 0 then
        let x := sptNext cmp per s.ns
        let s := s.put64 R.PCR_SPT_CMP_LO R.PCR_SPT_CMP_HI n (x.1 % 2 ^ 64)
        if x.2 == 1 then s else (s.satUpBy F.PCR_SPT_CTRL_missed n (x.2 - 1)).pcrPost 8 n
      else s.put F.PCR_SPT_CTRL_arm n 0
    if t == 4 then s.freezeEnter 3 none else s

/-- SPLIT_TIMER_FIRE: see State.sptFire. -/
def execSplitTimerFire (n : Fin 32) (s : State) : Host.Outcome State Fault Refusal := .next (s.sptFire n)

/-- The module arms SPT0 for a lap boundary at site time b in ns (R253, R398, R416); with `plan_en` the power plan is read
(R429). -/
def State.armLap (s : State) (b : Nat) : State :=
  let s := (s.put64 R.PCR_SPT_CMP_LO R.PCR_SPT_CMP_HI 0 b).puts 0 [(F.PCR_SPT_CTRL_target, 1), (F.PCR_SPT_CTRL_periodic, 0),
    (F.PCR_SPT_CTRL_arm, 1)]
  let s := { s with pacer := { s.pacer with lapDue := none } }
  if s.flag F.PWR_CTRL_plan_en 0 then s.planRead b else s

/-- The module arms SPT1 for the order scan, every 50 us (R416). -/
def State.armScan (s : State) : State :=
  (s.put64 R.PCR_SPT_CMP_LO R.PCR_SPT_CMP_HI 1 (s.ns + 50000)).puts 1 [(F.PCR_SPT_PERIOD_period, 50000), (F.PCR_SPT_CTRL_target, 2),
    (F.PCR_SPT_CTRL_periodic, 1), (F.PCR_SPT_CTRL_arm, 1)]

end Sys2Proof.Machine
end

