-- ==== Sys2Proof/Machine/Mirror.lean ====
section
/-!
DEFINITION. The cluster mirror (R358), the cut record (R385, R387), the snapshot plan (R384), and the sections of a
snapshot (R383) and of a fill (R402).
-/

namespace Sys2Proof.Machine

/-! ### Cluster mirrors (R358) -/

/-- The governor area and the scale table of a cluster, as place and length (R157, R175). -/
def State.mirrorHead (s : State) (c : Clu) : List (Nat × Nat) :=
  let u := cluU c
  [(poolAt c (s.get F.GOV_CFG_base u * 4096), 64 * s.get F.GOV_CFG_layers u + 16 * s.get F.GOV_CFG_rules u),
   (poolAt c (s.get F.CLU_SCALE_CFG_base u * 4096), 64 * s.get F.CLU_SCALE_CFG_entries u)]

/-- The A8 extensions that the scale table names, and the scout table (R155, R203). -/
def State.mirrorTail (s : State) (c : Clu) : List (Nat × Nat) :=
  let u := cluU c
  let a8 := (List.range (s.get F.CLU_SCALE_CFG_entries u)).filterMap (fun i =>
    let e := s.ld (s.sclEnt c i) 64
    if bit e 48 && bit e 49 then some (poolAt c (bits e 127 96), 33 * 1024) else none)
  a8 ++ [(poolAt c (s.get F.SCT_CFG_base u * 4096), 64 * s.get F.SCT_CFG_entries u)]

/-- The bytes of a cluster's mirror. -/
def State.mirrorBytes (s : State) (c : Clu) : List Byte :=
  (s.mirrorHead c ++ s.mirrorTail c).flatMap (fun p => s.ldBytes p.1 p.2)

/-- Write areas in turn from bytes: the state and the bytes left. -/
def State.putAreas (s : State) (l : List (Nat × Nat)) (bs : List Byte) : State × List Byte :=
  l.foldl (fun (r : State × List Byte) p => (r.1.stBytes p.1 (r.2.take p.2), r.2.drop p.2)) (s, bs)

/-- Write a mirror's bytes into the cluster pool: the state and the bytes after the mirror. -/
def State.mirrorPut (s : State) (c : Clu) (bs : List Byte) : State × List Byte :=
  let r := s.putAreas (s.mirrorHead c) bs
  r.1.putAreas (r.1.mirrorTail c) r.2

/-- HBM address of a cluster's mirror, when an image gave one. -/
def State.mirrorAt (s : State) (c : Clu) : Option Nat := (s.logClu c).bind (fun n => slFind s.img.mirrors n)

/-- A cluster copies its areas to its mirror (R358). -/
def State.mirrorSave (s : State) (c : Clu) : State :=
  match s.mirrorAt c with
  | some a => s.stBytes (a % 2 ^ 41) (s.mirrorBytes c)
  | none => s

/-- Restore a cluster's areas from its mirror (R359). -/
def State.mirrorLoad (s : State) (c : Clu) : State :=
  match s.mirrorAt c with
  | some a =>
    let a := a % 2 ^ 41
    let put (s : State) (l : List (Nat × Nat)) (a : Nat) : State × Nat :=
      l.foldl (fun (r : State × Nat) p => (r.1.stBytes p.1 (r.1.ldBytes r.2 p.2), r.2 + p.2)) (s, a)
    let r := put s (s.mirrorHead c) a
    (put r.1 (r.1.mirrorTail c) r.2).1
  | none => s

/-! ### The cut record (R385, R387) -/

/-- HBM address in CLU_VEC_START (R221, R237). -/
def State.startReg (s : State) (c : Clu) : Nat :=
  s.get F.CLU_VEC_START_HI_start_hi (cluU c) * 2 ^ 32 + s.get F.CLU_VEC_START_LO_start (cluU c) * 64

/-- Zero bytes. -/
def zeros (n : Nat) : List Byte := List.replicate n 0

/-- The cut record of lap `lam` with data position `pi` (R385); `lane` gives n and q of a lane. -/
def State.cutBytes (s : State) (lam pi : Nat) (lane : Clu → Nat → Nat × Nat) : List Byte :=
  toBytes 8 lam ++ toBytes 8 pi ++ toBytes 8 s.lap.seed ++ toBytes 1 (s.get F.GRP_LAP_VERDICT_bank 0) ++ zeros 3
    ++ toBytes 2 s.allClus.length ++ zeros 34
    ++ s.allClus.flatMap (fun c => (List.range 64).flatMap (fun l =>
      let x := lane c l
      toBytes 8 x.1 ++ toBytes 1 x.2 ++ zeros 3 ++ toBytes 4 (x.1 - x.2)))

/-- n bytes of a byte list from lo on as a number. -/
def at_ (b : List Byte) (lo n : Nat) : Nat := leNat ((b.drop lo).take n)

/-- Does a cut record belong to a lap and data position, and does every entry agree with itself (R387). -/
def cutOk (b : List Byte) (lam pi n : Nat) : Bool :=
  at_ b 0 8 == lam && at_ b 8 8 == pi &&
    (List.range (64 * n)).all (fun i =>
      let o := 64 + 16 * i
      let q := at_ b (o + 8) 1
      decide (q ≤ 4) && (at_ b o 8 + 2 ^ 64 - q) % 2 ^ 32 == at_ b (o + 12) 4)

/-- Write every lane's counter of a cut record into the start records (R387, R398). -/
def State.cutCounters (s : State) (b : List Byte) : State :=
  s.allClus.zipIdx.foldl (fun s p =>
    let a := s.startReg p.1
    let s := s.setClu p.1 { s.clu p.1 with start := a }
    (List.range 64).foldl (fun s l =>
      let o := 64 + 16 * (64 * p.2 + l)
      s.stH (a + 8 * l) 8 ((at_ b o 8 + 2 ^ 64 - at_ b (o + 8) 1) % 2 ^ 64)) s) s

/-! ### Plan and sections (R383, R384, R402) -/

/-- An entry of the snapshot plan. -/
structure PlanEnt where
  kind : Nat
  owned : Bool
  p0 : Nat
  p1 : Nat
  len : Nat
  deriving DecidableEq, Repr

/-- The entries of the plan from an address, at most k; none when it is invalid (R384). -/
def State.planEnts (s : State) (a : Nat) : Nat → Option (List PlanEnt)
  | 0 => none
  | k + 1 =>
    let e := s.ldH a 32
    let kind := bits e 7 0
    let p0 := bits e 127 64
    let p1 := bits e 191 128
    let len := bits e 255 192
    if kind == 0 then some []
    else if 2 < kind || bits e 63 9 != 0 || len % 64 != 0 || 2 ^ 41 < p0 + len || 2 ^ 41 < p1 + len || (kind == 2 && p1 != 0) then none
    else (s.planEnts (a + 32) k).map ({ kind := kind, owned := bit e 8, p0 := p0, p1 := p1, len := len } :: ·)

/-- This module's snapshot plan. -/
def State.plan (s : State) : Option (List PlanEnt) :=
  s.planEnts (s.get F.SNP_PLAN_HI_plan_hi 0 * 2 ^ 32 + s.get F.SNP_PLAN_LO_plan 0 * 32) 256

/-- The place of a region in a bank. -/
def PlanEnt.place (e : PlanEnt) (bank : Nat) : Nat := if e.kind == 1 && bank == 1 then e.p1 else e.p0

/-- Pad to a multiple of 64 bytes (R383). -/
def align64 (bs : List Byte) : List Byte := bs ++ zeros ((64 - bs.length % 64) % 64)

/-- The lap words in effect (R383). -/
def State.lapWords (s : State) : List Byte :=
  [R.GRP_LAP_POLICY, R.GRP_LAP_LOSS_SCALE, R.GRP_LAP_CLIP, R.GRP_LAP_GATE_LIMIT, R.GRP_LAP_TAIL].flatMap
    (fun r => toBytes 4 (s.rd r 0).toNat)

/-- The lap words written back. -/
def State.putLapWords (s : State) (b : List Byte) : State :=
  ([R.GRP_LAP_POLICY, R.GRP_LAP_LOSS_SCALE, R.GRP_LAP_CLIP, R.GRP_LAP_GATE_LIMIT, R.GRP_LAP_TAIL].zipIdx).foldl
    (fun s p => s.wr p.1 0 (BitVec.ofNat 32 (at_ b (4 * p.2) 4))) s

/-- Bytes of the B16 scale table of group g: one entry of 2 bytes for each block its step list names (R343). -/
def State.scaleLen (s : State) (g : Nat) : Nat :=
  if s.grpF g 32 8 == 0 then 0
  else 2 * (((s.listRead 65536 0 0).1.filter (fun k => k.group == g && k.op == 2)).map (fun k => k.aux + (k.count + 63) / 64)).foldl max 0

/-- The group state: headers, then member array and scale table of every valid group, GRP_MBR_CFG, the route book
(R383). -/
def State.groupState (s : State) : List Byte :=
  s.ldBytes (s.grpAt 0 % 2 ^ 41) 16384
    ++ ((List.range 256).filter s.grpValid).flatMap (fun g =>
      s.ldBytes (s.grpMem g % 2 ^ 41) (16 * s.grpN g) ++ s.ldBytes (s.grpF g 32 8 % 2 ^ 41) (s.scaleLen g))
    ++ toBytes 4 (s.rd R.GRP_MBR_CFG 0).toNat
    ++ s.ldBytes (s.bookAt % 2 ^ 41) (16 * (s.get F.GRP_MBR_BOOK_HI_entries_m1 0 + 1))

/-- Every cluster's mirror, in logical order; of a cluster to which no image gave a mirror, what its pool holds. -/
def State.allMirrors (s : State) : List Byte :=
  s.allClus.flatMap (fun c => match s.mirrorAt c with
    | some a => s.ldBytes (a % 2 ^ 41) (((s.mirrorHead c ++ s.mirrorTail c).map (fun p => p.2)).foldl (· + ·) 0)
    | none => s.mirrorBytes c)

/-- Lay out sections in a stream: (kind, offset, length, place) of each, and the length of the stream; `l` gives kind,
length and place. -/
def layOut (off : Nat) : List (Nat × Nat × Nat) → List (Nat × Nat × Nat × Nat) × Nat
  | [] => ([], off)
  | (k, n, p) :: l =>
    let o := (off + 63) / 64 * 64
    let r := layOut (o + n) l
    ((k, o, n, p) :: r.1, r.2)

/-- The sections that plan entries give, from a bank. -/
def planSects (l : List PlanEnt) (bank : Nat) : List (Nat × Nat × Nat) := l.map (fun e => (e.kind, e.len, e.place bank))

/-- n bytes of a stream from lo on: `head` holds its first bytes, plan regions are read in HBM. -/
def State.streamBytes (s : State) (head : List Byte) (sects : List (Nat × Nat × Nat × Nat)) (lo n : Nat) : List Byte :=
  (List.range n).map (fun i =>
    let k := lo + i
    if k < head.length then head.getD k 0
    else match sects.find? (fun x => decide (x.1 < 0x10) && decide (x.2.1 ≤ k ∧ k < x.2.1 + x.2.2.1)) with
      | some x => Mem.get s.mem (x.2.2.2 + (k - x.2.1))
      | none => 0)

/-- The digest of chunk k under H (R388). -/
def chunkDigest (h : List Byte) (k : Nat) (bs : List Byte) : List Byte := shake256 (h ++ toBytes 4 k ++ bs) 64

/-- Post SNP_STATUS (R408). -/
def State.snpPost (s : State) (code : Nat) : State := s.post R.SNP_STATUS 0 [] code 2401

end Sys2Proof.Machine
end

