-- ==== Sys2Proof/Machine/Snap.lean ====
section
/-!
DEFINITION. Snapshots: the cut, the transfer to the buddies, the manifest, the vault (R385 to R396).
-/

namespace Sys2Proof.Machine

/-! ### Packets (R393, R394) -/

/-- The virtual channel of snapshot and fill traffic. -/
def State.snpVc (s : State) : Nat := s.get F.SNP_CFG_vc 0

/-- Can a packet leave for a bib: the route book lists it and its first hop is UP. -/
def State.snpRoute (s : State) (bib : Nat) : Bool :=
  match s.bookFind bib with
  | some e => s.linkUp (hopOf (mem.route e) 0)
  | none => false

/-- Send a packet of kinds 0x18 to 0x1A, 0x1C and 0x1D to a bib by the route book (R394). -/
def State.snpSend (s : State) (bib kind : Nat) (data : List Byte) : State :=
  match s.bookFind bib with
  | none => s
  | some e => s.sendPkt s.snpVc
      { kind := kind, group := 0, hops := mem.rlen e, epoch := 0, srcBib := s.bib, srcRank := 0, dstRank := 0,
        route := mem.route e, len := data.length, data := data } none

/-- Cut data into the packets of a chunk: `pre` goes before the 24 bytes of 0x18's fields (R394); packets hold at most
15,360 bytes, the first one d_k. -/
def chunkPkts (pre : List Byte) (lam k len : Nat) (digest data : List Byte) : List (List Byte) :=
  let room := 15360 - pre.length - 24
  let d0 := data.take (room - 64)
  let rest := cutN room data.length (data.drop (room - 64))
  let hdr (off : Nat) (first last : Bool) : List Byte :=
    pre ++ toBytes 8 lam ++ toBytes 4 k ++ toBytes 4 len ++ toBytes 4 off ++ toBytes 1 (b2n first + 2 * b2n last) ++ zeros 3
  (hdr 0 true rest.isEmpty ++ digest ++ d0)
    :: rest.zipIdx.map (fun p => hdr (room - 64 + room * p.2) false (p.2 + 1 == rest.length) ++ p.1)

/-- Send a chunk in packets. -/
def State.chunkSend (s : State) (bib lam k : Nat) (digest data : List Byte) : State :=
  (chunkPkts [] lam k data.length digest data).foldl (fun s d => s.snpSend bib 0x18 d) s

/-- The packets of a manifest (R394). -/
def manifestPkts (pre : List Byte) (lam : Nat) (m : List Byte) : List (List Byte) :=
  ((cutN (15344 - pre.length) m.length m).zipIdx).map (fun p =>
    pre ++ toBytes 8 lam ++ toBytes 4 m.length ++ toBytes 4 ((15344 - pre.length) * p.2) ++ p.1)

/-- Act on the oldest packet of a channel when it is of kind k: kinds that R331 does not check. A packet with a reserved
value, or not from a sender that `ok` takes, is dropped (R393, R394). -/
def State.onSnp (s : State) (l vc k : Nat) (ok : State → Pkt → Bool) (act : State → Pkt → State) : State :=
  match s.packetAt l vc with
  | none => s
  | some b =>
    let p := Pkt.ofBytes b
    if !s.live || p.kind != k then s
    else
      let s := s.packetTake l vc
      if Pkt.reservedSet b || !p.plainHead || p.group != 0 || p.epoch != 0 || p.elem0 != 0 || !ok s p then s else act s p

/-! ### The vault region (R392) -/

/-- Chunks of a slot. -/
def State.slotChunks (s : State) : Nat := s.get F.SNP_VAULT_HI_slot_chunks 0

/-- Bytes of a slot. -/
def State.slotSize (s : State) : Nat := 2 ^ 23 + s.slotChunks * 2 ^ 26

/-- Base of the vault region. -/
def State.vaultBase (s : State) : Nat := s.get F.SNP_VAULT_HI_base_hi 0 * 2 ^ 32 + s.get F.SNP_VAULT_LO_base 0 * 2 ^ 26

/-- Base of a ward area; of the staging area for w = 2. -/
def State.wardBase (s : State) (w : Nat) : Nat := s.vaultBase + w * (2 ^ 23 + 3 * s.slotSize)

/-- Base of slot j of ward w: its manifest area. -/
def State.slotBase (s : State) (w j : Nat) : Nat := s.wardBase w + 2 ^ 23 + j * s.slotSize

/-- A slot's record. -/
def State.slot (s : State) (w j : Nat) : VaultSlot := slGet {} s.snp.slots (3 * w + j)

/-- Replace a slot's record. -/
def State.setSlot (s : State) (w j : Nat) (x : VaultSlot) : State :=
  { s with snp := { s.snp with slots := slSet s.snp.slots (3 * w + j) x } }

/-- Is ward w enabled, on hold, and its bib. -/
def State.ward (s : State) (w : Nat) : Bool × Bool × Nat :=
  if w == 0 then (s.flag F.SNP_WARD0_en 0, s.flag F.SNP_WARD0_hold 0, s.get F.SNP_WARD0_bib 0)
  else (s.flag F.SNP_WARD1_en 0, s.flag F.SNP_WARD1_hold 0, s.get F.SNP_WARD1_bib 0)

/-- The ward that a bib names. -/
def State.wardOf (s : State) (bib : Nat) : Option Nat := [0, 1].find? (fun w => (s.ward w).1 && (s.ward w).2.2 == bib)

/-- The newest complete slot of a ward. -/
def State.newest (s : State) (w : Nat) : Option Nat :=
  [0, 1, 2].foldl (fun (b : Option Nat) j =>
    let x := s.slot w j
    if x.st != 2 then b else match b with
      | some i => if (s.slot w i).seq < x.seq then some j else b
      | none => some j) none

/-- The slot that a snapshot of lap `lam` of a ward is written to: the one being written for it, else the lowest one that
is neither the newest complete nor the keep slot (R392). -/
def State.slotFor (s : State) (w lam : Nat) : Nat :=
  match [0, 1, 2].find? (fun j => (s.slot w j).st == 1 && (s.slot w j).lap == lam) with
  | some j => j
  | none => ([0, 1, 2].find? (fun j => s.newest w != some j && !(s.slot w j).keep)).getD 0

/-! ### The cut and the run (R385, R386, R391, R395) -/

/-- The buddies with `en`. -/
def State.buddies (s : State) : List (Bool × Nat) :=
  [(s.flag F.SNP_BUDDY0_en 0, s.get F.SNP_BUDDY0_bib 0), (s.flag F.SNP_BUDDY1_en 0, s.get F.SNP_BUDDY1_bib 0)]

/-- The mean of a list of numbers as sum and count. -/
def sumN (l : List Nat) : Nat := l.foldl (· + ·) 0

/-- When every copy is settled the outcome is reported (R395, R396). -/
def State.snapSettle (s : State) : State :=
  match s.snp.run with
  | none => s
  | some r =>
    if r.copies.any (fun c => c.ok && !c.complete) then s
    else
      let n := (r.copies.filter (fun c => c.complete)).length
      let s := { s with snp := { s.snp with run := none } }
      if n == 2 then
        let costs := (s.snp.costs ++ [s.ns - r.time]).reverse.take 4
        let s := { s with snp := { s.snp with costs := costs.reverse } }
        let ms := sumN costs / (1000000 * costs.length)
        (s.puts 0 [(F.SNP_LAST_lap, r.lap), (F.SNP_COST_c_ms, min 65535 ms)]).snpPost 1
      else if n == 1 then s.snpPost 2 else s.snpPost 3

/-- The first four sections of a snapshot with the cut record (R383). -/
def State.headSects (s : State) (cut : List Byte) : List (Nat × List Byte) :=
  [(0x10, cut), (0x11, s.lapWords), (0x12, s.allMirrors), (0x13, s.groupState)]

/-- A due snapshot starts at the start hurdle with its cut record (R385, R386, R391). -/
def State.snapStart (s : State) (cut : List Byte) : State :=
  match s.snp.due with
  | none => s
  | some lam =>
    let s := { s with snp := { s.snp with due := none } }
    match s.plan with
    | none => s.snpPost 6
    | some ents =>
      let fs := s.headSects cut
      let head := fs.foldl (fun b p => align64 b ++ p.2) []
      let bank := s.get F.GRP_LAP_VERDICT_bank 0
      let lay := layOut 0 (fs.map (fun p => (p.1, p.2.length, 0)) ++ planSects ents bank)
      if 2 ^ 26 < head.length || 65535 * 2 ^ 26 < lay.2 then s.snpPost 6
      else
        let s := if s.slotChunks == 0 then s else s.stBytes (s.wardBase 2) head
        let copies := s.buddies.map (fun b => { bib := b.2, ok := b.1 && (s.bookFind b.2).isSome : SnpCopy })
        let run : SnpRun := { lap := lam, pos := s.lap.pi, time := s.ns, bank := bank, sects := lay.1, head := head,
                              bytes := lay.2, copies := copies }
        ({ s with snp := { s.snp with run := some run } }).snapSettle

/-- The first 48 bytes of the manifest: H of the digests (R388, R389). -/
def State.runH (s : State) (r : SnpRun) : List Byte :=
  toBytes 4 1 ++ toBytes 3 s.bib ++ [0] ++ toBytes 8 r.lap ++ toBytes 8 r.pos ++ toBytes 8 r.time ++ toBytes 8 r.bytes
    ++ toBytes 4 r.n ++ toBytes 4 r.sects.length

/-- The manifest before its signature (R389). -/
def State.runManifest (s : State) (r : SnpRun) (pub : List Byte) : List Byte :=
  s.runH r ++ padTo 57 pub ++ zeros 23
    ++ r.sects.flatMap (fun x => toBytes 1 x.1 ++ zeros 7 ++ toBytes 8 x.2.1 ++ toBytes 8 x.2.2.1 ++ toBytes 8 x.2.2.2)
    ++ r.digests.flatMap (padTo 64)

/-- Bytes of chunk k of a run. -/
def State.runChunk (s : State) (r : SnpRun) (k : Nat) : List Byte :=
  s.streamBytes r.head r.sects (k * 2 ^ 26) (min (2 ^ 26) (r.bytes - k * 2 ^ 26))

/-- Replace a copy of the run. -/
def State.setCopy (s : State) (i : Nat) (c : SnpCopy) : State :=
  match s.snp.run with
  | some r => { s with snp := { s.snp with run := some { r with copies := r.copies.set i c } } }
  | none => s

/-- Every chunk is acknowledged on copy i: the signed manifest goes to its buddy; without the Judge the copy fails (R390,
R395). -/
def State.manifestOut (s : State) (r : SnpRun) (i : Nat) (c : SnpCopy) : State :=
  match (if s.judgeUp then s.identity else none) with
  | some pub =>
    let m := s.runManifest r pub
    match s.idSign m with
    | some sig => (manifestPkts [] r.lap (m ++ padTo 114 sig)).foldl (fun s d => s.snpSend c.bib 0x1A d)
        (s.setCopy i { c with manifest := true })
    | none => (s.setCopy i { c with ok := false }).snapSettle
  | none => (s.setCopy i { c with ok := false }).snapSettle

/-- A run all of whose copies have failed but those that are complete. -/
def SnpRun.failed (r : SnpRun) : SnpRun :=
  { r with copies := r.copies.map (fun (c : SnpCopy) => { c with ok := c.ok && c.complete }) }

/-- Read chunk k of a stream of n bytes: the plan regions' bytes in it, as the controllers of HBM serve them (R288); true: a read
failed. -/
def State.streamMeet (s : State) (sects : List (Nat × Nat × Nat × Nat)) (n k : Nat) : State × Bool :=
  let lo := k * 2 ^ 26
  let hi := min (lo + 2 ^ 26) n
  (sects.filter (fun x => decide (x.1 < 0x10))).foldl (fun t x =>
    let a := max lo x.2.1
    let b := min hi (x.2.1 + x.2.2.1)
    if t.2 || b ≤ a then t else t.1.hbmMeet ((x.2.2.2 + (a - x.2.1)) % 2 ^ 41) (b - a)) (s, false)

/-- Read chunk k of a run (R258); true: a read failed. -/
def State.runMeet (s : State) (r : SnpRun) (k : Nat) : State × Bool := s.streamMeet r.sects r.bytes k

/-- The next chunk is digested and goes out on every copy; a copy whose first hop is not UP fails (R388, R395). -/
def State.chunkOut (s : State) (r : SnpRun) (bs : List Byte) : State :=
  let d := chunkDigest (s.runH r) r.next bs
  let copies := r.copies.map (fun c => { c with ok := c.ok && (c.complete || s.snpRoute c.bib) })
  let r' := { r with next := r.next + 1, digests := r.digests ++ [d], copies := copies, sent := slSet r.sent r.next bs }
  let s := { s with snp := { s.snp with run := some r' } }
  (copies.foldl (fun s c => if c.ok then s.chunkSend c.bib r.lap r.next d bs else s) s).snapSettle

/-- SNAPSHOT_TRANSFER: the next chunk is read and sent: see State.chunkOut. One sent before Blocks is what was read then (R405); where a
read of HBM fails, no copy can hold the chunk and all fail (R258, R390, log 127). -/
def execSnapshotTransfer (s : State) : Host.Outcome State Fault Refusal :=
  .next (match s.snp.run with
  | none => s
  | some r =>
    if !s.live || r.n ≤ r.next then s
    else match slFind r.sent r.next with
      | some bs => s.chunkOut r bs
      | none =>
        let t := s.runMeet r r.next
        if t.2 then
          ({ t.1 with snp := { t.1.snp with run := some r.failed } }).snapSettle
        else t.1.chunkOut r (t.1.runChunk r r.next))

/-- The copy of the run whose buddy sent a packet. -/
def State.copyOf (s : State) (p : Pkt) : Option (SnpRun × Nat × SnpCopy) :=
  match s.snp.run with
  | none => none
  | some r =>
    if p.f 0 8 != r.lap then none
    else (r.copies.zipIdx.find? (fun x => x.1.bib == p.srcBib && x.1.ok && !x.1.complete)).map (fun x => (r, x.2, x.1))

/-- Does a 0x19 packet come from a buddy, with no reserved value (R393, R394). -/
def State.ackOk (s : State) (p : Pkt) : Bool :=
  s.buddies.any (fun b => b.1 && b.2 == p.srcBib) && decide (p.f 12 1 ≤ 1) && p.f 13 3 == 0

/-- The bytes of chunk k are let go when every copy that has not failed has acknowledged it. -/
def State.sentDrop (s : State) (k : Nat) : State :=
  match s.snp.run with
  | some r =>
    if r.copies.all (fun c => !c.ok || c.complete || c.acks.contains k) then
      { s with snp := { s.snp with run := some { r with sent := slDel r.sent k } } }
    else s
  | none => s

/-- A buddy has failed, or is out of reach: its copy fails (R405). `lost`: bibs of modules that a decree removed, or that have failed. -/
def State.buddyLost (s : State) (lost : Nat → Bool) : State :=
  match s.snp.run with
  | some r =>
    let copies := r.copies.map (fun c => { c with ok := c.ok && (c.complete || (s.snpRoute c.bib && !lost c.bib)) })
    if copies == r.copies then s
    else ({ s with snp := { s.snp with run := some { r with copies := copies } } }).snapSettle
  | none => s

/-- An acknowledgement of chunk k: a match advances the copy, and its manifest waits for a mailbox command that the Judge runs (R481); a mismatch resends the chunk once, and the second of a
chunk fails the copy (R395). -/
def State.chunkAck (s : State) (p : Pkt) : State :=
  match s.copyOf p with
  | none => s
  | some (r, i, c) =>
    let k := p.f 8 4
    if r.next ≤ k then s
    else if p.f 12 1 == 0 then
      let c := if c.acks.contains k then c else { c with acks := c.acks ++ [k] }
      let s := (s.setCopy i c).sentDrop k
      if c.acks.length == r.n && !c.manifest && !(s.judgeUp && !s.judgeFree) then s.manifestOut r i c else s
    else if c.resent.contains k then (s.setCopy i { c with ok := false }).snapSettle
    else (s.setCopy i { c with resent := c.resent ++ [k] }).chunkSend c.bib r.lap k (r.digests.getD k [])
      ((slFind r.sent k).getD (s.runChunk r k))

/-- Manifests that waited for the Judge's running command go out (R481). -/
def State.manifestLate (s : State) : State :=
  match s.snp.run with
  | none => s
  | some r => r.copies.zipIdx.foldl (fun s p =>
    if p.1.ok && p.1.acks.length == r.n && !p.1.manifest && r.next == r.n then s.manifestOut r p.2 p.1 else s) s

/-- Does a 0x19 packet acknowledge a manifest (log 53). -/
def Pkt.ofManifest (p : Pkt) : Bool := p.f 8 4 == 0xFFFFFFFF

/-- CHUNK_ACK: see State.chunkAck. -/
def execChunkAck (l : Link) (vc : Fin 4) (s : State) : Host.Outcome State Fault Refusal :=
  .next (s.onSnp l vc 0x19 State.ackOk (fun s p => if p.ofManifest then s else s.chunkAck p))

/-- The buddy's word on the manifest: the copy is complete, or fails (R395). -/
def State.manifestAck (s : State) (p : Pkt) : State :=
  match s.copyOf p with
  | some (_, i, c) =>
    if !c.manifest then s
    else (s.setCopy i (if p.f 12 1 == 0 then { c with complete := true } else { c with ok := false })).snapSettle
  | none => s

/-- MANIFEST_ACKNOWLEDGEMENT: see State.manifestAck. -/
def execManifestAcknowledgement (l : Link) (vc : Fin 4) (s : State) : Host.Outcome State Fault Refusal :=
  .next (s.onSnp l vc 0x19 State.ackOk (fun s p => if p.ofManifest then s.manifestAck p else s))

/-! ### The vault side (R392, R395) -/

/-- Act on a packet of an enabled ward that is not on hold; from any other sender it is dropped, and `code` reported of a chunk
(R392, R393, R408). -/
def State.wardCheck (s : State) (p : Pkt) (code : Option Nat) (act : State → Nat → State) : State :=
  let no := match code with
    | some k => s.snpPost k
    | none => s
  match s.wardOf p.srcBib with
  | some w => if (s.ward w).2.1 then no else act s w
  | none => no

/-- Reserved values of the fields of a chunk packet that begin at byte o (R394). -/
def chunkHdrOk (p : Pkt) (o : Nat) : Bool := decide (p.f (o + 20) 1 ≤ 3) && p.f (o + 21) 3 == 0

/-- The key of a chunk in flight from a ward. -/
def rxKey (w : Nat) : Nat := w

/-- A chunk packet of a ward: its bytes are gathered, with the digest that the first one brings; with the last one the chunk is written to the slot and acknowledged.
The digest needs bytes of the manifest that the buddy does not hold yet (R388): its outcome is a free value (log 53). -/
def State.chunkIn (s : State) (p : Pkt) (w : Nat) : State :=
  let lam := p.f 0 8
  let k := p.f 8 4
  let first := p.f 20 1 % 2 == 1
  let last := 2 ≤ p.f 20 1
  let before := slGet ([], []) s.snp.rxBuf (rxKey w)
  let digest := if first then ((p.data.take p.len).drop 24).take 64 else before.1
  let got := if first then (p.data.take p.len).drop 88 else before.2 ++ (p.data.take p.len).drop 24
  let j := s.slotFor w lam
  let x := s.slot w j
  let x := if x.st == 1 && x.lap == lam then x else { lap := lam, st := 1 }
  let s := s.setSlot w j x
  if !last then { s with snp := { s.snp with rxBuf := slSet s.snp.rxBuf (rxKey w) (digest, got) } }
  else if s.slotChunks ≤ k then { s with snp := { s.snp with rxBuf := slDel s.snp.rxBuf (rxKey w) } }
  else
    let bad := Config.free s.freeCtr % 2
    let s := { s with freeCtr := s.freeCtr + 1, snp := { s.snp with rxBuf := slDel s.snp.rxBuf (rxKey w) } }
    let s := s.stBytes (s.slotBase w j + 2 ^ 23 + k * 2 ^ 26) got
    let s := s.setSlot w j { x with chunks := slSet x.chunks k got.length, digests := slSet x.digests k digest }
    s.snpSend p.srcBib 0x19 (toBytes 8 lam ++ toBytes 4 k ++ toBytes 1 bad ++ zeros 3)

/-- CHUNK_TO_BUDDY: see State.chunkIn. -/
def execChunkToBuddy (l : Link) (vc : Fin 4) (s : State) : Host.Outcome State Fault Refusal :=
  .next (s.onSnp l vc 0x18 (fun _ p => chunkHdrOk p 0) (fun s p => s.wardCheck p (some 5) (fun s w => s.chunkIn p w)))

/-- Bytes of a manifest by its own counts (R389). -/
def manifestLen (m : List Byte) : Nat := 128 + 32 * at_ m 44 4 + 64 * at_ m 40 4 + 114

/-- A manifest's signature under a key (R390). -/
def manifestSig (key m : List Byte) : Bool :=
  let n := m.length - 114
  ed448Verify key (m.take n) (m.drop n)

/-- Section j of a manifest: kind, offset, length. -/
def manifestSect (m : List Byte) (j : Nat) : Nat × Nat × Nat :=
  let o := 128 + 32 * j
  (at_ m o 1, at_ m (o + 8) 8, at_ m (o + 16) 8)

/-- Digest d_k of a manifest. -/
def manifestDigest (m : List Byte) (k : Nat) : List Byte := (m.drop (128 + 32 * at_ m 44 4 + 64 * k)).take 64

/-- Is a whole manifest of a ward good: format, writer, lap, signature, and every digest against the chunks held and the digests that
came with them (R395). -/
def State.manifestGood (s : State) (w j bib : Nat) (m : List Byte) : Bool :=
  let x := s.slot w j
  at_ m 0 4 == 1 && at_ m 4 3 == bib && at_ m 8 8 == x.lap && m.length == manifestLen m
    && manifestSig ((m.drop 48).take 57) m
    && (List.range (at_ m 40 4)).all (fun k => match slFind x.chunks k with
      | some n => chunkDigest (m.take 48) k (s.ldBytes (s.slotBase w j + 2 ^ 23 + k * 2 ^ 26) n) == manifestDigest m k
          && slFind x.digests k == some (manifestDigest m k)
      | none => false)

/-- The slot of a ward is complete: it is the newest; at a multiple of the keep interval it becomes the keep slot, and the
one before is freed (R392). -/
def State.slotDone (s : State) (w j : Nat) : State :=
  let x := s.slot w j
  let top := ([0, 1, 2].map (fun i => (s.slot w i).seq)).foldl max 0
  let keep := x.lap % 2 ^ s.get F.SNP_INTERVAL_keep_log2 0 == 0
  let s := if keep then [0, 1, 2].foldl (fun s i => if (s.slot w i).keep then s.setSlot w i {} else s) s else s
  s.setSlot w j { x with st := 2, keep := keep, seq := top + 1 }

/-- A manifest packet of a ward: with the last byte the manifest is written and checked, the slot is complete, and the
buddy acknowledges (R395). -/
def State.manifestIn (s : State) (p : Pkt) (w : Nat) : State :=
  let lam := p.f 0 8
  let len := p.f 8 4
  let off := p.f 12 4
  let bs := (p.data.take p.len).drop 16
  let j := s.slotFor w lam
  let x := s.slot w j
  if x.st != 1 || x.lap != lam || 2 ^ 23 < len then s
  else
    let m := if off == 0 then bs else x.manifest ++ bs
    let s := s.setSlot w j { x with manifest := m }
    if m.length < len then s
    else
      let s := s.stBytes (s.slotBase w j) m
      let good := s.manifestGood w j p.srcBib m
      let s := if good then s.slotDone w j else s
      s.snpSend p.srcBib 0x19 (toBytes 8 lam ++ toBytes 4 0xFFFFFFFF ++ toBytes 1 (b2n !good) ++ zeros 3)

/-- MANIFEST_TO_BUDDY: see State.manifestIn. -/
def execManifestToBuddy (l : Link) (vc : Fin 4) (s : State) : Host.Outcome State Fault Refusal :=
  .next (s.onSnp l vc 0x1A (fun _ _ => true) (fun s p => s.wardCheck p none (fun s w => s.manifestIn p w)))

/-! ### When to snapshot (R396) -/

/-- A write of `now`: the next commit is a snapshot lap (R396). -/
def State.snpNow (s : State) : State := { s with snp := { s.snp with now := true } }

/-- SNP_NOW: see State.snpNow. -/
def execSnpNow (s : State) : Host.Outcome State Fault Refusal := .next (s.whenServed .snap 0 0 s.snpNow)

/-- The largest i up to k with l^2 * 4^i at most x, or 0. -/
def floorLog (x l2 : Nat) : Nat → Nat
  | 0 => 0
  | k + 1 => if l2 * 4 ^ (k + 1) ≤ x then k + 1 else floorLog x l2 k

/-- i after a commit (R396): the largest i up to `keep_log2` with 2^i at most T / l, T^2 = 2 C M, in exact arithmetic. -/
def State.interval (s : State) : Nat :=
  let keep := s.get F.SNP_INTERVAL_keep_log2 0
  if s.flag F.SNP_INTERVAL_fixed 0 then keep
  else
    let cs := s.snp.costs
    let c := if cs.isEmpty then (s.get F.SNP_COST_c_init_ms 0 * 1000000, 1) else (sumN cs, cs.length)
    let m := if s.get F.SNP_MTBF_m_s 0 != 0 then (s.get F.SNP_MTBF_m_s 0 * 1000000000, 1)
      else (s.ns - s.snp.since, max 1 s.snp.epochs)
    let n := s.snp.lapNs.length
    let l := sumN s.snp.lapNs
    if l == 0 then 0 else floorLog (2 * c.1 * m.1 * n * n) (c.2 * m.2 * l * l) keep

/-- The commit of lap `lam`: it is a snapshot lap by the interval of the commit before, or by `now`; while a snapshot runs
it is skipped (R396, R405). -/
def State.snapDue (s : State) (lam : Nat) : State :=
  let i := s.get F.SNP_INTERVAL_i_log2 0
  let hit := (s.flag F.SNP_CFG_enable 0 && lam % 2 ^ i == 0) || s.snp.now
  let s := if !hit then s
    else if s.snp.run.isSome then s.snpPost 4
    else { s with snp := { s.snp with due := some lam } }
  ({ s with snp := { s.snp with now := false } }).put F.SNP_INTERVAL_i_log2 0 s.interval

end Sys2Proof.Machine
end

