-- ==== Sys2Proof/Machine/Restore.lean ====
section
/-!
DEFINITION. Restore from a snapshot (R397 to R399).
-/

namespace Sys2Proof.Machine

/-! ### The descriptor (R397) -/

def rst.lap (d : List Byte) : Nat := at_ d 0 8
def rst.bib (d : List Byte) : Nat := at_ d 8 3
def rst.epoch (d : List Byte) : Nat := at_ d 20 4
def rst.start (d : List Byte) : Nat := at_ d 24 8
def rst.local_ (d : List Byte) : Nat := at_ d 32 8 % 2 ^ 41

/-- The bib of source 1 or 2. -/
def rst.src (d : List Byte) (i : Nat) : Nat := if i == 1 then at_ d 11 3 else at_ d 14 3

/-- The bib that takes the place of another by the replacement list (R399). -/
def State.swapped (s : State) (d : List Byte) (bib : Nat) : Nat :=
  let a := at_ d 48 8 % 2 ^ 41
  match (List.range (min 4096 (at_ d 56 2))).find? (fun i => s.ldH (a + 8 * i) 3 == bib) with
  | some i => s.ldH (a + 8 * i + 3) 3
  | none => bib

/-- Is a manifest the one that the descriptor asks for, signed under the expected key (R398). -/
def State.manifestFits (s : State) (d m : List Byte) : Bool :=
  at_ m 0 4 == 1 && at_ m 4 3 == rst.bib d && at_ m 8 8 == rst.lap d && m.length == manifestLen m
    && manifestSig (s.ldBytes (at_ d 40 8 % 2 ^ 41) 57) m

/-! ### The checks of step 4 and the group state (R387, R398, R399) -/

/-- Section i of a stream by its manifest. -/
def sectBytes (m stream : List Byte) (i : Nat) : List Byte :=
  let x := manifestSect m i
  (stream.drop x.2.1).take x.2.2

/-- Do the manifest's sections match this module's plan in kind and length (R398). -/
def planMatches (m : List Byte) (ents : List PlanEnt) : Bool :=
  let n := at_ m 44 4
  n == 4 + ents.length
    && (List.range 4).all (fun j => (manifestSect m j).1 == 0x10 + j)
    && ents.zipIdx.all (fun p => (manifestSect m (4 + p.2)).1 == p.1.kind && (manifestSect m (4 + p.2)).2.2 == p.1.len)

/-- The valid groups of a group state section, with the offset of their member arrays: `len` gives the length of a
group's scale table. -/
def groupsOf (b : List Byte) (len : Nat → Nat) : Nat → Nat → Nat → List (Nat × Nat)
  | 0, _, _ => []
  | k + 1, g, off =>
    if bit (at_ b (64 * g + 15) 1) 0 then
      (g, off) :: groupsOf b len k (g + 1) (off + 16 * at_ b (64 * g + 8) 4 + len g)
    else groupsOf b len k (g + 1) off

/-- The groups of the group state section of a restore. -/
def State.restGroups (s : State) (b : List Byte) : List (Nat × Nat) := groupsOf b s.scaleLen 256 0 16384

/-- The member entry of rank r as a restore rebuilds it: bib replaced, route by the own route book; none when a live bib
is missing there (R399). -/
def State.restEntry (s : State) (d b : List Byte) (g off r : Nat) : Option Nat :=
  let e := at_ b (off + 16 * r) 16
  if mem.hole e then some e
  else
    let bib := s.swapped d (mem.bib e)
    if r == at_ b (64 * g + 12) 2 then some bib
    else (s.bookFind bib).map (fun x => bib + mem.rlen x * 2 ^ 32 + mem.route x * 2 ^ 48)

/-- Rebuild and advance a group (R399): its header's self rank, tree and headroom and its scale table come from the
snapshot, the array goes to `next_ptr`. -/
def State.restGroup (s : State) (d b : List Byte) (g off : Nat) : State :=
  let h := 64 * g
  let n := at_ b (h + 8) 4
  let ents := (List.range n).map (fun r => (s.restEntry d b g off r).getD 0)
  let s := ((s.setGrpF g 8 4 n).setGrpF g 12 2 (at_ b (h + 12) 2)).setGrpF g 14 1 (at_ b (h + 14) 1)
  let s := (s.setGrpF g 40 1 (at_ b (h + 40) 1)).setGrpF g 44 8 (at_ b (h + 44) 8)
  let s := s.stBytes (s.grpF g 32 8 % 2 ^ 41) ((b.drop (off + 16 * n)).take (s.scaleLen g))
  let s := s.stBytes (s.grpF g 24 8 % 2 ^ 41) (ents.flatMap (toBytes 16))
  let s := s.setGrpF g 4 4 (rst.epoch d)
  let s := s.setGrpF g 15 1 (at_ b (h + 15) 1 % 16 / 4 * 4 + 3)
  s.advance g

/-- End a restore with a code. -/
def State.restEnd (s : State) (code : Nat) : State := ({ s with snp := { s.snp with restore := none } }).snpPost code

/-- Every chunk is held and good: the checks of step 4, then steps 5 and 6 (R398). -/
def State.restApply (s : State) (d m stream : List Byte) : State :=
  let cut := sectBytes m stream 0
  let grp := sectBytes m stream 3
  let gs := s.restGroups grp
  match s.plan with
  | none => s.restEnd 6
  | some ents =>
    if !planMatches m ents then s.restEnd 6
    else if !cutOk cut (at_ m 8 8) (at_ m 16 8) s.allClus.length then s.restEnd 0x0A
    else if gs.any (fun p => decide (rst.epoch d ≤ s.grpEpoch p.1)) then s.restEnd 0x0B
    else if gs.any (fun p => (List.range (at_ grp (64 * p.1 + 8) 4)).any (fun r => (s.restEntry d grp p.1 p.2 r).isNone)) then
      s.restEnd 0x0C
    else
      let bank := at_ cut 24 1 % 2
      let s := ents.zipIdx.foldl (fun s p => s.stBytes (p.1.place bank) (sectBytes m stream (4 + p.2))) s
      let s := s.put F.GRP_LAP_VERDICT_bank 0 bank
      let s := (s.allClus.foldl (fun (r : State × List Byte) c =>
        let x := r.1.mirrorPut c r.2
        (x.1.mirrorSave c, x.2)) (s, sectBytes m stream 2)).1
      let s := (s.putLapWords (sectBytes m stream 1)).cutCounters cut
      let s := ({ s with lap := { s.lap with replay := true, step := 0, lamSet := false, piSet := false } }).lapNow
        ((at_ m 8 8 + 1) % 2 ^ 64) (at_ m 16 8)
      let s := gs.foldl (fun s p => s.restGroup d grp p.1 p.2) s
      let s := { s with snp := { s.snp with since := s.ns, epochs := 0, fills := [] } }
      (s.armLap (rst.start d)).restEnd 7

/-! ### Fetching (R398) -/

/-- Ask source i for an item of the snapshot. -/
def State.restAsk (s : State) (d : List Byte) (i item : Nat) : State :=
  s.snpSend (rst.src d i) 0x1C (toBytes 8 (rst.lap d) ++ toBytes 3 (rst.bib d) ++ [0] ++ toBytes 4 item)

/-- Replace the restore. -/
def State.setRest (s : State) (r : Restore) : State := { s with snp := { s.snp with restore := some r } }

/-- Bytes of chunk k by a manifest. -/
def chunkLen (m : List Byte) (k : Nat) : Nat := min (2 ^ 26) (at_ m 32 8 - k * 2 ^ 26)

/-- Take chunks from the present source on: a local copy is read at once, and fails where its read does (log 127); a remote one is asked for, unless no route leads there. `n` bounds the number
of chunks and of changes of source. -/
def State.restChunks (s : State) (r : Restore) (m : List Byte) : Nat → State
  | 0 => s.setRest r
  | n + 1 =>
    if at_ m 40 4 ≤ r.chunk then (s.setRest r).restApply r.desc m r.got
    else if r.src != 0 && s.snpRoute (rst.src r.desc r.src) then (s.setRest { r with buf := [] }).restAsk r.desc r.src r.chunk
    else
      let a := rst.local_ r.desc + 2 ^ 23 + r.chunk * 2 ^ 26
      let t := if r.src == 0 then s.hbmMeet (a % 2 ^ 41) (chunkLen m r.chunk) else (s, true)
      let s := t.1
      let bs := s.ldBytes a (chunkLen m r.chunk)
      if !t.2 && chunkDigest (m.take 48) r.chunk bs == manifestDigest m r.chunk then
        s.restChunks { r with got := r.got ++ bs, chunk := r.chunk + 1, src := r.home, srcs := r.rest } m n
      else match r.srcs with
        | [] => s.restEnd 9
        | i :: l => s.restChunks { r with src := i, srcs := l } m n

/-- Look for the manifest at the next source (R398, step 2). -/
def State.restSearch (s : State) (r : Restore) : List Nat → State
  | [] => s.restEnd 8
  | i :: l =>
    if i != 0 then
      (if s.snpRoute (rst.src r.desc i) then (s.setRest { r with src := i, srcs := l, buf := [] }).restAsk r.desc i 0xFFFFFFFF
       else s.restSearch r l)
    else
      let a := rst.local_ r.desc
      let m := s.ldBytes a (manifestLen (s.ldBytes a 128))
      if a != 0 && manifestLen (s.ldBytes a 128) ≤ 2 ^ 23 && s.manifestFits r.desc m then
        s.restChunks { r with src := 0, srcs := l, home := 0, rest := l, manifest := some m } m 200000
      else s.restSearch r l

/-- A source that does not hold the snapshot, or cannot be reached, sends nothing: the item is looked for at the next one. When that
shows, the rules do not say: a free value (R398, log 129). -/
def State.restWait (s : State) : State :=
  match s.snp.restore with
  | none => s
  | some r =>
    if r.src == 0 || !s.live then s
    else
      let t := { s with freeCtr := s.freeCtr + 1 }
      if Config.free s.freeCtr % 2 == 0 then t
      else match r.manifest, r.srcs with
        | none, l => t.restSearch r l
        | some _, [] => t.restEnd 9
        | some m, i :: l => t.restChunks { r with src := i, srcs := l, buf := [] } m 200000

/-- Buddies that fail, or lose power, while a snapshot runs, show it by sending nothing more: which do, and when, is a free value
(R405, log 129). -/
def State.buddyWait (s : State) : State :=
  match s.snp.run with
  | none => s
  | some r =>
    if !s.live then s
    else
      let n := Config.free s.freeCtr
      ({ s with freeCtr := s.freeCtr + 1 }).buddyLost (fun b => r.copies.zipIdx.any (fun c => c.1.bib == b && bit n c.2))

/-- A write of `restore` (R397, R398): the start timer is disarmed, a running lap is abandoned, snapshots and fills stop;
then the manifest is looked for. While a restore runs it is ignored (R405). -/
def State.snpRestore (s : State) : State :=
  if s.snp.restore.isSome || !s.live then s
  else
    let a := s.get F.SNP_RESTORE_HI_desc_hi 0 * 2 ^ 32 + s.get F.SNP_RESTORE_LO_desc 0 * 64
    let d := s.ldBytes (a % 2 ^ 41) 64
    let s := s.put F.PCR_SPT_CTRL_arm 0 0
    let s := { s with pacer := { s.pacer with lapDue := none } }
    let s := if s.lap.step == 0 then s else s.allClus.foldl State.abandon s
    let s := { s with snp := { s.snp with run := none, due := none, own := none, serve := [], late := [] } }
    s.restSearch { desc := d, srcs := [] } [0, 1, 2]

/-- SNP_RESTORE: see State.snpRestore. -/
def execSnpRestore (s : State) : Host.Outcome State Fault Refusal := .next (s.whenServed .snap 0 0 s.snpRestore)

/-! ### The vault holder's side -/

/-- RESTORE_FETCH_REQUEST: a vault holder with a complete slot of that writer and lap sends the manifest or the chunk; one
without, or one whose read of the chunk fails (log 127), sends nothing (R394, R398). -/
def State.restServe (s : State) (p : Pkt) : State :=
  let bib := p.f 8 3
  let lam := p.f 0 8
  match s.wardOf bib with
  | none => s
  | some w =>
    match [0, 1, 2].find? (fun j => (s.slot w j).st == 2 && (s.slot w j).lap == lam) with
    | none => s
    | some j =>
      let pre := toBytes 3 bib ++ [0]
      let x := s.slot w j
      if p.f 12 4 == 0xFFFFFFFF then
        (manifestPkts pre lam x.manifest).foldl (fun s d => s.snpSend p.srcBib 0x1D d) s
      else match slFind x.chunks (p.f 12 4) with
        | none => s
        | some n =>
          let a := s.slotBase w j + 2 ^ 23 + p.f 12 4 * 2 ^ 26
          let r := s.hbmMeet (a % 2 ^ 41) n
          if r.2 then r.1
          else
          let s := r.1
          let bs := s.ldBytes a n
          (chunkPkts pre lam (p.f 12 4) n (manifestDigest x.manifest (p.f 12 4)) bs).foldl (fun s d => s.snpSend p.srcBib 0x1D d) s

/-- RESTORE_FETCH_REQUEST: see State.restServe. -/
def execRestoreFetchRequest (l : Link) (vc : Fin 4) (s : State) : Host.Outcome State Fault Refusal :=
  .next (s.onSnp l vc 0x1C (fun _ p => p.f 11 1 == 0) State.restServe)

/-- Does a reply come from the source asked, for the snapshot asked (R393). -/
def State.replyOk (s : State) (p : Pkt) : Bool :=
  match s.snp.restore with
  | some r => r.src != 0 && p.srcBib == rst.src r.desc r.src && p.f 3 1 == 0 && p.f 0 3 == rst.bib r.desc && p.f 4 8 == rst.lap r.desc
  | none => false

/-- A reply packet: bytes of the manifest, or of the chunk asked for; when the item is whole it is checked (R398). -/
def State.restReply (s : State) (p : Pkt) : State :=
  match s.snp.restore with
  | none => s
  | some r =>
    match r.manifest with
    | none =>
      let bs := (p.data.take p.len).drop 20
      let m := if p.f 16 4 == 0 then bs else r.buf ++ bs
      if m.length < p.f 12 4 then s.setRest { r with buf := m }
      else if s.manifestFits r.desc m then s.restChunks { r with manifest := some m, buf := [], home := r.src, rest := r.srcs } m 200000
      else s.restSearch r r.srcs
    | some m =>
      if p.f 12 4 != r.chunk || !chunkHdrOk p 4 then s
      else
        let first := p.f 24 1 % 2 == 1
        let body := (p.data.take p.len).drop 28
        let buf := if first then body.drop 64 else r.buf ++ body
        if p.f 24 1 < 2 then s.setRest { r with buf := buf }
        else if chunkDigest (m.take 48) r.chunk buf == manifestDigest m r.chunk && buf.length == chunkLen m r.chunk then
          s.restChunks { r with got := r.got ++ buf, chunk := r.chunk + 1, buf := [], src := r.home, srcs := r.rest } m 200000
        else match r.srcs with
          | [] => s.restEnd 9
          | i :: l => s.restChunks { r with src := i, srcs := l, buf := [] } m 200000

/-- RESTORE_FETCH_REPLY: see State.restReply. -/
def execRestoreFetchReply (l : Link) (vc : Fin 4) (s : State) : Host.Outcome State Fault Refusal :=
  .next (s.onSnp l vc 0x1D State.replyOk State.restReply)

end Sys2Proof.Machine
end

