-- ==== Sys2Proof/Machine/Fill.lean ====
section
/-!
DEFINITION. Lap cuts and spare fills (R400 to R404), and the decrees that open them (R367, R368).
-/

namespace Sys2Proof.Machine

/-! ### Lap cuts (R401) -/

/-- The data-parallel gate group. -/
def State.dp (s : State) : Nat := (s.gates.map (fun p => p.1)).getD 0

/-- The live ranks after rank r, in ascending order and wrapping (R400). -/
def State.afterRank (s : State) (g r : Nat) : List Nat :=
  let l := s.liveRanks g
  l.filter (r < ·) ++ l.filter (· < r)

/-- Send packets of group g to rank r on the snapshot channel (R393). -/
def State.dpSend (s : State) (r kind : Nat) (data : List Byte) : State :=
  s.sendPkt s.snpVc (s.grpPkt s.dp r kind data) none

/-- Send the cut record of a rank to a rank (R394, 0x1B). -/
def State.cutSend (s : State) (dst rank : Nat) (cut : List Byte) : State :=
  ((cutN 15336 cut.length cut).zipIdx).foldl (fun s p =>
    s.dpSend dst 0x1B (toBytes 8 (at_ cut 0 8) ++ toBytes 2 rank ++ zeros 2 ++ toBytes 4 cut.length ++ toBytes 4 (15336 * p.2)
      ++ zeros 4 ++ p.1)) s

/-- The cut record of this start hurdle goes to the two successors (R401). -/
def State.cutOut (s : State) (cut : List Byte) : State :=
  match s.gates with
  | some (g, _) =>
    if s.grpValid g then ((s.afterRank g (s.grpSelf g)).take 2).foldl (fun s r => s.cutSend r (s.grpSelf g) cut) s else s
  | none => s

/-- The lap cut of a rank that a replay of lap `lam` at `pi` needs, when it is held. -/
def State.heldCut (s : State) (rank lam pi : Nat) : Option (List Byte) :=
  ((slGet [] s.snp.cuts rank).find? (fun p => (p.1 + 1) % 2 ^ 64 == lam && at_ p.2 8 8 == pi)).map (fun p => p.2)

/-- Key of a lap cut in flight. -/
def cutKey (rank : Nat) : Nat := 65536 + rank

/-! ### The fill stream (R402) -/

/-- The sections of the fill stream with the plan entries that have no `owned`. -/
def State.fillHead (s : State) : List Byte :=
  [s.lapWords, s.allMirrors, s.groupState].foldl (fun b p => align64 b ++ p) []

/-- The layout of the fill stream: its sections and its length. -/
def State.fillLay (s : State) : List (Nat × Nat × Nat × Nat) × Nat :=
  let ents := (s.plan.getD []).filter (fun e => !e.owned)
  layOut 0 ([(0x11, s.lapWords.length, 0), (0x12, s.allMirrors.length, 0), (0x13, s.groupState.length, 0)]
    ++ planSects ents (s.get F.GRP_LAP_VERDICT_bank 0))

/-- Chunks of the fill stream. -/
def State.fillN (s : State) : Nat := (s.fillLay.2 + 2 ^ 26 - 1) / 2 ^ 26

/-- Bytes of chunk k of the fill stream. -/
def State.fillBytes (s : State) (k : Nat) : List Byte :=
  s.streamBytes s.fillHead s.fillLay.1 (k * 2 ^ 26) (min (2 ^ 26) (s.fillLay.2 - k * 2 ^ 26))

/-! ### Open fills (R403) -/

/-- Does a fill come before another: by epoch, then rank. -/
def FillRec.le (a b : FillRec) : Bool := decide (a.epoch < b.epoch) || (a.epoch == b.epoch && decide (a.rank ≤ b.rank))

/-- Sort fills in the order in which they open. -/
def fillSort : List FillRec → List FillRec
  | [] => []
  | x :: xs => let l := fillSort xs; l.takeWhile (fun y => y.le x) ++ x :: l.dropWhile (fun y => y.le x)

/-- The fills that may run: the first 4 not done. -/
def State.openFills (s : State) : List FillRec := (fillSort (s.snp.fills.filter (fun f => !f.done))).take 4

/-- The replica holders of a rank: live ranks after it whose own fills are not open (R400). -/
def State.holders (s : State) (rank : Nat) : List Nat :=
  (s.afterRank s.dp rank).filter (fun r => !s.snp.fills.any (fun f => !f.done && f.rank == r))

/-- Mark a fill done, or hold for rollback. -/
def State.fillMark (s : State) (rank epoch : Nat) (rollback : Bool) : State :=
  { s with snp := { s.snp with fills := s.snp.fills.map (fun (f : FillRec) =>
      if f.rank == rank && f.epoch == epoch then { f with done := true, rollback := rollback } else f) } }

/-- The spare's fill done to every live member, on the membership channel (R393, R403). -/
def State.fillTell (s : State) (f : OwnFill) (rollback : Bool) : State :=
  let data := toBytes 4 f.epoch ++ toBytes 2 f.rank ++ toBytes 1 (b2n rollback) ++ [0] ++ toBytes 3 f.failed ++ toBytes 3 s.bib
    ++ zeros 2 ++ toBytes 8 f.lap
  let s := ((s.liveRanks s.dp).filter (· != s.grpSelf s.dp)).foldl (fun s r => s.mbrSend s.dp r 0x23 data) s
  let s := ({ s with snp := { s.snp with own := none } }).fillMark f.rank f.epoch rollback
  s.snpPost (if rollback then 0x10 else 0x0D)

/-- The spare's request to a holder, for chunks from `next` on (R394, 0x20). -/
def State.fillAsk (s : State) (f : OwnFill) (holder : Nat) : State :=
  let req := toBytes 4 1 ++ toBytes 3 f.failed ++ [0] ++ toBytes 8 f.lap ++ toBytes 8 f.pos ++ toBytes 4 f.epoch ++ toBytes 2 f.rank
    ++ zeros 2 ++ toBytes 4 f.next ++ zeros 4 ++ toBytes 8 s.ns
  let s := { s with snp := { s.snp with own := some { f with
    holder := holder, req := req, olds := if f.req.isEmpty then f.olds else f.olds ++ [f.req], buf := [], digest := [], resent := false } } }
  s.dpSend holder 0x20 req

/-- Start this module's own fill, when it is open and not yet begun (R400, R403, R404). -/
def State.fillStart (s : State) (r : FillRec) : State :=
  let f : OwnFill := { rank := r.rank, epoch := r.epoch, failed := r.failed, lap := s.lap.lam, pos := s.lap.pi, holder := 0 }
  let owned := match s.plan with
    | some l => l.any (fun e => e.owned)
    | none => false
  match s.holders r.rank with
  | h :: _ => if owned then s.fillTell f true else s.fillAsk f h
  | [] => s.fillTell f true

/-- Move this module's fill to the next replica holder after the present one (R402). -/
def State.fillMove (s : State) (f : OwnFill) : State :=
  let l := s.holders f.rank
  match (l.dropWhile (· != f.holder)).drop 1 ++ (if l.contains f.holder then [] else l.filter (f.holder < ·) ++ l.filter (· < f.holder)) with
  | h :: _ => (s.fillAsk f h).snpPost 0x0E
  | [] => s.fillTell f true

/-- Send a chunk of a fill this module serves (R394, 0x21). DESIGN CHOICE (log 127): one whose read fails does not leave. -/
def State.serveChunk (s : State) (v : FillServe) : State :=
  let r := s.streamMeet s.fillLay.1 s.fillLay.2 v.chunk
  let s := r.1
  if r.2 then s
  else
  let bs := s.fillBytes v.chunk
  let d := chunkDigest v.req v.chunk bs
  let pre := (v.req.drop 24).take 6 ++ zeros 2
  (chunkPkts pre (at_ v.req 8 8) v.chunk bs.length d bs).foldl (fun s b => s.dpSend v.spareRank 0x21 (b.take 8 ++ b.drop 16)) s

/-- Fills that a change of membership opens, queues, moves or sends again (R402, R403). `before`: the fills known
before. -/
def State.fillsOpen (s : State) (before : List FillRec) : State :=
  let mine := s.snp.fills.find? (fun f => !f.done && f.spare == s.bib)
  let s := match mine, s.snp.own with
    | some r, none =>
      if s.openFills.contains r then s.fillStart r
      else if before.contains r then s else s.snpPost 0x0F
    | _, some f => if (s.holders f.rank).contains f.holder then s else s.fillMove f
    | none, none => s
  -- a successor sends the cut it holds of the lap to be replayed (R394)
  let s := (s.snp.fills.filter (fun f => !before.contains f && f.spare != s.bib)).foldl (fun s f =>
    match s.heldCut f.rank s.lap.lam s.lap.pi with
    | some c => s.cutSend f.rank f.rank c
    | none => s) s
  s.snp.serve.foldl State.serveChunk s

/-! ### Decrees (R367, R368) -/

/-- The bibs of a group's live members. -/
def State.memberBibs (s : State) (g : Nat) : List Nat := (s.liveRanks g).map (fun r => mem.bib (s.grpMember g r))

/-- What follows from an advance of groups between s and t: fills open, move or are sent again, and copies of a snapshot whose buddy a
decree removed fail (R402, R403, R405). -/
def State.advanced (s t : State) : State :=
  let gs := (t.mbr.adopted.filter (fun p => !s.mbr.adopted.contains p)).map (fun p => p.1)
  let t := if t.snp.fills == s.snp.fills && t.grpEpoch t.dp == s.grpEpoch s.dp then t else t.fillsOpen s.snp.fills
  if gs.isEmpty then t else t.buddyLost (fun b => gs.any (fun g => (s.memberBibs g).contains b && !(t.memberBibs g).contains b))

/-- GRP_ADVANCE: an advance of the selected group is written (R333, R402). -/
def execGrpAdvance (s : State) : Host.Outcome State Fault Refusal :=
  .next (s.whenServed .groups 0 0 (s.advanced (s.advance (s.get F.GRP_SEL_group 0))))

/-- DECREE: a received decree, and what follows from it (R368, R371, R403). -/
def execDecree (l : Link) (vc : Fin 4) (s : State) : Host.Outcome State Fault Refusal :=
  .next (s.advanced (s.onMember l vc 0x14 decreeOk State.decreeIn))

/-- DECREE_BATCH_END: the judge issues and adopts its decree, and what follows from it (R367). -/
def execDecreeBatchEnd (g : Group) (s : State) : Host.Outcome State Fault Refusal :=
  .next (if s.live && s.grpValid g then s.advanced (s.decreeIssue g) else s)

/-! ### The packets (R401 to R404) -/

/-- A spare takes a cut of its rank; when it holds none of the lap it asked for and has accepted no chunk, the cut tells it the lap to be
replayed and the data position, and it asks for that (R400). -/
def State.cutOwn (s : State) (f : OwnFill) (lam : Nat) (b : List Byte) : State :=
  let g := { f with cut := f.cut.filter (fun x => x.1 != lam) ++ [(lam, b)] }
  let lap := (lam + 1) % 2 ^ 64
  if f.next == 0 && (f.lap != lap || f.pos != at_ b 8 8) && !(f.cut.any (fun x => (x.1 + 1) % 2 ^ 64 == f.lap)) then
    s.fillAsk { g with lap := lap, pos := at_ b 8 8 } f.holder
  else { s with snp := { s.snp with own := some g } }

/-- LAP_CUT: a lap cut of a predecessor is kept, the newest two of each; a spare takes the cut of its rank (R400, R401). -/
def State.cutIn (s : State) (p : Pkt) : State :=
  let rank := p.f 8 2
  let bs := (p.data.take p.len).drop 24
  let b := if p.f 16 4 == 0 then bs else (slGet ([], []) s.snp.rxBuf (cutKey rank)).2 ++ bs
  if b.length < p.f 12 4 then { s with snp := { s.snp with rxBuf := slSet s.snp.rxBuf (cutKey rank) ([], b) } }
  else
    let s := { s with snp := { s.snp with rxBuf := slDel s.snp.rxBuf (cutKey rank) } }
    let s := match s.snp.own with
      | some f => if f.rank == rank then s.cutOwn f (p.f 0 8) b else s
      | none => s
    if p.srcRank != rank then s
    else
      let old := (slGet [] s.snp.cuts rank).filter (fun x => x.1 != p.f 0 8)
      { s with snp := { s.snp with cuts := slSet s.snp.cuts rank (((p.f 0 8, b) :: old).take 2) } }

/-- Is a packet of the data-parallel group. -/
def State.inDp (s : State) (p : Pkt) : Bool :=
  match s.gates with
  | some (g, _) => p.group == g && p.plainHead
  | none => false

/-- Act on a packet that R331 accepts when it is of kind k, in the data-parallel group, with no reserved value (R393,
R394); any other is dropped. -/
def State.onFill (s : State) (l vc k : Nat) (ok : Pkt → Bool) (act : State → Pkt → State) : State :=
  let bad := match s.packetAt l vc with
    | some b => Pkt.reservedSet b
    | none => false
  s.onPacket l vc (· == k) (fun s p => if !bad && s.inDp p && ok p then act s p else s)

/-- LAP_CUT: see State.cutIn. -/
def execLapCut (l : Link) (vc : Fin 4) (s : State) : Host.Outcome State Fault Refusal :=
  .next (s.onFill l vc 0x1B (fun p => p.f 10 2 == 0 && p.f 20 4 == 0) State.cutIn)

/-- Serve a fill request: the failed rank's lap cut, when it is held, and the first chunk wanted (R394, R402). -/
def State.serveStart (s : State) (spareRank : Nat) (req : List Byte) : State :=
  let rank := at_ req 28 2
  let v : FillServe := { rank := rank, spare := mem.bib (s.grpMember s.dp spareRank), spareRank := spareRank, req := req, chunk := at_ req 32 4 }
  let s := match s.heldCut rank (at_ req 8 8) (at_ req 16 8) with
    | some c => s.cutSend spareRank rank c
    | none => s
  let s := { s with snp := { s.snp with serve := s.snp.serve.filter (fun (x : FillServe) => x.rank != rank) ++ [v] } }
  s.serveChunk v

/-- Is it between a commit verdict and the next start hurdle, which the verdict has armed (R253, R402). -/
def State.fillHeld (s : State) : Bool :=
  s.get F.GRP_LAP_VERDICT_outcome 0 == 0 && (decide (6 ≤ s.lap.step)
    || (s.lap.step == 0 && !s.lap.replay && (s.flag F.PCR_SPT_CTRL_arm 0 || s.pacer.lapDue.isSome)))

/-- A fill request: between a commit verdict and the next start hurdle it waits for that hurdle (R402). -/
def State.fillReq (s : State) (p : Pkt) : State :=
  let req := p.data.take 48
  if s.fillHeld then
    { s with snp := { s.snp with late := s.snp.late ++ [(p.srcRank, req)] } }
  else s.serveStart p.srcRank req

/-- FILL_REQUEST: see State.fillReq. -/
def execFillRequest (l : Link) (vc : Fin 4) (s : State) : Host.Outcome State Fault Refusal :=
  .next (s.onFill l vc 0x20 (fun p => p.f 0 4 == 1 && p.f 7 1 == 0 && p.f 30 2 == 0 && p.f 36 4 == 0 && p.len == 48) State.fillReq)

/-- The fill stream is whole: the checks of R387, then everything is written (R387, R400). `bank` is that of the lap cut, since the
fill stream carries none: a DESIGN CHOICE (log 134). -/
def State.fillApply (s : State) (f : OwnFill) : State :=
  match f.cut.find? (fun x => (x.1 + 1) % 2 ^ 64 == f.lap) with
  | none => s.fillTell f true
  | some (_, cut) =>
    if !cutOk cut ((f.lap + 2 ^ 64 - 1) % 2 ^ 64) f.pos s.allClus.length then s.snpPost 0x0A
    else
      let lay := s.fillLay.1
      let part (i : Nat) : List Byte := match lay[i]? with
        | some x => (f.stream.drop x.2.1).take x.2.2.1
        | none => []
      let bank := at_ cut 24 1 % 2
      let ents := (s.plan.getD []).filter (fun e => !e.owned)
      let s := ents.zipIdx.foldl (fun s p => s.stBytes (p.1.place bank) (part (3 + p.2))) s
      let s := s.put F.GRP_LAP_VERDICT_bank 0 bank
      let s := (s.allClus.foldl (fun (r : State × List Byte) c =>
        let x := r.1.mirrorPut c r.2
        (x.1.mirrorSave c, x.2)) (s, part 1)).1
      let s := (s.putLapWords (part 0)).cutCounters cut
      let s := ({ s with lap := { s.lap with replay := true, lamSet := false, piSet := false } }).lapNow f.lap f.pos
      s.fillTell f false

/-- A fill chunk packet: with the last one the chunk is checked, accepted or asked for again; a second failure moves the
fill to the next holder (R402). -/
def State.fillIn (s : State) (p : Pkt) : State :=
  match s.snp.own with
  | none => s
  | some f =>
    let k := p.f 8 4
    if p.f 0 4 != f.epoch || p.f 4 2 != f.rank || p.srcRank != f.holder || k != f.next then s
    else
      let first := p.f 20 1 % 2 == 1
      let body := (p.data.take p.len).drop 24
      let digest := if first then body.take 64 else f.digest
      let buf := if first then body.drop 64 else f.buf ++ body
      let ack (s : State) (bad : Nat) : State :=
        s.dpSend f.holder 0x22 (toBytes 4 f.epoch ++ toBytes 2 f.rank ++ zeros 2 ++ toBytes 4 k ++ toBytes 1 bad ++ zeros 3)
      let keep (s : State) (f : OwnFill) : State := { s with snp := { s.snp with own := some f } }
      if p.f 20 1 < 2 then keep s { f with digest := digest, buf := buf }
      else if chunkDigest f.req k buf == digest && buf.length == p.f 12 4 then
        let f' := { f with next := k + 1, stream := f.stream ++ buf, buf := [], digest := [], resent := false }
        let s := ack (keep s f') 0
        if s.fillN ≤ k + 1 then s.fillApply f' else s
      else if f.olds.any (fun h => chunkDigest h k buf == digest) then keep s { f with buf := [], digest := [] }
      else if f.resent then (ack s 1).fillMove { f with buf := [], digest := [] }
      else ack (keep s { f with buf := [], digest := [], resent := true }) 1

/-- FILL_CHUNK: see State.fillIn; the fields of 0x18 follow rank and epoch from k onward (R394). -/
def execFillChunk (l : Link) (vc : Fin 4) (s : State) : Host.Outcome State Fault Refusal :=
  .next (s.onFill l vc 0x21 (fun p => p.f 6 2 == 0 && decide (p.f 20 1 ≤ 3) && p.f 21 3 == 0) State.fillIn)

/-- A fill acknowledgement: the next chunk follows a match; a mismatch sends the chunk again once (R402). -/
def State.fillAckIn (s : State) (p : Pkt) : State :=
  match s.snp.serve.find? (fun v => v.rank == p.f 4 2 && v.spareRank == p.srcRank && v.chunk == p.f 8 4) with
  | none => s
  | some v =>
    let rest := s.snp.serve.filter (· != v)
    let go (s : State) (l : List FillServe) : State := { s with snp := { s.snp with serve := l } }
    if p.f 12 1 == 0 then
      let v' := { v with chunk := v.chunk + 1, resent := false }
      if s.fillN ≤ v.chunk + 1 then go s rest else (go s (rest ++ [v'])).serveChunk v'
    else if v.resent then go s rest
    else (go s (rest ++ [{ v with resent := true }])).serveChunk v

/-- FILL_ACK: see State.fillAckIn. -/
def execFillAck (l : Link) (vc : Fin 4) (s : State) : Host.Outcome State Fault Refusal :=
  .next (s.onFill l vc 0x22 (fun p => p.f 6 2 == 0 && decide (p.f 12 1 ≤ 1) && p.f 13 3 == 0) State.fillAckIn)

/-- A fill done: the fill ends here too, a queued one opens; with `rollback` the replay is held (R403, R404). -/
def State.fillDoneIn (s : State) (p : Pkt) : State :=
  let roll := p.f 6 1 == 1
  let before := s.snp.fills
  let s := s.fillMark (p.f 4 2) (p.f 0 4) roll
  let s := { s with snp := { s.snp with serve := s.snp.serve.filter (fun (v : FillServe) => v.rank != p.f 4 2) } }
  let s := if roll then s.snpPost 0x10 else s
  let serve := s.snp.serve
  let s := { s with snp := { s.snp with serve := [] } }
  let s := s.fillsOpen before
  { s with snp := { s.snp with serve := serve } }

/-- FILL_DONE: see State.fillDoneIn. -/
def execFillDone (l : Link) (vc : Fin 4) (s : State) : Host.Outcome State Fault Refusal :=
  .next (s.onFill l vc 0x23 (fun p => decide (p.f 6 1 ≤ 1) && p.f 7 1 == 0 && p.f 14 2 == 0) State.fillDoneIn)

end Sys2Proof.Machine
end

