-- ==== Sys2Proof/Machine/Claims.lean ====
section
/-!
DEFINITION. Resource claims (R450 to R452).
-/

namespace Sys2Proof.Machine

/-- Replace claim i. -/
def State.setClaim (s : State) (i : Nat) (k : Claim) : State := { s with claims := s.claims.set i k }

/-- The waiter code of a claim (R493). -/
def claimWaiter (i : Nat) : Nat := 5 * 2 ^ 28 + 17 * 2 ^ 23 + i % 65536

/-- Do two claims conflict statically (R450): pins never do. -/
def Claim.conflicts (a b : Claim) : Bool :=
  a.touches b && a.res != 1 &&
    ((a.whenN == 0 && b.whenN ≤ 1) || (b.whenN == 0 && a.whenN ≤ 1)
      || (a.whenN == 1 && b.whenN == 1 && decide (a.startUs < b.endUs ∧ b.startUs < a.endUs)))

/-- Is any pair of a list in conflict. -/
def claimsConflict : List Claim → Bool
  | [] => false
  | a :: l => l.any a.conflicts || claimsConflict l

/-- The granted claims that touch claim k, with their indices; a pin has no exclusive holder (R450). -/
def State.claimHolders (s : State) (k : Claim) : List (Claim × Nat) :=
  if k.res == 1 then [] else s.claims.zipIdx.filter (fun p => p.1.granted && p.1.touches k)

/-- The open wait of claim i is for the holder h from now on: the one whose release ends it (R491, R494). -/
def State.claimFor (s : State) (i : Nat) (h : Option Nat) : State :=
  match h, slFind s.waits (claimWaiter i) with
  | some h, some x => { s with waits := slSet s.waits (claimWaiter i) { x with obj := h } }
  | _, _ => s

/-- Claim i is granted: its wait ends, by the release of claim h; a split timer that it lost is armed again (R451, R452). -/
def State.claimGrant (s : State) (i : Nat) (k : Claim) (h : Option Nat) : State :=
  let s := s.setClaim i { k with granted := true, waiting := false, rearm := false, lost := false }
  let s := (s.claimFor i h).waitClose (claimWaiter i) false
  if k.rearm then s.put F.PCR_SPT_CTRL_arm k.id 1 else s

/-- Claim i loses its resource to claim h of a higher class and requests it again, which waits (R451, R452): its timer is disarmed, a
scan-out in its region is cut off. -/
def State.claimPreempt (s : State) (h i : Nat) (k : Claim) : State :=
  let arm := k.res == 2 && s.flag F.PCR_SPT_CTRL_arm k.id
  let s := s.setClaim i { k with granted := false, waiting := true, reqAt := s.ns, rearm := arm, lost := true }
  let s := if k.res == 2 then s.put F.PCR_SPT_CTRL_arm k.id 0 else s
  let s := match s.photo with
    | some p => if k.res == 3 && k.cls == 3 && decide (k.base ≤ p.base ∧ p.base < k.base + k.len) then s.scanCut false else s
    | none => s
  (s.imgPost 0x11 i).waitOpen (claimWaiter i) 0x0B h s.bib

/-- May claim k be granted: its resource is free, or held by lower classes only (R451). -/
def State.claimMay (s : State) (k : Claim) : Bool := (s.claimHolders k).all (fun p => decide (k.cls < p.1.cls))

/-- Claim i takes its resource: the lower classes that hold it are preempted (R451, R452). -/
def State.claimTake (s : State) (i : Nat) (k : Claim) (h : Option Nat) : State :=
  ((s.claimHolders k).foldl (fun s p => s.claimPreempt i p.2 p.1) s).claimGrant i k h

/-- Claim i requests its resource (R451): granted when it is free, or held by lower classes only, which are preempted;
else it waits. -/
def State.claimRequest (s : State) (i : Nat) : State :=
  match s.claims[i]? with
  | none => s
  | some k =>
    if k.granted || k.waiting then s
    else if s.claimMay k then s.claimTake i k none
    else
      let h := ((s.claimHolders k).find? (fun p => decide (p.1.cls ≤ k.cls))).map (fun p => p.2)
      (s.setClaim i { k with waiting := true, reqAt := s.ns }).waitOpen (claimWaiter i) 0x0B (h.getD 0) s.bib

/-- Does waiting claim a go before b: higher class, then earlier request, then lower index (R451). -/
def claimBefore (a b : Claim × Nat) : Bool :=
  decide (a.1.cls < b.1.cls) || (a.1.cls == b.1.cls && (decide (a.1.reqAt < b.1.reqAt) || (a.1.reqAt == b.1.reqAt && decide (a.2 ≤ b.2))))

/-- Grant waiting claims that may be, in the order of R451, after the release of claim h. -/
def State.claimServe (s : State) (h : Nat) : Nat → State
  | 0 => s
  | n + 1 =>
    match s.claims.zipIdx.filter (fun p => p.1.waiting && s.claimMay p.1) with
    | [] => s
    | w :: l =>
      let b := l.foldl (fun a x => if claimBefore x a then x else a) w
      (s.claimTake b.2 b.1 (some h)).claimServe h n

/-- Claim i is released (R451); one that still waits gives up (R491). -/
def State.claimRelease (s : State) (i : Nat) : State :=
  match s.claims[i]? with
  | none => s
  | some k =>
    if !k.granted && !k.waiting then s
    else
      let s := s.setClaim i { k with granted := false, waiting := false, rearm := false, lost := false }
      let s := if k.waiting then s.waitClose (claimWaiter i) true else s
      s.claimServe i (2 * s.claims.length)

/-- CLAIM_REQUEST: a feature needs the resource of an on-demand claim (R451). -/
def execClaimRequest (i : Nat) (s : State) : Host.Outcome State Fault Refusal :=
  .next (match s.claims[i]? with
  | some k => if k.whenN == 2 then s.claimRequest i else s
  | none => s)

/-- CLAIM_WINDOW_OPEN: the window of a claim opens at B + `start_us` (R451). -/
def execClaimWindowOpen (i : Nat) (s : State) : Host.Outcome State Fault Refusal :=
  .next (match s.claims[i]? with
  | some k => if k.whenN == 1 && decide (s.lap.b + 1000 * k.startUs ≤ s.ns) then s.claimRequest i else s
  | none => s)

/-- CLAIM_RELEASE: the feature ends its use, or the window closes at B + `end_us` (R451); a claim "always" is not
released. -/
def execClaimRelease (i : Nat) (s : State) : Host.Outcome State Fault Refusal :=
  .next (match s.claims[i]? with
  | some k => if k.whenN == 2 || (k.whenN == 1 && decide (s.lap.b + 1000 * k.endUs ≤ s.ns)) then s.claimRelease i else s
  | none => s)

end Sys2Proof.Machine
end

