-- ==== Sys2Proof/Machine/ImgCheck.lean ====
section
/-!
DEFINITION. Structure images: layout and verification (R441 to R446, R450, R455).
-/

namespace Sys2Proof.Machine

/-! ### Layout (R441, R442) -/

/-- HBM address in IMG_SRC. -/
def State.imgSrc (s : State) : Nat := s.get F.IMG_SRC_HI_src_hi 0 * 2 ^ 32 + s.get F.IMG_SRC_LO_src 0 * 64

/-- A directory entry (R442). -/
structure DirEnt where
  typ : Nat
  group : Nat
  ldie : Nat
  lclu : Nat
  off : Nat
  size : Nat
  resv : Bool
  deriving DecidableEq, Repr

/-- The directory of an image at an address. -/
def State.imgDir (s : State) (a : Nat) : List DirEnt :=
  (List.range (s.ldH (a + 10) 2)).map (fun i =>
    let e := s.ldH (a + 256 + 32 * i) 32
    { typ := bits e 15 0, group := bits e 23 16, ldie := bits e 39 32, lclu := bits e 47 40, off := bits e 127 64,
      size := bits e 191 128, resv := bits e 31 24 != 0 || bits e 63 48 != 0 || bits e 255 192 != 0 || 31 < bits e 23 16 })

/-- The largest length of an image of a scope (R441). -/
def imgLimit (scope : Nat) : Nat := if scope == 1 then 2 ^ 36 else if scope == 2 then 2 ^ 32 else 2 ^ 26

/-- Check 1 of R444: the header and the directory are well formed. -/
def State.imgFormat (s : State) (a : Nat) : Bool :=
  let h := fun (o n : Nat) => s.ldH (a + o) n
  let scope := h 6 1
  let n := h 10 2
  let len := h 16 8
  let d := s.imgDir a
  h 0 4 == 0x49534C4B && h 4 2 == 1 && decide (1 ≤ scope ∧ scope ≤ 3) && h 13 3 == 0 && h 40 24 == 0 && h 242 14 == 0
    && (if scope == 1 then h 8 1 == 255 && h 9 1 == 255 && h 32 8 == 0
      else decide (h 8 1 ≤ 15) && (if scope == 2 then h 9 1 == 255 else decide (h 9 1 ≤ 99)))
    && decide (1 ≤ n ∧ n ≤ 4096) && len % 64 == 0 && decide (len ≤ imgLimit scope ∧ 256 + 32 * n ≤ len)
    && d.all (fun e => !e.resv && e.off % 64 == 0 && decide (256 + 32 * n ≤ e.off ∧ e.off + e.size ≤ len))
    && d.zipIdx.all (fun p => d.zipIdx.all (fun q => p.2 == q.2 || decide (p.1.off + p.1.size ≤ q.1.off) || decide (q.1.off + q.1.size ≤ p.1.off)))

/-- The image at an address with its sections, as the store will hold it. -/
def State.imgRead (s : State) (a : Nat) : Image :=
  { scope := s.ldH (a + 6) 1, ldie := s.ldH (a + 8) 1, lclu := s.ldH (a + 9) 1, id := s.ldH (a + 24) 8,
    digest := s.ldBytes ((a + 64) % 2 ^ 41) 64,
    sects := (s.imgDir a).map (fun e =>
      { typ := e.typ, group := e.group, ldie := e.ldie, lclu := e.lclu, data := s.ldBytes ((a + e.off) % 2 ^ 41) e.size }) }

/-- May a section type appear in a scope (R443). -/
def typeIn (scope typ : Nat) : Bool :=
  decide (1 ≤ typ ∧ typ ≤ 11) &&
    (if typ == 5 || typ == 6 || typ == 8 then scope == 1 else if typ == 2 then decide (scope ≤ 2) else true)

/-- Check 6: the type of a section and its targets lie in the scope (R444). -/
def Image.inScope (m : Image) (e : Sect) : Bool :=
  typeIn m.scope e.typ && (e.ldie == 255 || decide (e.ldie ≤ 15)) && (e.lclu == 255 || decide (e.lclu ≤ 99))
    && (m.scope == 1 || e.ldie == 255 || e.ldie == m.ldie) && (m.scope != 3 || e.lclu == 255 || e.lclu == m.lclu)

/-! ### Claims sections (R450) -/

/-- Read the claim at an entry of 32 bytes; none when it holds a reserved value. -/
def claimRead (reg : Nat × Nat × Nat) (b : List Byte) : Option Claim :=
  let k : Claim := {
    scope := reg.1, ldie := reg.2.1, lclu := reg.2.2, res := at_ b 0 1, cls := at_ b 1 1, whenN := at_ b 2 1,
    id := at_ b 3 1, startUs := at_ b 4 4, endUs := at_ b 8 4, base := at_ b 16 8, len := at_ b 24 8 }
  let idOk := if k.res == 1 then decide (k.id ≤ 1) else if k.res == 2 then decide (3 ≤ k.id ∧ k.id ≤ 31) else if k.res == 3 then k.id == 0
    else decide (k.id ≤ 31)
  if decide (1 ≤ k.res ∧ k.res ≤ 4 ∧ 1 ≤ k.cls ∧ k.cls ≤ 5 ∧ k.whenN ≤ 2) && idOk && at_ b 12 4 == 0
      && (k.whenN != 1 || decide (k.startUs < k.endUs))
      && (k.res != 3 || (k.base % 2 ^ 20 == 0 && k.len % 2 ^ 20 == 0 && k.len != 0)) then some k else none

/-- The region of an image: scope, logical die, logical cluster. -/
def Image.region (m : Image) : Nat × Nat × Nat := (m.scope, m.ldie, m.lclu)

/-- The claims of an image; an entry with a reserved value is none. -/
def Image.claims (m : Image) : List (Option Claim) :=
  (m.sects.filter (fun e => e.typ == 9)).flatMap (fun e => (cutN 32 e.data.length e.data).map (claimRead m.region))

/-- Does region a lie inside region b. -/
def regionIn (a b : Nat × Nat × Nat) : Bool :=
  b.1 == 1 || (b.1 == 2 && 2 ≤ a.1 && a.2.1 == b.2.1) || (b.1 == 3 && a == b)

/-- The claims in effect that an image's claims will replace: under a module image all of them (R443, R447). -/
def Image.replacesClaim (m : Image) (k : Claim) : Bool :=
  m.scope == 1 || m.sects.any (fun e => e.typ == 9) && regionIn (k.scope, k.ldie, k.lclu) m.region

/-! ### What an image lays out (R443, R448, R453) -/

/-- The registers of a cluster that a section type writes (R443). -/
def cluRegsOf (typ : Nat) : List RegDef :=
  if typ == 1 then [R.CLU_MODE_ALLOW]
  else if typ == 3 then [R.CLU_SCALE_CFG, R.STA_CFG, R.GOV_CFG, R.SCT_CFG, R.CLU_VEC_CFG]
  else if typ == 4 then genRemaps else []

/-- The module registers that a section type writes. -/
def modRegOf (typ : Nat) (a : Nat) : Bool :=
  match regAt a with
  | some (r, _) =>
    if typ == 5 then r == R.HUB_INT_SRC || r == R.HUB_INT_CFG
    else if typ == 6 then [R.PWR_CAP, R.PWR_FLOOR, R.PWR_PLAN_LO, R.PWR_PLAN_HI].contains r
    else typ == 8 && r == R.GRP_MBR_CFG
  | none => false

/-- The logical position of an active cluster. -/
def State.logPos (s : State) (c : Clu) : Option (Nat × Nat) := (s.logClu c).map (fun n => (n / 100, n % 100))

/-- Does a section of an image region address a logical cluster. -/
def Sect.addresses (e : Sect) (reg : Nat × Nat × Nat) (p : Nat × Nat) : Bool :=
  regionIn (3, p.1, p.2) reg && (e.ldie == 255 || e.ldie == p.1) && (e.lclu == 255 || e.lclu == p.2)

/-- Every logical position of a region. -/
def regionPos (reg : Nat × Nat × Nat) : List (Nat × Nat) :=
  ((List.range 1600).map (fun n => (n / 100, n % 100))).filter (fun p => regionIn (3, p.1, p.2) reg)

/-- The logical cluster whose pool a place names. -/
def State.poolPos (s : State) (q : Nat) : Option (Nat × Nat) :=
  if bits q 63 61 != 1 then none
  else if bit q 60 then s.logPos (cluNo (bits q 59 55) (bits q 54 48))
  else some (bits q 59 55, bits q 54 48)

/-- What an image writes into the pool of a logical cluster, in order: section index, type, offset, bytes. -/
def State.imgPool (s : State) (m : Image) (p : Nat × Nat) : List (Nat × Nat × Nat × List Byte) :=
  m.sects.zipIdx.flatMap (fun x =>
    if x.1.typ == 11 then
      (if s.poolPos (at_ x.1.data 0 8) == some p then [(x.2, 11, bits (at_ x.1.data 0 8) 40 0, x.1.data.drop 8)] else [])
    else if [4, 7, 10].contains x.1.typ && x.1.addresses m.region p then
      ((Config.sectionWrites x.1.typ x.1.data).filter (fun w => w.1 == 2)).map (fun w => (x.2, x.1.typ, w.2.1, w.2.2))
    else [])

/-- n bytes at offset o of a logical cluster's pool as it will read under an image's writes. -/
def State.imgLd (s : State) (ws : List (Nat × Nat × Nat × List Byte)) (p : Nat × Nat) (o n : Nat) : Nat :=
  leNat ((List.range n).map (fun i =>
    match ws.reverse.find? (fun w => decide (w.2.2.1 ≤ o + i ∧ o + i < w.2.2.1 + w.2.2.2.length)) with
    | some w => w.2.2.2.getD (o + i - w.2.2.1) 0
    | none => match s.physClu p.1 p.2 with
      | some c => BitVec.ofNat 8 (s.ld (poolAt c (o + i)) 1)
      | none => 0))

/-- A register of a logical cluster as it will read under an image's writes. -/
def State.imgReg (s : State) (m : Image) (p : Nat × Nat) (r : RegDef) : Nat :=
  (m.sects.filter (fun e => (cluRegsOf e.typ).contains r && e.addresses m.region p)).foldl (fun v e =>
    ((Config.sectionWrites e.typ e.data).filter (fun w => w.1 == 0 && w.2.1 == r.off)).foldl (fun _ w => leNat w.2.2) v)
    (match s.physClu p.1 p.2 with
    | some c => (s.rd r (cluU c)).toNat
    | none => 0)

/-- A sequencer item (R453). -/
structure Item where
  kind : Nat
  phase : Nat
  layer : Nat
  arg : Nat
  deriving DecidableEq, Repr

/-- The schedule that a section holds: an item in each 16 bytes that it writes to HBM (R453). -/
def Sect.schedule (e : Sect) : List Item :=
  if e.typ != 10 then []
  else ((Config.sectionWrites e.typ e.data).filter (fun w => w.1 == 4)).flatMap (fun w =>
    (cutN 16 w.2.2.length w.2.2).map (fun b => { kind := at_ b 0 1, phase := at_ b 1 1, layer := at_ b 2 2, arg := at_ b 4 12 }))

/-- Kind and `arg` of the items that a section holds (R453). -/
def Sect.items (e : Sect) : List (Nat × Nat) := e.schedule.map (fun i => (i.kind, i.arg))

/-- The schedule items of a logical cluster in an image: kind and `arg` (R453). -/
def Image.items (m : Image) (p : Nat × Nat) : List (Nat × Nat) :=
  (m.sects.filter (fun e => e.typ == 10 && e.addresses m.region p)).flatMap (fun e => e.items)

/-- The pool offset that a schedule item names: the whole `arg` where it holds nothing else (R453); where it also holds a
core or a count, its place there is open (log 57). -/
def itemOff (i : Nat × Nat) : Nat :=
  if i.1 == 4 then 64 * i.2 else if i.1 == 5 || i.1 == 6 then i.2 else if i.1 == 1 || i.1 == 3 then Config.itemOffset i.1 i.2 else 0

/-- The descriptors of a copy list from a pool offset on, each with its index in the list (R271). -/
def copyListAt (ld : Nat → Nat) (o : Nat) : Nat → Nat → List (Nat × Nat)
  | _, 0 => []
  | k, n + 1 => (o + 64 * k, k) :: (if cpy.last (ld (o + 64 * k)) then [] else copyListAt ld o (k + 1) n)

/-- Does a copy descriptor convert (R276, R277). -/
def cpyConverts (d : Nat) : Bool :=
  bits d 7 4 != bits d 11 8 || (cpy.op d == 2 && match Fmt.ofCode (bits d 11 8) with
    | some f => f.isBlock || f == .a8
    | none => false)

/-- The remap table of the newest flash copy (R376). -/
def State.flashTab (s : State) : RemapTable := (if s.flt.copy0.gen < s.flt.copy1.gen then s.flt.copy1 else s.flt.copy0).tab

/-- Is a group of a call correlated under the remap entries of a cluster's registers in flash, followed by an image's own
(R199, R210). -/
def State.imgCorr (s : State) (m : Image) (p : Nat × Nat) (d : Nat) : Bool :=
  let flash := match s.physClu p.1 p.2 with
    | some c => genRemaps.map (fun r => (slGet 0 s.flashTab.regs (r.addr (cluU c))).toNat)
    | none => []
  let own := genRemaps.map (fun r => ((m.sects.filter (fun e => e.typ == 4 && e.addresses m.region p)).flatMap (fun e =>
    (Config.sectionWrites e.typ e.data).filter (fun w => w.1 == 0 && w.2.1 == r.off))).foldl (fun _ w => leNat w.2.2) 0)
  (List.range 128).any (fun n => remapGen (flash ++ own) (sct.gx d + n) == remapGen (flash ++ own) (sct.gw d + n))

/-- Does a pass descriptor set a reserved bit (R57). -/
def passReserved (d : Nat) : Bool := bit d 47 || bits d 95 83 != 0 || bits d 255 200 != 0

/-- Does the header of a statistics record set a reserved bit (R162). -/
def headReserved (h : Nat) : Bool := bits h 63 48 != 0 || bits h 103 98 != 0 || bits h 111 104 != 0

/-- What fails a check in the pool of a logical cluster under an image: offset, length, and the section types whose writes
count. Check 8: reserved values; 9: correlated scout descriptors; 10: a gradient tensor rounded to nearest even (R444). -/
def State.imgBad (s : State) (m : Image) (p : Nat × Nat) (check : Nat) : List (Nat × Nat × List Nat) :=
  let ws := s.imgPool m p
  let ld := fun (o n : Nat) => s.imgLd ws p o n
  let fld (f : Fld) := bits (s.imgReg m p f.reg) f.hi f.lo
  let off (k : Nat) := ((m.items p).filter (fun i => i.1 == k)).map itemOff
  let scouts := (List.range (fld F.SCT_CFG_entries)).map (fun i => 4096 * fld F.SCT_CFG_base + 64 * i)
  let gov := 4096 * fld F.GOV_CFG_base
  let layers := (List.range (fld F.GOV_CFG_layers)).map (fun i => gov + 64 * i)
  let rules := (List.range (fld F.GOV_CFG_rules)).map (fun i => gov + 64 * fld F.GOV_CFG_layers + 16 * i)
  let scales := (List.range (fld F.CLU_SCALE_CFG_entries)).map (fun i => 4096 * fld F.CLU_SCALE_CFG_base + 64 * i)
  let recs := (List.range (fld F.STA_CFG_records)).map (fun i => 4096 * fld F.STA_CFG_base + 512 * i)
  let lists := (off 4).flatMap (fun o => copyListAt (ld · 64) o 0 4096)
  let grads := 4096 * fld F.CLU_VEC_CFG_grad_base
  let grad (t : Nat) : Bool := bit (ld (grads + t / 8) 1) (t % 8)
  let mark (l : List Nat) (n : Nat) (bad : Nat → Bool) (types : List Nat) :=
    (l.filter (fun o => bad (ld o n))).map (fun o => (o, n, types))
  if check == 8 then
    mark scouts 64 sctReserved [4] ++ mark layers 64 layReserved [7] ++ mark rules 16 ruleReserved [7] ++ mark (off 5) 64 sndInvalid [10]
      ++ mark (off 6) 64 sctReserved [10] ++ mark (off 1) 32 passReserved [10]
      ++ mark scales 64 (fun e => bit e 48 && sclReserved e) [7] ++ mark recs 20 headReserved [7]
      ++ (lists.filter (fun x => cpyInvalid (ld x.1 64) x.2)).map (fun x => (x.1, 64, [10]))
  else if check == 9 then
    mark scouts 64 (s.imgCorr m p) [4] ++ mark (off 6) 64 (s.imgCorr m p) [11]
  else if check == 10 then
    let lay (e : Nat) : Bool := (match lay.tensor e 0 with
      | some t => grad t
      | none => false) && bits (lay.outconv e) 9 8 == 0
    let bad := mark layers 64 lay [7]
      ++ (lists.filter (fun x => let d := ld x.1 64; cpyConverts d && cpy.round d == 0 && grad (cpy.tensor d))).map (fun x => (x.1, 64, [10]))
      ++ mark (off 5) 64 (fun d => snd.lossy d != 0 && !snd.round d && grad (snd.tensor d)) [10]
    bad ++ (if bad.isEmpty then [] else [(grads, 8192, [7])])
  else []

/-! ### The checks (R444) -/

/-- May register r hold the value v: no reserved bit is set and no field holds a reserved encoding (R7, R8). -/
def RegDef.fits (r : RegDef) (v : Nat) : Bool :=
  decide (v < 2 ^ 32) && r.mergeIf (fun a => a == .rw || a.group.isSome) 0 v == v

/-- Does a register write of a section hold a reserved value. -/
def Sect.regBad (e : Sect) (w : Nat × Nat × List Byte) : Bool :=
  let v := leNat w.2.2
  if w.1 == 0 then (match (cluRegsOf e.typ).find? (fun r => r.off == w.2.1) with
    | some r => !r.fits v
    | none => true)
  else if w.1 == 1 then !(e.typ == 1 && w.2.1 % 128 == R.CORE_EDGE_CFG.off && decide (w.2.1 / 128 < 50) && R.CORE_EDGE_CFG.fits v)
  else if w.1 == 3 then !modRegOf e.typ w.2.1 || (match regAt w.2.1 with
    | some (r, _) => !r.fits v
    | none => true)
  else false

/-- Do partitions overlap, or does one end beyond 4 MiB (R444). -/
def partsBad (l : List (Nat × Nat)) : Bool :=
  l.any (fun q => decide (2 ^ 22 < q.1 + q.2))
    || l.zipIdx.any (fun a => l.zipIdx.any (fun b => decide (a.2 < b.2 ∧ a.1.1 < b.1.1 + b.1.2 ∧ b.1.1 < a.1.1 + a.1.2)))

/-- The registers that lay out the partitions of a cluster pool. -/
def partRegs : List RegDef := [R.CLU_SCALE_CFG, R.STA_CFG, R.GOV_CFG, R.SCT_CFG, R.CLU_VEC_CFG]

/-- The base and bytes of the partition that one of them lays out with the value v (R157, R188, R209, R223). -/
def partOf (r : RegDef) (v : Nat) : Nat × Nat :=
  if r == R.CLU_VEC_CFG then (4096 * bits v F.CLU_VEC_CFG_grad_base.hi F.CLU_VEC_CFG_grad_base.lo, 8192)
  else (4096 * bits v 25 16,
    if r == R.STA_CFG then 512 * bits v 8 0 else if r == R.GOV_CFG then 64 * bits v 6 0 + 16 * bits v 15 7 else 64 * bits v 8 0)

/-- Does a section of an image write a register of a logical cluster. -/
def Sect.writes (e : Sect) (r : RegDef) : Bool :=
  (cluRegsOf e.typ).contains r && (Config.sectionWrites e.typ e.data).any (fun w => w.1 == 0 && w.2.1 == r.off)

/-- The partitions of a logical cluster's pool under an image, as its sections together and the registers in effect lay them out; a
register that is 0 and that no section writes lays out none. -/
def State.imgParts (s : State) (m : Image) (p : Nat × Nat) : List (Nat × Nat) :=
  (partRegs.filter (fun r => s.imgReg m p r != 0 || m.sects.any (fun e => e.addresses m.region p && e.writes r))).map
    (fun r => partOf r (s.imgReg m p r)) |>.filter (fun q => q.2 != 0)

/-- Is a schedule item invalid: no valid `kind`, or a pool offset beyond the pool (R455). -/
def itemBad (i : Nat × Nat) : Bool := decide (i.1 < 1 ∨ 0x0B < i.1 ∨ 2 ^ 22 ≤ itemOff i)

/-- Would a section by itself fail check 8: its update group, a reserved value, its schedule items; what the
spec gives no layout for is an open value (log 57). -/
def sectBad (reg : Nat × Nat × Nat) (e : Sect) : Bool :=
  decide (6 ≤ e.group ∧ e.group ≤ 15)
    || (if e.typ == 9 then e.data.length % 32 != 0 || (cutN 32 e.data.length e.data).any (fun b => (claimRead reg b).isNone)
      else if e.typ == 11 then decide (e.data.length < 8) || placeReserved (at_ e.data 0 8)
      else (Config.sectionWrites e.typ e.data).any e.regBad || e.items.any itemBad
        || Config.sectionReserved e.typ e.data)

/-- Does section i of an image fail check 8, 9 or 10: by itself, by a partition that it lays out, or by a descriptor that it writes into
a pool. -/
def State.sectFails (s : State) (m : Image) (check : Nat) (e : Sect) (i : Nat) : Bool :=
  (check == 8 && (sectBad m.region e || (partRegs.any e.writes
      && (regionPos m.region).any (fun p => e.addresses m.region p && partsBad (s.imgParts m p)))))
    || (regionPos m.region).any (fun p =>
      let ws := (s.imgPool m p).filter (fun w => w.1 == i)
      !ws.isEmpty && (s.imgBad m p check).any (fun b => b.2.2.contains e.typ
        && ws.any (fun w => decide (w.2.2.1 < b.1 + b.2.1 ∧ b.1 < w.2.2.1 + w.2.2.2.length))))

/-- Index of the first section for which a test holds. -/
def Image.first (m : Image) (p : Sect → Nat → Bool) : Option Nat := (m.sects.zipIdx.find? (fun x => p x.1 x.2)).map (fun x => x.2)

/-- Where the image store begins and ends in HBM (R445, R458). -/
def State.storeSpan (s : State) : Nat × Nat :=
  let a := s.get F.IMG_STORE_HI_base_hi 0 * 2 ^ 32 + s.get F.IMG_STORE_LO_base 0 * 2 ^ 20
  (a, a + s.get F.IMG_STORE_HI_size_gib 0 * 2 ^ 30)

/-- The lowest address in a span at which n bytes fit beside what is used: pairs of address and bytes. -/
def fitAt (span : Nat × Nat) (used : List (Nat × Nat)) (n : Nat) : Option Nat :=
  ((span.1 :: used.map (fun u => u.1 + u.2)).filter (fun a => decide (span.1 ≤ a ∧ a + n ≤ span.2)
    && used.all (fun u => decide (a + n ≤ u.1 ∨ u.1 + u.2 ≤ a)))).min?

/-- Places in a span for sections, each at the lowest address at which it fits (log 53); none where one finds no room. -/
def fitAll (span : Nat × Nat) : List (Nat × Nat) → List Sect → Option (List Sect)
  | _, [] => some []
  | used, e :: l => match fitAt span used e.data.length with
    | some a => (fitAll span (used ++ [(a, e.data.length)]) l).map ({ e with src := a } :: ·)
    | none => none

/-- The sections of an image with their places in the store beside the sections in effect (R445). -/
def State.storeFit (s : State) (m : Image) : Option (List Sect) :=
  fitAll s.storeSpan (s.img.store.map (fun p => (p.2.src, p.2.data.length))) m.sects

/-- A section as its copy in the store holds it (R445). -/
def State.sectGet (s : State) (e : Sect) : Sect := { e with data := s.ldBytes e.src e.data.length }

/-- The verdict of a load: the status code and the section it names, or none when every check passes (R444). -/
def State.imgCheck (s : State) (a : Nat) : Option (Nat × Nat) :=
  if !s.imgFormat a then some (3, 0)
  else if s.ldH (a + 12) 1 != 0xA1 then some (4, 0)
  else if s.flag F.JDG_STATE_error 0 || !s.jdg.ok then some (5, 0)
  else
    let len := s.ldH (a + 16) 8
    match s.keyFor (s.ldH (a + 7) 1) 1 with
    | none => some (6, 0)
    | some key =>
      if !ed448Verify key (s.ldBytes (a % 2 ^ 41) 128) (s.ldBytes ((a + 128) % 2 ^ 41) 114) then some (6, 0)
      else if shake256 (s.ldBytes (a % 2 ^ 41) 64 ++ s.ldBytes ((a + 256) % 2 ^ 41) (len - 256)) 64 != s.ldBytes ((a + 64) % 2 ^ 41) 64 then
        some (7, 0)
      else
        let m := s.imgRead a
        let fails (k : Nat) := m.first (fun e i => s.sectFails m k e i)
        match m.first (fun e _ => !m.inScope e) with
        | some i => some (8, i)
        | none =>
          if m.scope != 1 && (s.img.digest.isEmpty || s.ldH (a + 32) 8 != s.get64 R.IMG_ID_LO R.IMG_ID_HI 0) then some (9, 0)
          else match fails 8, fails 9, fails 10 with
            | some i, _, _ => some (0x0A, i)
            | none, some i, _ => some (0x0B, i)
            | none, none, some i => some (0x0C, i)
            | none, none, none =>
              let cs := m.claims.filterMap id ++ s.claims.filter (fun k => !m.replacesClaim k)
              if claimsConflict cs then some (0x0D, (m.first (fun e _ => e.typ == 9)).getD 0)
              else if (s.storeFit m).isNone then some (0x0E, 0)
              else none

/-- A write of `load`: the loader begins to verify the image (R444, R446); before stage 0x0F it is ignored with IMG_BUSY (R572). -/
def State.imgLoad (s : State) : State :=
  if !s.live then s
  else if s.stage != 0x0F || s.img.waiting.isSome || s.img.loading.isSome then s.imgPost 0x0F 0
  else
    let a := s.imgSrc
    let k := s.ldH (a + 6) 1
    ({ s with img := { s.img with loading := some a } }).puts 0
      [(F.IMG_STATE_scope, if k ≤ 3 then k else 0), (F.IMG_STATE_state, 1), (F.IMG_STATE_section, 0)]

/-- Verification ends: the image's sections are copied into the store and it waits, or nothing changes but the report (R444, R445).
An image of which a read failed does not match its digest (log 127). -/
def State.imgVerdict (s : State) (a : Nat) : State :=
  let r := s.hbmMeet a (max 256 (s.ldH (a + 16) 8))
  let s := { r.1 with img := { r.1.img with loading := none } }
  let m := s.imgRead a
  match (if r.2 then some (7, 0) else s.imgCheck a), s.storeFit m with
  | none, some l =>
    let s := { s with img := { s.img with waiting := some { m with sects := l }, applying := false } }
    let s := l.foldl (fun s e => s.stBytes e.src e.data) s
    (s.puts 0 [(F.IMG_STATE_scope, m.scope), (F.IMG_STATE_state, 2)]).imgPost 1 0
  | some (c, i), _ => (s.puts 0 [(F.IMG_STATE_scope, 0), (F.IMG_STATE_state, 0)]).imgPost c i
  | none, none => s

/-- IMG_LOAD: see State.imgLoad. -/
def execImgLoad (s : State) : Host.Outcome State Fault Refusal := .next (s.whenServed .images 0 0 s.imgLoad)

/-- A write of `discard` drops a verified image that waits (R446). -/
def State.imgDiscard (s : State) : State :=
  if s.img.waiting.isSome && s.img.sect.isNone then
    ({ s with img := { s.img with waiting := none, applying := false } }).puts 0 [(F.IMG_STATE_scope, 0), (F.IMG_STATE_state, 0)]
  else s

/-- IMG_DISCARD: see State.imgDiscard. -/
def execImgDiscard (s : State) : Host.Outcome State Fault Refusal := .next (s.whenServed .images 0 0 s.imgDiscard)

end Sys2Proof.Machine
end

