-- ==== Sys2Proof/Machine/Strobe.lean ====
section
/-!
DEFINITION. A strobe of update groups (R526, R527): the buffers take effect, and the units that act on a strobe of their
fields do (R185, R190, R222, R239, R538).
-/

namespace Sys2Proof.Machine

/-- The registers of update group g that hold a staged write, each with its unit number. -/
def State.stagedOf (s : State) (g : Nat) : List (RegDef × Nat) :=
  s.staged.filterMap (fun p => match regAt p.1 with
    | some (r, u) => if r.fields.any (fun f => f.acc.group == some g) then some (r, u) else none
    | none => none)

/-- The units of update group g that hold a staged write of one of the registers. -/
def State.stagedIn (s : State) (g : Nat) (rs : List RegDef) : List Nat :=
  (((s.stagedOf g).filter (fun p => rs.contains p.1)).map (fun p => p.2)).eraseDups

/-- The override registers of the governor. -/
def govOvr : List RegDef := [R.GOV_OVR_LAYER, R.GOV_OVR_MODE, R.GOV_OVR_ALIGN, R.GOV_OVR_OUTCONV]

/-- A counter placement is strobed: it waits for the next start hurdle (R222). -/
def State.placeCtr (s : State) (u : Nat) : State :=
  let c := cluNo (u / 105) (u % 105)
  let x := s.clu c
  let l := s.get F.CLU_VEC_GEN_SEL_lane u
  s.setClu c (x.setLane l { x.lane l with place := some (s.get64 R.CLU_VEC_GEN_CTR_LO R.CLU_VEC_GEN_CTR_HI u) })

/-- A write of a mask to UPD_STROBE, or the loader's strobe (R527). -/
def State.updStrobe (s0 : State) (m : Nat) : State :=
  let on (g : Nat) (rs : List RegDef) : List Nat := if bit m g then s0.stagedIn g rs else []
  let s := s0.strobe m
  let s := (on 2 govOvr).foldl (fun s u => s.govStrobe (cluNo (u / 105) (u % 105))) s
  let s := (on 3 [R.CLU_VEC_GEN_CTR_LO, R.CLU_VEC_GEN_CTR_HI]).foldl State.placeCtr s
  let lam := !(on 4 [R.GRP_LAP_INDEX_LO, R.GRP_LAP_INDEX_HI]).isEmpty
  let pi := !(on 4 [R.GRP_LAP_POS_LO, R.GRP_LAP_POS_HI]).isEmpty
  let s := { s with lap := { s.lap with lamSet := s.lap.lamSet || lam, piSet := s.lap.piSet || pi } }
  if (on 5 [R.HUB_INT_CFG]).isEmpty then s else s.notify s0

end Sys2Proof.Machine
end

