-- ==== Sys2Proof/Machine/Image.lean ====
section
/-!
DEFINITION. Structure images: application and the image store (R443, R445, R447 to R449).
-/

namespace Sys2Proof.Machine

/-! ### Sections take effect (R443, R447, R448) -/

/-- What a section writes for one cluster; it names cores by their logical numbers (R448). -/
def State.sectClu (s : State) (e : Sect) (c : Clu) : State :=
  (Config.sectionWrites e.typ e.data).foldl (fun s w =>
    let a := w.2.1
    if w.1 == 0 then match (cluRegsOf e.typ).find? (fun r => r.off == a) with
      | some r => s.loaderWrite r (cluU c) (leNat w.2.2)
      | none => s
    else if w.1 == 1 then
      (match (s.activeCores c)[a / 128]? with
      | some k => if e.typ == 1 && a % 128 == R.CORE_EDGE_CFG.off then s.loaderWrite R.CORE_EDGE_CFG (cluU c * 52 + k) (leNat w.2.2) else s
      | none => s)
    else if w.1 == 2 then
      (if (e.typ == 4 || e.typ == 7 || e.typ == 10) && a + w.2.2.length ≤ 2 ^ 22 then s.stBytes (poolAt c a) w.2.2 else s)
    else if w.1 == 5 && e.typ == 3 then
      match s.logClu c with
      | some n => { s with img := { s.img with mirrors := slSet s.img.mirrors n (leNat w.2.2) } }
      | none => s
    else s) s

/-- The domain with a number (R23). -/
def domOf (n : Nat) : Option Dom :=
  if n < 1853 then
    let d : Fin 17 := Fin.ofNat 17 (n / 109)
    some (match n % 109 - 104 with
      | 0 => .cluster (cluNo (n / 109) (n % 109))
      | 1 => .mesh d
      | 2 => .bridge d
      | 3 => .dieCtl d
      | _ => .sram d)
  else if n < 1965 then
    let q : Fin 4 := Fin.ofNat 4 ((n - 1853) / 28)
    let k := (n - 1853) % 28
    some (if k < 8 then .hbm (Fin.ofNat 32 (8 * q + k)) else if k < 24 then .link (Fin.ofNat 64 (16 * q + k - 8))
      else match k - 24 with
        | 0 => .fabric q
        | 1 => .ring q
        | 2 => .fieldPorts q
        | _ => .hubCtl q)
  else match n with
    | 1965 => some .pcie
    | 1966 => some .stewards
    | 1967 => some .judge
    | _ => none

/-- What a section writes once for the module: registers, HBM, gate groups, initial domain states. -/
def State.sectMod (s : State) (e : Sect) : State :=
  (Config.sectionWrites e.typ e.data).foldl (fun s w =>
    let a := w.2.1
    let v := leNat w.2.2
    if w.1 == 3 && modRegOf e.typ a then
      match regAt a with
      | some (r, u) =>
        if r == R.PWR_CAP then s.capWrite .plain v else if r == R.PWR_FLOOR then s.floorWrite .plain v else s.loaderWrite r u v
      | none => s
    else if w.1 == 4 && (e.typ == 6 || e.typ == 8 || e.typ == 10) && a + w.2.2.length ≤ 2 ^ 41 then s.stBytes a w.2.2
    else if w.1 == 6 && e.typ == 8 then { s with gates := some (v % 256, v / 256 % 256) }
    else if w.1 == 7 && e.typ == 6 then
      match domOf a with
      | some d =>
        let dst := if v == 0 then DomState.off else if v == 1 then .retention else .on
        if dst != .off && !s.domMay d then s else s.domSet d dst
      | none => s
    else s) s

/-- After a groups section: a valid header that fails R330, or whose `vc` equals `mvc`, keeps `valid` = 0 (R369, R444). -/
def State.grpLoadCheck (s : State) : State :=
  ((List.range 256).filter s.grpValid).foldl (fun s g =>
    if s.grpOk g (s.grpMem g) && s.grpVc g != s.mvc then s
    else (s.setGrpF g 15 1 (setBits (s.grpF g 15 1) 0 0 0)).grpPost 1 g 0) s

/-- The clusters of a region. -/
def State.regionClus (s : State) (reg : Nat × Nat × Nat) : List Clu :=
  s.allClus.filter (fun c => match s.logPos c with
    | some p => regionIn (3, p.1, p.2) reg
    | none => false)

/-- A die's mesh routes: the bytes of their section, for the physical die that holds the logical die (R443; log 131). -/
def State.sectRoutes (s : State) (reg : Nat × Nat × Nat) (e : Sect) : State :=
  if e.typ != 2 then s
  else s.flt.dieMap.zipIdx.foldl (fun s p =>
    if regionIn (2, p.2, 255) reg && (e.ldie == 255 || e.ldie == p.2) then
      { s with img := { s.img with routes := slSet s.img.routes p.1 e.data } }
    else s) s

/-- What a section writes for the clusters of a region, at the positions they hold and at those they will hold from the next start
hurdle on (R359, R447). -/
def State.sectClus (s : State) (reg : Nat × Nat × Nat) (e : Sect) : State :=
  let f (s : State) : State := (s.regionClus reg).foldl (fun s c => match s.logPos c with
    | some p => if e.addresses reg p then s.sectClu e c else s
    | none => s) s
  if s.flt.coreNext.isEmpty && s.flt.cluNext.isEmpty then f s else (f s).inNext f

/-- A section takes effect (R447). -/
def State.sectApply (s : State) (reg : Nat × Nat × Nat) (e : Sect) : State :=
  let s := if e.typ == 11 then
      let bs := e.data.drop 8
      match s.resolve (at_ e.data 0 8) bs.length with
      | .ok a => s.stBytes a bs
      | .error _ => s
    else s
  let s := s.sectMod e
  let s := if e.typ == 8 then s.grpLoadCheck else s
  (s.sectRoutes reg e).sectClus reg e

/-- The claims of an image replace those of its region, for a module image all; claims "always" are requested (R443, R447, R451). -/
def State.claimsApply (s : State) (m : Image) : State :=
  if m.scope != 1 && !m.sects.any (fun e => e.typ == 9) then s
  else
    let gone := s.claims.filter m.replacesClaim
    let s := gone.foldl (fun s k => match s.claims.idxOf? k with
      | some i => s.claimRelease i
      | none => s) s
    let s := { s with claims := s.claims.filter (fun k => !m.replacesClaim k) ++ m.claims.filterMap id }
    (s.claims.zipIdx).foldl (fun s p => if p.1.whenN == 0 then s.claimRequest p.2 else s) s

/-- The clusters of an image's region stall, and its sections will be written one by one (R447). -/
def State.imgBegin (s : State) (m : Image) : State :=
  let s := { s with img := { s.img with sect := some 0, hit := false } }
  let s := (s.regionClus m.region).foldl (fun s c => s.setClu c { s.clu c with stalled := true }) s
  s.puts 0 [(F.IMG_STATE_state, 3), (F.IMG_STATE_section, 0)]

/-- What follows an image's last section (R447): the strobe of their groups, the claims, the store, the mirrors, the identity of a
module image; the region runs on. -/
def State.imgEnd (s0 : State) (m : Image) : State :=
  let reg := m.region
  let s := s0.updStrobe ((m.sects.map (fun e => 2 ^ e.group)).foldl (· ||| ·) 0)
  let s := (s.claimsApply m).notify s0
  let types := m.sects.map (fun e => e.typ)
  let keep := s.img.store.filter (fun p => !(regionIn p.1 reg && (m.scope == 1 || types.contains p.2.typ)))
  let s := { s with
    clus := s.clus.map (fun (p : Nat × Cluster) => (p.1, { p.2 with stalled := false }))
    img := { s.img with
      store := keep ++ m.sects.map (fun e => (reg, e)), waiting := none, applying := false, sect := none, hit := false } }
  let s := (s.regionClus reg).foldl State.mirrorSave s
  let s := if m.scope == 1 then
      ({ s with img := { s.img with digest := m.digest } }).put64 R.IMG_ID_LO R.IMG_ID_HI 0 m.id
    else s
  s.puts 0 [(F.IMG_STATE_scope, 0), (F.IMG_STATE_state, 0), (F.IMG_STATE_section, 0)]

/-- An application under way writes its next section; after the last it ends, with IMG_APPLIED (R447). When a lasting fault met its
region it stops, and the fault engine's refill writes the sections that are left from the store (R449; log 53). In a freeze and in
Blocks it pauses (R449). -/
def State.imgStep (s : State) (m : Image) (k : Nat) : State :=
  if !s.live then s
  else if s.img.hit then
    let s := (m.sects.drop k).foldl (fun s e => s.sectApply m.region (s.sectGet e)) s
    s.imgEnd m
  else match m.sects[k]? with
    | some e =>
      let s := s.sectApply m.region (s.sectGet e)
      { s.put F.IMG_STATE_section 0 k with img := { s.img with sect := some (k + 1) } }
    | none => (s.imgEnd m).imgPost 2 0

/-- Is a partial image's region absent: no physical die holds it, and no takeover of that die runs (R449). -/
def State.regionAbsent (s : State) (m : Image) : Bool :=
  m.scope != 1 && (match s.flt.dieMap[m.ldie]? with
    | some d => s.quarIs 4 (unitOf d 0 0 0) && !s.flt.takeovers.contains d
    | none => true)

/-- Does a takeover of the region run (R449). A remap moves a position in one step; the refill that follows it holds no image
back (R447). -/
def State.regionBusy (s : State) (m : Image) : Bool :=
  match s.flt.dieMap[m.ldie]? with
  | some d => m.scope != 1 && s.flt.takeovers.contains d
  | none => false

/-- Is a cluster stopped, abandoned or being refilled (R447). -/
def State.cluIdle (s : State) (c : Clu) : Bool :=
  s.get F.CLU_SEQ_STATUS_stop (cluU c) != 0 || (s.clu c).abandoned || (s.clu c).refillPend

/-- Is every cluster of a region, as its positions will stand from the next start hurdle on, stopped, abandoned or being refilled. -/
def State.regionIdle (s : State) (reg : Nat × Nat × Nat) : Bool := (s.mapped.regionClus reg).all s.cluIdle

/-- The waiting image begins to take effect when its moment has come: `atStart` at a start hurdle (R447, R449). -/
def State.imgTry (s : State) (atStart : Bool) : State :=
  match s.img.waiting with
  | none => s
  | some m =>
    if !s.img.applying || s.img.sect.isSome || !s.live then s
    else if s.regionAbsent m then ({ s with img := { s.img with applying := false } }).imgPost 0x10 0
    else if s.regionBusy m then s
    else if m.scope == 1 then (if atStart || s.lap.step == 0 then s.imgBegin m else s)
    else if (atStart && (s.regionClus m.region).all (fun c => !(s.clu c).late)) || s.regionIdle m.region then s.imgBegin m else s

/-- Does a module image wait for the next start hurdle (R447). -/
def State.imgFirst (s : State) : Bool := s.img.applying && s.img.waiting.any (fun m => m.scope == 1)

/-- What a tick does for images: a verification ends, an application goes on or begins (R444, R447). -/
def State.imgTick (s : State) : State :=
  match s.img.loading, s.img.waiting, s.img.sect with
  | some a, _, _ => if s.live && s.jdg.run.isNone then s.imgVerdict a else s
  | none, some m, some k => s.imgStep m k
  | none, _, _ => s.imgTry false

/-- A write of `apply` (R447); with no verified image it is ignored (R449). -/
def State.imgApply (s : State) : State :=
  if s.img.waiting.isSome then ({ s with img := { s.img with applying := true } }).imgTry false else s

/-- IMG_APPLY: see State.imgApply. -/
def execImgApply (s : State) : Host.Outcome State Fault Refusal := .next (s.whenServed .images 0 0 s.imgApply)

/-- The sections in effect for a logical cluster: of each type those of the narrowest region that carries it (R443,
R445). -/
def State.sectsFor (s : State) (p : Nat × Nat) : List ((Nat × Nat × Nat) × Sect) :=
  let regs := [(3, p.1, p.2), (2, p.1, 255), (1, 255, 255)]
  (List.range 12).flatMap (fun t =>
    match regs.find? (fun r => s.img.store.any (fun x => x.1 == r && x.2.typ == t)) with
    | some r => (s.img.store.filter (fun x => x.1 == r && x.2.typ == t && x.2.addresses r p)).map (fun x => (x.1, s.sectGet x.2))
    | none => [])

/-- A physical die that takes over a logical die gets the mesh routes in effect from the store (R362, R443). -/
def State.routesRefill (s : State) (d : Nat) : State :=
  match s.ldieOf d with
  | none => s
  | some ld =>
    let l := s.img.store.filter (fun x => x.2.typ == 2 && (x.2.ldie == 255 || x.2.ldie == ld))
    match (l.filter (fun x => x.1.1 == 2 && x.1.2.1 == ld) ++ l.filter (fun x => x.1.1 == 1)).head? with
    | some x => { s with img := { s.img with routes := slSet s.img.routes d (s.sectGet x.2).data } }
    | none => s

/-- The schedule in effect for a cluster: the items of its sections in the store (R443, R453). -/
def State.schedule (s : State) (c : Clu) : List Item :=
  match s.logPos c with
  | some p => (s.sectsFor p).flatMap (fun x => x.2.schedule)
  | none => []

/-- The store's sections are applied to one cluster, without verifying them again (R359, R445). -/
def State.sectsRefill (s : State) (c : Clu) : State :=
  match s.logPos c with
  | none => s
  | some p =>
    let l := s.sectsFor p
    let s := l.foldl (fun s x => s.sectClu x.2 c) s
    let s := l.foldl (fun s x =>
      if x.2.typ != 11 then s
      else
        let q := at_ x.2.data 0 8
        let bs := x.2.data.drop 8
        match s.placeUnit q, s.resolve q bs.length with
        | some k, .ok a => if bits q 63 61 != 0 && k.clu == c then s.stBytes a bs else s
        | _, _ => s) s
    s.updStrobe ((l.map (fun x => 2 ^ x.2.group)).foldl (· ||| ·) 0)

end Sys2Proof.Machine
end

