-- ==== Sys2Proof/Machine/Recover.lean ====
section
/-!
DEFINITION. Refill of remapped units (R359) and takeover of a field die (R17, R362).
-/

namespace Sys2Proof.Machine

/-- Where no lap is under way on the module, or its commit is done, a refilled cluster runs the refresh part of its schedule again
(R359): its sequencer runs, in phase 6, up to the end of the lap. -/
def State.refreshAgain (s : State) (c : Clu) : State :=
  if (s.clu c).refreshPend && (s.lap.step == 0 || decide (7 ≤ s.lap.step)) then
    let s := s.setClu c { s.clu c with abandoned := false, ended := false, heldItem := none }
    s.puts (cluU c) [(F.CLU_SEQ_STATUS_stop, 0), (F.CLU_SEQ_STATUS_phase, 6)]
  else s

/-- Refill a cluster or its new core (R359): the store's sections, then the pool areas from the mirror; then refresh for that unit
alone. -/
def State.refillClu (s : State) (c : Clu) : State :=
  let s := (s.sectsRefill c).mirrorLoad c
  (s.setClu c { s.clu c with refillPend := false, refreshPend := true }).refreshAgain c

/-- REFILL: the fault engine refills a remapped logical cluster, before its mapping takes effect (R29, R359). -/
def execRefill (c : Clu) (s : State) : Host.Outcome State Fault Refusal :=
  .next (if s.live && (s.clu c).refillPend && (s.mapped.logClu c).isSome then s.inNext (fun s => s.refillClu c) else s)

/-- The domains that carry logical positions on a die: its die-wide domains and its active clusters (R571). -/
def State.dieDoms (s : State) (d : Nat) : List Dom :=
  let f : Fin 17 := ⟨d % 17, Nat.mod_lt _ (by decide)⟩
  [.mesh f, .bridge f, .dieCtl f, .sram f] ++ (s.activeClus d).map (fun n => .cluster (cluNo d n))

/-- Power a die's domains; its clusters load what the remap table holds for them. -/
def State.dieOn (s : State) (d : Nat) : State := (s.dieDoms d).foldl (fun s x => s.domSet x .on) s

/-- FD16 holds a position no more: its bridge-ports domain goes off (R23), as seen from the hub its port served. -/
def State.bridgeOff (s : State) (d : Nat) : State := if d == 16 then s.domSet (.bridge 16) .off else s

/-- The oldest retired die's position goes to the alternate, whose clusters are powered and refilled; the alternate role passes to
the retired die, and the bridge of an FD16 that loses its position goes off. It fails without a qualified alternate, or when a step
on the alternate fails (R17, R23, R362, R363). Then the faults that waited for it are served (R374). -/
def State.takeover (s : State) (fails : Bool) : State :=
  let t := match s.flt.takeovers with
    | [] => s
    | d :: rest =>
      match s.flt.alt with
      | some a =>
        if !fails && s.altFor d then
          let s := s.bridgeOff d
          let s := { s with flt := { s.flt with takeovers := rest, dieMap := replaceN d a s.flt.dieMap, alt := some d, dirty := true } }
          let s := (s.activeClus a).foldl (fun (s : State) n =>
            let c := cluNo a n
            let s := s.setClu c { s.clu c with reload := true, abandoned := s.lap.step != 0, atGate := s.lap.step != 0 }
            s.refillClu c) ((s.dieOn a).routesRefill a)
          (s.fltLog 4 (unitOf d 0 0 0) 2 0 0).fltPost 4 (unitOf d 0 0 0) 4
        else s.takeoverFail d rest
      | none => s.takeoverFail d rest
  t.serveQueued

/-- TAKEOVER: see State.takeover. Whether a step on the alternate fails is physical: a free value (log 7). -/
def execTakeover (s : State) : Host.Outcome State Fault Refusal :=
  .next (if s.live then ({ s with freeCtr := s.freeCtr + 1 }).takeover (Config.free s.freeCtr % 2 == 1) else s)

end Sys2Proof.Machine
end

