-- ==== Sys2Proof/Machine/Boot.lean ====
section
/-!
DEFINITION. Power-on, bring-up, module reset, and the firmware switch (R373, R471, R472, R571 to R580).
-/

namespace Sys2Proof.Machine

/-! ### The Judge's boot chain (R462, R467, R471, R480) -/

/-- J1: the PUF's health, then the identity from it; a readout that does not reproduce the key check is repeated once (R467), a failed
test too (R480). -/
def State.judgeIdentity (s : State) (o : BringUp) : State :=
  let s := s.jdgTest o.healthFails
  match s.jdg.helper with
  | none => s
  | some (h, check) =>
    match (Config.pufSecret h).filter (fun x => shake256 (ed448Public (idKey x)) 64 == check) with
    | none => if s.flag F.JDG_STATE_error 0 then s else s.jdgPost 0x0B
    | some x =>
      if s.flag F.JDG_STATE_error 0 then s
      else if 2 ≤ o.pufFails then s.jdgPost 0x0B
      else
        let s := s.jdgTest o.pairFails
        if s.flag F.JDG_STATE_error 0 then s
        else ({ s with jdg := { s.jdg with priv := some (idKey x) } }).put F.JDG_STATE_identity 0 1

/-- J2: the key table of the first copy that matches its digest; the other is replaced from it (R471). -/
def State.keysRead (s : State) (bad : List (Fin 2)) : State :=
  let good := [0, 1].filter (fun k => !bad.any (fun b => b.val == k) && (s.jdg.copies.getD k {}).valid)
  s.setKeys ((good.head?.map (fun k => (s.jdg.copies.getD k {}).tab)).getD [])

/-- No firmware slot verified: the stewards stay held and ALERT_N shows cause 1 (R471, R565). -/
def State.fwHold (s : State) : State :=
  { s with
    jdg := { s.jdg with fwNone := true }
    host := { s.host with alerts := s.host.alerts ||| 2 } }

/-- What slot b boots: nothing when it does not verify, or when a block that stays uncorrectable on reread is not in the other
slot either (R373, R471). -/
def State.fwSlot (s : State) (lost : List Nat) (b : Nat) : Option (Nat × List Byte) :=
  match s.fwVerify b with
  | .ok v => if lost.contains b && (lost.contains (1 - b) || !s.fwSame) then none else some v
  | .error _ => none

/-- J3 and J4: the boot record's slot, else the other (R471). -/
def State.judgeFw (s : State) (lost : List Nat) : State :=
  let b := s.jdg.boot
  match s.fwSlot lost b with
  | some v => s.fwBoot b v
  | none =>
    match s.fwSlot lost (1 - b) with
    | some v => s.fwBoot (1 - b) v
    | none => s.fwHold.jdgPost 0x0C

/-- The boot chain (R471). `power`: after a power-on, when `approved` of the policy record takes effect, with a
zeroization first when it changes (R462). A lasting self-test failure holds the stewards (R480). `lost`: firmware slots with a
block that stays uncorrectable. -/
def State.judgeBoot (s : State) (o : BringUp) (power : Bool) (lost : List Nat) : State :=
  let s := if power then
      let s := if s.jdg.policy != s.jdg.inEffect then s.zeroize else s
      { s with jdg := { s.jdg with inEffect := s.jdg.policy } }
    else s
  if s.flag F.JDG_STATE_error 0 then s.fwHold
  else if !o.testFails.isEmpty then s.jdgError.fwHold
  else
    let s := { s with jdg := { s.jdg with ok := true } }
    let s := (s.setApproved s.jdg.inEffect).judgeIdentity o
    let s := (s.put F.JDG_FLOOR_floor 0 s.jdg.floor).keysRead o.keyFails
    if s.flag F.JDG_STATE_error 0 then s.fwHold else (s.judgeFw lost).doeLate

/-! ### Bring-up (R571 to R575) -/

/-- The domains of the hub dies, with the HBM stacks and the links (R23). -/
def hubDoms : List Dom :=
  (List.finRange 4).flatMap (fun q => [.fabric q, .ring q, .fieldPorts q, .hubCtl q]) ++ (List.finRange 32).map Dom.hbm
    ++ (List.finRange 64).map Dom.link ++ [.pcie, .stewards, .judge]

/-- The domains of step 0x02: HB0 with the endpoint, the stewards and the Judge (R23, R571). DESIGN CHOICE (log 135): the stacks and links of
HB0 come with those of the other hub dies. -/
def hub0Doms : List Dom := [.fabric 0, .ring 0, .fieldPorts 0, .hubCtl 0, .pcie, .stewards, .judge]

/-- Domains are switched on. -/
def State.domsOn (s : State) (l : List Dom) : State := { s with doms := l.foldl (fun m d => slSet m (domNo d) .on) s.doms }

/-- Is a copy of the remap table valid: its CRC holds (R376). -/
def RemapCopy.valid (k : RemapCopy) : Bool := k.crc == remapCrc k.gen k.tab

/-- The copies of the remap table that are not valid at bring-up: their CRC fails, or the flash read does (`bad`). -/
def State.remapBad (s : State) (bad : List (Fin 2)) : List Nat :=
  [0, 1].filter (fun k => bad.any (fun b => b.val == k) || !(if k == 0 then s.flt.copy0 else s.flt.copy1).valid)

/-- The remap table of the valid copy with the higher generation goes into the fault engine; a copy that is not valid
counts as empty (R376, R571). -/
def State.remapBoot (s : State) (bad : List Nat) : State :=
  let c0 := if bad.contains 0 then {} else s.flt.copy0
  let c1 := if bad.contains 1 then {} else s.flt.copy1
  ({ s with flt := { s.flt with copy0 := c0, copy1 := c1, toRemapTable := (if c0.gen < c1.gen then c1 else c0).tab } }).mapped

/-- A stack whose training failed twice: its channels are out of service (R365, R574). -/
def State.stackOut (s : State) (h : Nat) : State := (List.range 32).foldl (fun s k => s.chanQuar (h * 256 + k) 0) s

/-- The interface training of the stacks that pass it (R286): when, and at what temperature. -/
def State.stacksTrain (s : State) (o : BringUp) : State :=
  let ok := o.temps.zipIdx.filter (fun p => !(o.stackFails.any (fun h => h.val == p.2)))
  { s with trained := ok.foldl (fun l p => slSet l p.2 (s.pacer.time, p.1)) s.trained }

/-- Units remapped during bring-up are in use at once (R573). -/
def State.mapNow (s : State) : State :=
  let s := s.mapTake
  s.allClus.foldl (fun s c =>
    if (s.clu c).refillPend then s.setClu c { s.clu c with refillPend := false, reload := false } else s) s

/-- Step 0x06: the dies that hold positions are powered; a die whose bridge fails is retired and taken over, a cluster
or a core with a word that fails twice is remapped, lower physical position first (R28, R571, R573, R574). -/
def State.diesUp (s : State) (o : BringUp) : State :=
  let dies := s.flt.dieMap
  let bad := sortOn id ((o.dieFails.map (fun (d : Fin 17) => d.val)).filter (dies.contains ·))
  let s := (dies.filter (fun d => !bad.contains d && !s.quarIs 4 (unitOf d 0 0 0))).foldl State.dieOn s
  let s := bad.foldl (fun s d => (s.retireDie d).takeover (s.flt.alt.any (fun a => o.dieFails.any (fun d => d.val == a)))) s
  let s := (sortOn cluU o.clusterFails).foldl (fun s c => if s.domOn (.cluster c) then s.retireCluster c else s) s
  ((sortOn coreU o.coreFails).foldl (fun s c =>
    if s.domOn (.cluster c.clu) && (s.activeCores c.clu).contains c.core then s.retireCore c 0 else s) s).mapNow

/-- Steps 0x02 to 0x06; the Judge's boot chain runs beside them. Bring-up stops at 0x03 without a valid remap copy
(R571, R574, R575). -/
def State.bringUp (s : State) (o : BringUp) (power : Bool) : State :=
  let s := { s with pacer := { s.pacer with waitBus := false } }.domsOn hub0Doms
  let s := o.retried.foldl (fun s p => s.fltLog p.1.toNat p.2.toNat 0 0 0) s
  let lost := (o.flash.filter (fun p => p.2)).map (fun p => p.1.val)
  let s := (s.flashLog (o.flash.map (fun p => p.2))).judgeBoot o power lost
  let badCopies := s.remapBad o.copyFails
  if badCopies.length == 2 then
    ((s.fltLog 0 0 1 0 0).degrade 0 0).put F.HUB_HOST_READY_stage 0 0x83
  else
    let s := (s.remapBoot badCopies).domsOn hubDoms
    let s := if o.ringFails then (s.fltLog 0 0 1 0 0).degrade 0 0 else s
    let s := (o.stackFails.foldl (fun s h => s.stackOut h) s).stacksTrain o
    let s := (s.put F.HUB_HOST_READY_hbm 0 1).diesUp o
    let s := o.stewardFails.foldl (fun s t => s.stewQuar t) s
    s.puts 0 [(F.HUB_HOST_READY_dies, 1), (F.HUB_HOST_READY_stage, 6)]

/-- POWER_ON: PWR_OK is high and the bus lies above 40.0 V; after a ride that ended without recovery the bus lies above
`sag_dv`, and no freeze pauses the steps (R571, R580). After a thermal trip PWR_OK must fall first (R431). -/
def execPowerOn (o : BringUp) (s : State) : Host.Outcome State Fault Refusal :=
  .next (if s.live && s.stage ≤ 1 && decide (40000 ≤ o.mv) && !s.pacer.thermtrip && (!s.pacer.waitBus || decide (s.sagMv < o.mv)) then
    (s.bus o.mv).bringUp o (s.stage == 0)
  else s)

/-- PWR_OK_FALL: a power-on reset at any stage; the cause of a collapse or trip before it stays (R578, R579, R580). -/
def execPwrOkFall (s : State) : Host.Outcome State Fault Refusal :=
  .next (if s.stage == 0 then { s with pacer := { s.pacer with thermtrip := false } } else s.lost 0)

/-- A write of HUB_RST_CTRL (R578, R579): with the key and `module`, a module reset; a debug authorization ends (R478). -/
def State.rstWrite (s : State) (v : Nat) : State :=
  if bits v 31 16 == 0xA980 && bit v 0 then
    let n := s.get F.HUB_RST_CAUSE_resets 0
    let t := s.restart.puts 0 [(F.HUB_RST_CAUSE_resets, satInc n 0xFFFF), (F.HUB_RST_CAUSE_cause, 1)]
    if s.jdg.grant.isSome then t.jdgPost 0x10 else t
  else s

/-! ### Stewards and their firmware (R373, R471, R472) -/

/-- Bring-up is complete (R571): the cap leaves its reset value, and the order scan's timer is armed (R416, R572). -/
def State.bringUpDone (s : State) : State :=
  let w := 10000000 * s.get F.PWR_CAP_cap_w 0
  let s := { s with
    pacer := { s.pacer with cap := { t0 := s.ns, v0 := max w 5000000000, v1 := w } }
    starter := { s.starter with stewReady := true } }
  (s.puts 0 [(F.HUB_HOST_READY_stewards, 1), (F.HUB_HOST_READY_stage, 0x0F)]).armScan

/-- Security version and digest that the header of a firmware slot states (R470, R474). -/
def State.fwHead (s : State) (slot : Nat) : Nat × List Byte :=
  let h := s.fl (fwAt slot) 128
  (leNat ((h.drop 8).take 4), (h.drop 64).take 64)

/-- A restart of the stewards ends: the order scan's timer is armed again (R416), and a switch completes from its slot
(R373). -/
def State.fwDone (s : State) : State :=
  let s := { s.armScan with
    flt := { s.flt with fwRestart := false, fwFails := 0 }
    starter := { s.starter with stewReady := true } }
  if s.flag F.HUB_FW_STATUS_pending 0 then
    let slot := 1 - s.get F.HUB_FW_STATUS_active 0
    let s := { s with jdg := { s.jdg with fw := some (s.fwHead slot), boot := slot } }
    (s.puts 0 [(F.HUB_FW_STATUS_pending, 0), (F.HUB_FW_STATUS_fallback, 0), (F.HUB_FW_STATUS_active, slot)]).fltPost 0 0 0x0C
  else s

/-- STEWARD_READY: released stewards, or stewards restarted from a slot that boots, report ready (R373, R571); what waited for them is delivered (R540). -/
def execStewardReady (s : State) : Host.Outcome State Fault Refusal :=
  .next (if !s.live || !s.domOn .stewards then s
  else if s.stage == 6 && s.flag F.JDG_STATE_ready 0 then s.bringUpDone.notify s
  else if s.flt.fwRestart && !s.flt.fwLost then s.fwDone.notify s
  else s)

/-- STEWARD_READY_TIMEOUT: no report within 100 ms of a restart: the restart is retried once, then the stewards restart
from the old slot (R373). -/
def execStewardReadyTimeout (s : State) : Host.Outcome State Fault Refusal :=
  .next (if !s.live || !s.flt.fwRestart || !s.flag F.HUB_FW_STATUS_pending 0 then s
  else if s.flt.fwFails == 0 then { s with flt := { s.flt with fwFails := 1 } }
  else
    let s := { s with flt := { s.flt with fwFails := 2, fwLost := false } }
    (s.puts 0 [(F.HUB_FW_STATUS_pending, 0), (F.HUB_FW_STATUS_fallback, 1)]).fltPost 0 0 0x0C)

/-- The Judge verifies the inactive slot again for a switch (R373, R472): a slot that no longer verifies, or whose digest is not the one
VERIFY_FW reported, cancels it. -/
def State.fwSwitchGo (s : State) : State :=
  let slot := 1 - s.get F.HUB_FW_STATUS_active 0
  let ok := s.judgeUp && (match s.fwVerify slot with
    | .ok v => slFind s.jdg.verified slot == some v.2
    | .error _ => false)
  if ok then ({ s with flt := { s.flt with fwOk := true } }).put F.HUB_FW_STATUS_pending 0 1
  else (s.put F.HUB_FW_STATUS_fallback 0 1).fltPost 0 0 0x0C

/-- A write of `switch`: it waits for a mailbox command that runs (R481). -/
def State.fwSwitchWrite (s : State) : State :=
  if s.flag F.HUB_FW_STATUS_pending 0 || s.flt.fwRestart || s.flt.fwAsk then s
  else if s.judgeUp && !s.judgeFree then { s with flt := { s.flt with fwAsk := true } }
  else s.fwSwitchGo

/-- A switch that waited for the Judge goes on (R481). -/
def State.fwSwitchLate (s : State) : State :=
  if s.flt.fwAsk then ({ s with flt := { s.flt with fwAsk := false } }).fwSwitchGo else s

/-- HUB_FW_SWITCH: a write of `switch` while the hub control block is in service. -/
def execHubFwSwitch (s : State) : Host.Outcome State Fault Refusal :=
  .next (if s.live && s.domOn (.hubCtl 0) then s.fwSwitchWrite else s)

/-- MODULE_RESET: a write of HUB_RST_CTRL while the hub control block is in service (R524, R579). -/
def execModuleReset (v : Word) (s : State) : Host.Outcome State Fault Refusal :=
  .next (if s.live && s.domOn (.hubCtl 0) then s.rstWrite v.toNat else s)

end Sys2Proof.Machine
end

