-- ==== Sys2Proof/Machine/Lap.lean ====
section
/-!
DEFINITION. The lap (R239 to R266): start hurdle, heat slots and the feed, the gate, the verdict, the optimizer (R228 to
R232), commit, refresh, and the stop and restart of a cluster.
-/

namespace Sys2Proof.Machine

/-- Post GRP_LAP_STATUS (R266). -/
def State.lapPost (s : State) (code : Nat) : State := s.post R.GRP_LAP_STATUS 0 [] code 2402

/-- Set `phase` of CLU_SEQ_STATUS (R263). -/
def State.phase (s : State) (c : Clu) (p : Nat) : State := s.put F.CLU_SEQ_STATUS_phase (cluU c) p

/-! ### The start hurdle (R245) -/

/-- Has the lap ended on this module: no lap runs, or every cluster has ended its refresh, with its mirror copied
(R245, R358). -/
def State.lapOver (s : State) : Bool :=
  s.lap.step == 0 || (decide (7 ≤ s.lap.step) && s.allClus.all (fun c => (s.clu c).ended || (s.clu c).abandoned))

/-- Is the lap's commit done, or does none run: refresh may still go on when the next lap starts (R245, R257). -/
def State.lapDone (s : State) : Bool := s.lap.step == 0 || decide (7 ≤ s.lap.step)

/-- Was the last verdict a replay for EPOCH whose fills have not completed (R252, R403). -/
def State.fillsWait (s : State) : Bool :=
  s.get F.GRP_LAP_VERDICT_outcome 0 == 1 && bit (s.get F.GRP_LAP_VERDICT_reasons 0) 3
    && s.snp.fills.any (fun f => !f.done || f.rollback)

/-- May the start hurdle begin: its boundary has come, the lap before has committed or been vetoed, refills with their refresh,
takeovers and mirror copies are done, no image is taking effect, and the module is not degraded (R245, R252, R257, R358, R359, R362,
R366, R447). -/
def State.startMay (s : State) : Bool :=
  s.live && s.stage == 0x0F && s.pacer.lapDue.isSome && s.lapDone && !s.flt.degraded && s.flt.takeovers.isEmpty && s.img.sect.isNone
    && s.mapped.allClus.all (fun c => !(s.clu c).refillPend && !(s.clu c).mirrorPend && !(s.clu c).refreshPend && !(s.clu c).late)
    && !s.fillsWait

/-- The lap logic samples its registers (R241, R265, R339). -/
def State.lapSample (s : State) (b : Nat) : State :=
  { s with
    lap := {
      seed := s.get64 R.GRP_LAP_SEED_LO R.GRP_LAP_SEED_HI 0
      lam := if s.lap.lamSet then s.get64 R.GRP_LAP_INDEX_LO R.GRP_LAP_INDEX_HI 0 else s.lap.lam
      pi := if s.lap.piSet then s.get64 R.GRP_LAP_POS_LO R.GRP_LAP_POS_HI 0 else s.lap.pi
      policyW := (s.rd R.GRP_LAP_POLICY 0).toNat
      lossScale := (s.rd R.GRP_LAP_LOSS_SCALE 0).toNat
      clip := (s.rd R.GRP_LAP_CLIP 0).toNat
      tail := (s.rd R.GRP_LAP_TAIL 0).toNat
      limit := s.get F.GRP_LAP_GATE_LIMIT_limit_us 0
      list := s.get F.GRP_RED_STEP_HI_list_hi 0 * 2 ^ 32 + s.get F.GRP_RED_STEP_LO_list 0 * 32
      feedBase := s.get F.GRP_LAP_FEED_HI_base_hi 0 * 2 ^ 32 + s.get F.GRP_LAP_FEED_LO_base 0 * 64
      feedLog2 := s.get F.GRP_LAP_FEED_HI_size_log2 0
      step := 1
      b := b } }

/-- Where a cluster's start record stands before this start hurdle (R221). -/
def State.startOld (s : State) (c : Clu) : Nat := (s.clu c).start.getD (s.startReg c)

/-- The consumed counters the start hurdle gives the lanes of a cluster: on a replay, or after a remap, those of the start
record (R221). -/
def State.startCtrs (s : State) (c : Clu) : List Nat :=
  (List.range 64).map (fun l =>
    if (s.clu c).reload then s.ldH (s.startOld c + 8 * l) 8 else ((s.clu c).lane l).consumed)

/-- What the cut samples of lane l of cluster c, before the lanes discard their queues (R385). -/
def State.cutLane (s : State) (c : Clu) (l : Nat) : Nat × Nat :=
  if (s.clu c).reload then (s.ldH (s.startOld c + 8 * l) 8, 0) else (((s.clu c).lane l).n, ((s.clu c).lane l).q.length)

/-- The lap key in CLU_VEC_LAPKEY0 to 3 (R219). -/
def State.keyReg (s : State) (c : Clu) : Nat :=
  leNat ([R.CLU_VEC_LAPKEY0, R.CLU_VEC_LAPKEY1, R.CLU_VEC_LAPKEY2, R.CLU_VEC_LAPKEY3].flatMap
    (fun r => toBytes 4 (s.rd r (cluU c)).toNat))

/-- Clear the statistics records of a cluster and enter the adaptation count of the last commit (R167). -/
def State.staClearAll (s : State) (c : Clu) : State :=
  (List.range (s.get F.STA_CFG_records (cluU c))).foldl (fun s i =>
    let a := s.staRec c i
    (s.staClear a).st (a + 20 + 4 * ctr.adaptation) 4 (slGet 0 (s.clu c).adapted (s.ld a 2))) s

/-- The start hurdle on one cluster: start record, lanes, key, records, column exclusions (R53, R167, R221, R222). -/
def State.startClu (s : State) (c : Clu) : State :=
  let x := s.clu c
  let cs := s.startCtrs c
  let a := s.startReg c
  let s := cs.zipIdx.foldl (fun s p => s.stH (a + 8 * p.2) 8 p.1) s
  let lanes := cs.zipIdx.map (fun p => (p.2, ({ n := ((x.lane p.2).place.getD p.1) } : Lane)))
  let s := s.setClu c { x with
    heldItem := none, abandoned := false, ended := false, atGate := false, lanes := lanes, key := s.keyReg c, start := some a
    copiesDone := 0, opts := 0, sendsDone := 0, fwd := 0, bwd := 0, emptyHeat := false, slot := none
    reload := false, bufs := [], thetaOld := [], ranged := [] }
  let s := (s.put F.CLU_SEQ_STATUS_stop (cluU c) 0).phase c 0
  let s := s.staClearAll c
  (s.goodCores c).foldl (fun s k =>
    (s.setCore k { s.core k with runs := [], done := [], held := [] }).colChange k) s

/-- The key check at the start hurdle: a cluster whose staged key names another lap stops before it (R219). -/
def State.startItem (s : State) (c : Clu) : State :=
  if (s.rd R.CLU_VEC_LAP (cluU c)).toNat != s.lap.lam % 2 ^ 32 then
    (s.vecPost c 3).stop c 6 (.startHurdle [])
  else s.startClu c

/-- Columns of core k that mismatch in both runs of the column test, or in its first only. -/
def testCols (tests : List TestFail) (k : CoreId) (both : Bool) : List Nat :=
  tests.filterMap (fun t => match t with
    | .column c col last => if c == k && last == both then some col.val else none
    | _ => none)

/-- The cores that a column test finds a mismatch in, lower physical position first (R28). -/
def testCores (tests : List TestFail) : List CoreId :=
  sortOn coreU (tests.filterMap (fun t => match t with
    | .column c _ _ => some c
    | _ => none)).eraseDups

/-- The generators that a known-answer test finds a mismatch in, lower physical position first, each with whether it failed
twice (R28, R361). -/
def testGens (tests : List TestFail) : List (Clu × Nat × Bool) :=
  sortOn (fun p => 256 * cluU p.1 + p.2.1) (tests.filterMap (fun t => match t with
    | .generator c g last => some (c, g.toNat, last)
    | _ => none)).eraseDups

/-- A generator's known-answer test: the repeat passes, or it fails twice (R355, R361). -/
def State.genTest (s : State) (p : Clu × Nat × Bool) : State :=
  let unit := unitOf p.1.die p.1.cl 0 0 + p.2.1
  if !s.cluOn p.1 || s.quarIs 8 unit then s
  else if p.2.2 then s.genFault p.1 p.2.1 else s.fltTransient 8 unit 0 0

/-- The column and generator tests of the start hurdles whose lap is a multiple of `test_laps` (R360, R361). -/
def State.startTests (s : State) (tests : List TestFail) : State :=
  let n := s.get F.HUB_FLT_TEST_test_laps 0
  if n == 0 || s.lap.lam % n != 0 then s
  else
    let s := (testCores tests).foldl (fun s k =>
      if s.cluOn k.clu && !s.coreQuar k then s.colResult k (testCols tests k false) (testCols tests k true) false else s) s
    (testGens tests).foldl State.genTest s

/-- Row repairs that are due: a row that the tests name as one with no repair resource left degrades the module (R365, R378). -/
def State.startRows (s : State) (tests : List TestFail) : State :=
  let due := s.flt.rowsDue
  due.foldl (fun s r =>
    let fails := tests.any (fun t => match t with
      | .row h ch row ok => !ok && h.val * 256 + ch.val == r.1 && row == r.2
      | _ => false)
    if fails then (s.fltLog 7 r.1 3 2 r.2).degrade 7 r.1
    else
      let s := s.fltLog 7 r.1 2 2 r.2
      { s with flt := { s.flt with rows := s.flt.rows ++ [(r.1, r.2)], dirty := true } })
    { s with flt := { s.flt with rowsDue := [] } }

/-- The steward stacks are discarded and their sources become pending again; nothing is delivered until the stewards
report ready (R540). -/
def State.stewHalt (s : State) : State :=
  let s := (List.range 8).foldl (fun s t => (s.stack t).foldl (fun s p => s.setPend p.1 true) s) s
  { s with starter := { s.starter with stk := s.starter.stk.filter (fun (p : Nat × List (Nat × Nat)) => p.1 == 8), stewReady := false } }

/-- A firmware switch whose second verification has ended restarts the stewards from the other slot (R373). A block of it that
stays uncorrectable on reread is taken from the slot before, or the slot does not boot. -/
def State.fwSwitch (s : State) (tests : List TestFail) : State :=
  if s.flag F.HUB_FW_STATUS_pending 0 && s.flt.fwOk then
    let bad := tests.filterMap (fun t => match t with
      | .flash last => some last
      | _ => none)
    let s := (s.flashLog bad)
    ({ s with flt := { s.flt with
        fwOk := false, fwRestart := true, fwFails := 0, fwLost := bad.contains true && !s.fwSame } }).stewHalt
  else s

/-- Landing windows with `lap_clear` start the lap with nothing landed (R310). -/
def State.landClear (s : State) : State :=
  (List.range 256).foldl (fun s w =>
    let a := s.landAt w
    if bit (s.ldH (a + 24) 1) 1 then s.stH (a + 16) 8 0 else s) s

/-- What the lap's first hurdle resets for the whole module. -/
def State.startModule (s : State) : State :=
  let s := { s with
    tensors := [], sums := [], mism := [], gsums := []
    red := { inp := s.red.inp }
    pacer := { s.pacer with lapDue := none, said := [] } }
  ((s.puts 0 [(F.GRP_LAP_OVERRUN_count, 0), (F.GRP_LAP_OVERRUN_max_us, 0), (F.GRP_RED_ESC_CNT_escaped, 0),
    (F.GRP_RED_FP32_CNT_fp32_blocks, 0), (F.GRP_RED_STATE_restarts, 0), (F.GRP_RED_STATE_running, 0),
    (F.GRP_RED_STATE_seg, 0)])).landClear

/-- Fill requests that waited for this start hurdle are served (R402). -/
def State.serveLate (s : State) : State :=
  s.snp.late.foldl (fun s p => s.serveStart p.1 p.2) { s with snp := { s.snp with late := [] } }

/-- The start hurdle (R219 to R222, R245, R385, R401, R448). A cluster that still runs refresh of the lap before meets it when it has
ended that (R257); the cut takes its lanes as they stand (log 61). -/
def State.startHurdle (s : State) (tests : List TestFail) : State :=
  let replay := s.lap.replay
  let busy := decide (7 ≤ s.lap.step)
  let s := s.mapTake.lapSample (s.pacer.lapDue.getD s.ns)
  let s := if s.lap.lam == 0 && !replay then { s with snp := { s.snp with since := s.lap.b, epochs := 0 } } else s
  let s := if replay then
      { s with snp := { s.snp with fills := s.snp.fills.filter (fun (f : FillRec) => !f.done) } } else s
  let s := s.allClus.foldl (fun s c =>
    let x := s.clu c
    s.setClu c { x with
      reload := replay || x.reload, abandoned := false, atGate := false, ended := false
      late := busy && s.cluOn c && !x.ended && !x.abandoned
      fwd := 0, bwd := 0, opts := 0 }) s
  let cut := s.cutBytes ((s.lap.lam + 2 ^ 64 - 1) % 2 ^ 64) s.lap.pi s.cutLane
  let s := s.startModule
  let s := s.allClus.foldl (fun s c => if s.cluOn c && !(s.clu c).late then s.startItem c else s) s
  let s := ((s.cutOut cut).serveLate).snapStart cut
  let s := s.imgTry true
  ((s.startTests tests).startRows tests).fwSwitch tests

/-- START_HURDLE: see State.startHurdle; a module image that waits takes effect before it (R447). -/
def execStartHurdle (tests : List TestFail) (s : State) : Host.Outcome State Fault Refusal :=
  .next (if s.startMay then (if s.imgFirst then s.imgTry true else s.startHurdle tests) else s)

/-! ### Heat slots and the feed (R242 to R246, R259) -/

/-- The slot under way on a cluster ends: when its work ended late, the overrun is counted, once for each instant
(R259). -/
def State.slotClose (s : State) (c : Clu) : State :=
  let x := s.clu c
  match x.slot with
  | none => s
  | some (t0, t1) =>
    let s := s.setClu c { x with slot := none, emptyHeat := false }
    if x.last ≤ t1 then s
    else
      let first := s.lap.lateSlots.isEmpty
      let us := min 0xFFFF ((x.last - t1) / 1000)
      let s := s.put F.GRP_LAP_OVERRUN_max_us 0 (max us (s.get F.GRP_LAP_OVERRUN_max_us 0))
      if s.lap.lateSlots.contains t0 then s
      else
        let s := { s with lap := { s.lap with lateSlots := s.lap.lateSlots ++ [t0] } }
        let s := s.satUp F.GRP_LAP_OVERRUN_count 0
        if first then s.lapPost 6 else s

/-- The lap steps in which a heat slot item of a phase may start, and the step it leads to (R245, R263). -/
def phaseStep (phase step : Nat) : Option Nat :=
  match phase with
  | 0 => if 1 ≤ step then some step else none
  | 1 => if step == 1 || step == 2 then some 2 else none
  | 2 => if step == 2 || step == 3 then some 3 else none
  | 3 => if step == 3 || step == 4 then some step else none
  | 4 => if step == 4 || step == 5 then some step else none
  | 5 => if step == 6 then some 6 else none
  | 6 => if step == 7 || step == 8 then some 8 else none
  | _ => none

/-- Does this module stage heats from its feed: it is the first or the last stage of its pipeline group (R242). -/
def State.feeds (s : State) : Bool :=
  match s.gates with
  | some p => s.grpSelf p.2 == 0 || s.grpSelf p.2 + 1 == s.grpN p.2
  | none => false

/-- Has the item before a cluster's next one ended, with nothing left that its sequencer waits for but a heat (R246). -/
def State.itemMay (s : State) (c : Clu) : Bool :=
  !s.cluBusy c && (match slFind s.waits (cluWaiter c 0) with
    | some x => x.what == 2
    | none => true)

/-- The forward heats that the clusters of the module have begun. -/
def State.fwdMax (s : State) : Nat :=
  (s.allClus.map (fun c => if (s.clu c).abandoned then 0 else (s.clu c).fwd)).foldl max 0

/-- The forward heat slots in the schedule of a cluster (R453). -/
def State.fwdPlan (s : State) (c : Clu) : Nat := ((s.schedule c).filter (fun i => i.kind == 8 && i.phase == 1)).length

/-- The update kernels in the schedule of a cluster: kernel items of phase 5 (R263, R453). -/
def State.optPlan (s : State) (c : Clu) : Nat := ((s.schedule c).filter (fun i => i.kind == 3 && i.phase == 5)).length

/-- Has the last forward heat ended on the module (R245): every cluster has run the forward heats of its schedule. DEDUCED (log 41): a
cluster whose items come without a schedule in the image has none, or as many as any other. -/
def State.forwardDone (s : State) : Bool :=
  s.allClus.all (fun c =>
    let x := s.clu c
    x.abandoned || (!x.late && !s.cluBusy c &&
      (if s.fwdPlan c == 0 then x.fwd == 0 || x.fwd == s.fwdMax else decide (s.fwdPlan c ≤ x.fwd))))

/-- Start a heat slot on a cluster: the heat is empty when this module's feed rejected it, or when the rejection travelled with
it from the first stage (R244, R246). -/
def State.heatSlot (s : State) (c : Clu) (phase : Nat) (start len step : Nat) (empty : Bool) : State :=
  let s := s.slotClose c
  let x := s.clu c
  let t0 := s.lap.b + 1000 * start
  let heat := if phase == 1 then x.fwd else x.fwd - 1 - x.bwd
  let s := s.setClu c { x with
    slot := some (t0, t0 + 1000 * len)
    fwd := if phase == 1 then x.fwd + 1 else x.fwd
    bwd := if phase == 2 then x.bwd + 1 else x.bwd
    emptyHeat := (phase == 1 || phase == 2) && (empty || s.lap.rejected.contains heat) }
  ({ s with lap := { s.lap with step := step } }).phase c phase

/-- May a heat slot item start: not before its instant, the item before it has ended and its inputs are there (R246). -/
def State.slotMay (s : State) (c : Clu) (start : Nat) : Bool :=
  s.cluGo c && !(s.clu c).late && s.itemMay c && decide (s.lap.b + 1000 * start ≤ s.ns)

/-- Does a forward heat of a cluster wait for a descriptor that the feed has not taken (R243). -/
def State.heatWaits (s : State) (c : Clu) (phase : Nat) : Bool :=
  phase == 1 && s.feeds && decide (s.lap.heatsTaken ≤ (s.clu c).fwd)

/-- Does a backward heat wait for the module's forward heats (R245), or is there no heat left to run backward. -/
def State.heatEarly (s : State) (c : Clu) (phase : Nat) : Bool :=
  phase == 2 && ((s.lap.step == 2 && !s.forwardDone) || decide ((s.clu c).fwd ≤ (s.clu c).bwd))

/-- HEAT_SLOT: a heat slot item starts its heat, or waits for its descriptor (R243 to R246). -/
def execHeatSlot (c : Clu) (heat : HeatItem) (start len : BitVec 32) (s : State) : Host.Outcome State Fault Refusal :=
  let phase := heat.phase.toNat
  .next (match phaseStep phase s.lap.step with
    | some k =>
      if !s.slotMay c start.toNat || s.heatEarly c phase then s
      else if s.heatWaits c phase then
        s.waitOpen (cluWaiter c 0) 2 ((s.lap.pi + (s.clu c).fwd) % 2 ^ 32) s.bib
      else (s.waitDone (cluWaiter c 0) 2).heatSlot c phase start.toNat len.toNat k heat.empty
    | none => s)

/-- Does the feed reject the heat of the descriptor at HBM address a (R244). -/
def State.heatBad (s : State) (a : Nat) : Bool :=
  let n := s.ldH (a + 8) 4
  n == 0 || decide (2 ^ 24 < n) || bits (s.ldH (a + 12) 4) 31 1 != 0 || s.ldH (a + 32) 32 != 0
    || (List.range n).any (fun i => decide (2 ^ 20 ≤ s.ldH (s.ldH (a + 24) 8 + 4 * i) 4))

/-- The waiter code of the feed (R493). -/
def feedWaiter : Nat := 6 * 2 ^ 28 + 17 * 2 ^ 23

/-- The feed takes the descriptor it seeks, or waits for it (R243, R244). DESIGN CHOICE (log 127): a descriptor whose read fails counts
as one that is not there. -/
def State.feedTake (s : State) : State :=
  let n := s.lap.heatsTaken
  let pos := (s.lap.pi + n) % 2 ^ 64
  let a := s.heatAt n
  let r := s.hbmMeet (a % 2 ^ 41) 64
  let s := r.1
  if r.2 || s.ldH (a + 12) 4 % 2 == 0 || s.ldH a 8 != pos then
    let s := s.waitOpen feedWaiter 2 (pos % 2 ^ 32) s.bib
    if s.lap.feedEmptySaid then s else ({ s with lap := { s.lap with feedEmptySaid := true } }).lapPost 5
  else
    let s := (s.waitClose feedWaiter false)
    let s := { s with lap := { s.lap with
      heatsTaken := n + 1, staged := s.lap.staged ++ [(n, s.ldH (a + 8) 4, s.ldH (a + 16) 8, s.ldH (a + 24) 8)] } }
    if s.heatBad a then ({ s with lap := { s.lap with rejected := s.lap.rejected ++ [n] } }).lapPost 3 else s

/-- FEED_DESCRIPTOR_TAKE: see State.feedTake. Only the first and the last stage of a replica feed (R242). -/
def execFeedDescriptorTake (s : State) : Host.Outcome State Fault Refusal :=
  .next (if s.live && s.feeds && decide (1 ≤ s.lap.step ∧ s.lap.step ≤ 3) then s.feedTake else s)

/-! ### The gate (R251) -/

/-- GATE_HURDLE: a cluster reaches its gate hurdle and waits for the verdict; when the last one has, the member votes (R249, R251). An abandoned
cluster waits there already. -/
def execGateHurdle (c : Clu) (s : State) : Host.Outcome State Fault Refusal :=
  .next (if (s.cluGo c || (s.cluOn c && (s.clu c).abandoned)) && !(s.clu c).late && decide (3 ≤ s.lap.step ∧ s.lap.step ≤ 5) then
    let s := (s.slotClose c).phase c 4
    ((s.setClu c { s.clu c with atGate := true }).waitOpen (cluWaiter c 0) 5 (s.lap.lam % 2 ^ 32) s.bib).gateCheck
  else s)

/-- The gate limit: the member votes TIMEOUT and abandons its clusters (R251, R262). -/
def State.gateLimit (s : State) : State :=
  let s := s.allClus.foldl (fun s c => s.abandon c) s
  let s := { s with lap := { s.lap with reasons := s.lap.reasons ||| 32, step := 4 } }
  if s.lap.gate1.isEmpty then s.listCut else s.gateCheck

/-- GATE_LIMIT: the limit has passed and the member has not voted (R251). -/
def execGateLimit (s : State) : Host.Outcome State Fault Refusal :=
  .next (if s.live && decide (1 ≤ s.lap.step ∧ s.lap.step ≤ 4) && !s.lap.voted && !s.lap.joined && s.lap.limit != 0
      && !bit s.lap.reasons 5 && decide (s.lap.b + 1000 * s.lap.limit ≤ s.ns) then s.gateLimit else s)

/-! ### The verdict (R252 to R254) -/

/-- The value of a positive finite binary32 word. -/
def b32Val (w : Nat) : Q :=
  if bits w 30 23 == 0 then { num := bits w 22 0, e := -149 } else { num := 2 ^ 23 + bits w 22 0, e := (bits w 30 23 : Int) - 150 }

/-- Round a nonnegative value to binary32, nearest even, with subnormals (R254). -/
def b32Round (y : Q) : Nat :=
  if y.num == 0 then 0
  else
    let e : Int := max y.log2 (-126)
    let c := (Rnd.rne.at y.num y.den y.e (e - 23)).natAbs
    min 0x7F800000 ((e + 126).toNat * 2 ^ 23 + c)

/-- Is a word a NaN, an infinity. -/
def b32NaN (w : Nat) : Bool := decide (0x7F800000 < w % 2 ^ 31)
def b32Inf (w : Nat) : Bool := w % 2 ^ 31 == 0x7F800000

/-- The product of nonnegative binary32 words. -/
def b32Mul (a b : Nat) : Nat :=
  if b32NaN a || b32NaN b || (b32Inf a && b == 0) || (b32Inf b && a == 0) then 0x7FC00000
  else if b32Inf a || b32Inf b then 0x7F800000
  else
    let x := b32Val a
    let y := b32Val b
    b32Round { num := x.num * y.num, e := x.e + y.e }

/-- The quotient of nonnegative binary32 words. -/
def b32Div (a b : Nat) : Nat :=
  if b32NaN a || b32NaN b || (b32Inf a && b32Inf b) || (a == 0 && b == 0) then 0x7FC00000
  else if b32Inf a || b == 0 then 0x7F800000
  else if b32Inf b then 0
  else
    let x := b32Val a
    let y := b32Val b
    b32Round { num := x.num, den := y.num.toNat, e := x.e - y.e }

/-- The gradient factor (R254): loss scale, clip and norm2 as binary32 words. -/
def gradFactor (lossScale clip norm2 : Nat) : Nat :=
  let inv := b32Div fOne lossScale
  let gn := b32Mul (if b32Inf norm2 then norm2 else (fSqrt norm2).v) inv
  let f := if clip % 2 ^ 31 != 0 && !b32NaN gn && decide (clip < gn) then b32Div clip gn else fOne
  b32Mul inv f

/-- The reasons of the verdict: those reduced, and CONFIG when the configuration words differ (R249). -/
def verdictReasons (w : List Byte) : Nat :=
  let cfg := (w.drop 16).take 32
  let same := (w.drop 48).take 32 == cfg.map (fun b => ~~~b)
  leNat (w.take 1) % 128 ||| (if same then 0 else 64)

/-- The outcome of a verdict with `reasons` (R252): 0 commit, 1 replay, 2 skip; `policyW` is GRP_LAP_POLICY of its `cfg`. -/
def verdictOutcome (reasons policyW done : Nat) : Nat :=
  if reasons == 0 then 0
  else if reasons / 4 != 0 then 1
  else match bits policyW 1 0 with
    | 1 => 2
    | 2 => if done < bits policyW 11 8 then 1 else 2
    | _ => 1

/-- The heats of the lap (R240). -/
def State.heats (s : State) : Nat := (s.allClus.map (fun c => (s.clu c).fwd)).foldl max s.lap.heatsTaken

/-- A lap boundary t in ns, rounded up to a whole microsecond (R253). -/
def upUs (t : Nat) : Nat := (t + 999) / 1000 * 1000

/-- A veto leaves the scale entries of a cluster as they were before the lap (R136, R255). -/
def State.thetaBack (s : State) (c : Clu) : State :=
  let s := (s.clu c).thetaOld.foldl (fun s p => match s.sclFind c p.1 with
    | some a => s.st a 64 (setBits (s.sclWord a) 73 64 p.2)
    | none => s) s
  s.setClu c { s.clu c with thetaOld := [] }

/-- What a veto undoes (R255). -/
def State.vetoed (s : State) : State := s.allClus.foldl State.thetaBack s

/-- Refresh runs again on every cluster that has been refilled in the lap (R359). -/
def State.refreshAll (s : State) : State := s.allClus.foldl State.refreshAgain s

/-- Enter the outcome of a verdict (R252, R255). -/
def State.verdictEnd (s : State) (reasons outcome : Nat) (w : List Byte) : State :=
  let done := s.get F.GRP_LAP_VERDICT_replays_done 0
  let s := s.puts 0 [(F.GRP_LAP_VERDICT_reasons, reasons), (F.GRP_LAP_VERDICT_outcome, outcome),
    (F.GRP_LAP_VERDICT_replays_done, if outcome == 1 then satInc done 15 else 0)]
  match outcome with
  | 0 =>
    { s with lap := { s.lap with step := 6, gscale := gradFactor (at_ w 36 4) (at_ w 40 4) (at_ w 4 4) } }
  | 1 =>
    ((({ s.vetoed with lap := { s.lap with step := 0, replay := true } }).refreshAll).lapPost 1).trigger 4
  | _ =>
    let lam := (s.lap.lam + 1) % 2 ^ 64
    let pi := (s.lap.pi + s.heats) % 2 ^ 64
    ((((({ s.vetoed with lap := { s.lap with step := 0, replay := true } }).refreshAll).lapNow lam pi).lapPost 1).lapPost 2).trigger 4

/-- The verdict is received (R252 to R254, R396). -/
def State.verdict (s : State) : State :=
  let w := s.lap.gate2
  let reasons := verdictReasons w
  let outcome := verdictOutcome reasons (at_ w 32 4) (s.get F.GRP_LAP_VERDICT_replays_done 0)
  let b := upUs (at_ w 8 8 + 1000 * (at_ w 44 4 % 2 ^ 24))
  let s := { s with
    lap := { s.lap with gate2 := [] }
    snp := { s.snp with
      epochs := s.snp.epochs + b2n (bit reasons 3), lapNs := if s.lap.joined then s.snp.lapNs
        else (s.snp.lapNs ++ [b - s.lap.b]).drop (s.snp.lapNs.length + 1 - 16) } }
  let s := s.allClus.foldl (fun s c => s.waitDone (cluWaiter c 0) 5) s
  let s := if bit reasons 6 then s.lapPost 4 else s
  (s.verdictEnd reasons outcome w).armLap b

/-- VERDICT: see State.verdict. -/
def execVerdict (s : State) : Host.Outcome State Fault Refusal :=
  .next (if s.live && s.lap.step == 5 && !s.lap.gate2.isEmpty then s.verdict else s)

/-! ### The optimizer (R228 to R232, R256) -/

/-- The FP32 fields of an optimizer descriptor (R228). -/
def opt.f (d : List Byte) (o : Nat) : Nat := at_ d o 4

/-- Does an optimizer descriptor hold a reserved or non-finite value (R229). -/
def optBad (d : List Byte) : Bool :=
  decide (1 < at_ d 0 1) || decide (3 < at_ d 1 1) || at_ d 2 2 != 0 || at_ d 44 20 != 0
    || (List.range 10).any (fun i => !fFinite (opt.f d (4 + 4 * i)))

/-- Formats of master and moments in a storage mode (R226). -/
def optFmts (store : Nat) : Fmt × Fmt :=
  match store with
  | 1 => (.fp32, .b8)
  | 2 => (.bf16, .bf16)
  | _ => (.fp32, .fp32)

/-- Read n elements in a storage format at place a as FP32 words (R230). -/
def State.optRead (s : State) (f : Fmt) (a n : Nat) : List Nat :=
  if f == .fp32 then (List.range n).map (fun k => s.ld (a + 4 * k) 4)
  else (s.decRow f 0 false a 0 n 0).1.map (fun o => (encodeElem .fp32 .rne 0 o).1)

/-- Write FP32 words in a storage format at place a, as the elements from `first` on of a tensor with rows of `cols`
(R224, R226). -/
def State.optWrite (s : State) (c : Clu) (f : Fmt) (a tensor first cols : Nat) (l : List Nat) : State :=
  if f == .fp32 then l.zipIdx.foldl (fun s p => s.st (a + 4 * p.2) 4 p.1) s
  else
    let key := (s.clu c).key
    let md := fun (k : Nat) => Rnd.stoch (convDraw key tensor 0 ((first + k) / cols) ((first + k) % cols))
    let r := s.encRow f 0 false a 0 0 md 0 (l.map (fun w => (fRead w).1.out))
    r.1.count c tensor r.2

/-- One element of an update (R230): new p, m and v, and every lane operation's result. -/
def optElem (d : List Byte) (g p m v : Nat) : (Nat × Nat × Nat) × List FR :=
  let wd := opt.f d 8
  let b1 := opt.f d 12
  let negLr := opt.f d 4 ^^^ 0x80000000
  let g' := fMul g (opt.f d 40)
  if at_ d 0 1 == 0 then
    let m' := fFma b1 m g'.v
    let u := fFma wd p m'.v
    let p' := fFma negLr u.v p
    ((p'.v, m'.v, v), [g', m', u, p'])
  else
    let t := fMul (opt.f d 16) g'.v
    let m' := fFma b1 m t.v
    let q := fMul g'.v g'.v
    let t2 := fMul (opt.f d 24) q.v
    let v' := fFma (opt.f d 20) v t2.v
    let x := fMul v'.v (opt.f d 36)
    let r := fSqrt x.v
    let e := fAdd r.v (opt.f d 28)
    let y := fMul m'.v (opt.f d 32)
    let u := fDiv y.v e.v
    let u' := fFma wd p u.v
    let p' := fFma negLr u'.v p
    ((p'.v, m'.v, v'.v), [g', t, m', q, t2, v', x, r, e, y, u, u', p'])

/-- A copy of an update kernel between HBM and its cluster's pool: HBM address, pool offset, bytes, and whether it goes to
HBM. -/
structure OptMove where
  hbm : Nat
  pool : Nat
  len : Nat
  out : Bool
  deriving DecidableEq, Repr

/-- A copy of a kernel failed: its code, and whether it counts as lasting (R284, R293). -/
structure MoveErr where
  code : Nat
  lasting : Bool
  deriving DecidableEq, Repr

/-- The cluster's copy engine moves a kernel's data of tensor t: its reads, and the reads of what its writes cover in part, are retried
and counted as those of a list (R20, R213, R268, R284, R289). -/
def State.optMove (s : State) (c : Clu) (t : Nat) (m : OptMove) : State × Option MoveErr :=
  if 2 ^ 41 < m.hbm + m.len || 2 ^ 22 < m.pool + m.len then (s, some { code := PlaceFail.range.cpyCode, lasting := false })
  else
    let a := poolAt c m.pool
    let src := if m.out then a else m.hbm
    let dst := if m.out then m.hbm else a
    let r := s.placeMeet src m.len
    let w := if r.2 then r else r.1.placePart dst m.len
    if w.2 then
      (w.1.satUp F.CPY_ERR_CNT_lasting (cluU c), some { code := if decide (src < 2 ^ 41) == r.2 then 8 else 7, lasting := true })
    else
      let u := if s.placeShaky src m.len then (w.1.satUp F.CPY_ERR_CNT_transient (cluU c)).cpyPost c 6 t else w.1
      ((u.stBytes dst (u.ldBytes src m.len)).perfClu c 2 m.len, none)

/-- The copies of a kernel, one after the other, up to the first that fails. -/
def State.optMoves (s : State) (c : Clu) (t : Nat) : List OptMove → State × Option MoveErr
  | [] => (s, none)
  | m :: l => match s.optMove c t m with
    | (s, some e) => (s, some e)
    | (s, none) => s.optMoves c t l

/-- The copies before and after an update of the plan k in the storage formats fm; `v`: the rule has a second moment. The kernel
reads the committed bank and writes the other (R256). -/
def planMoves (k : OptPlan) (fm : Fmt × Fmt) (bank : Nat) (v out : Bool) : List OptMove :=
  let at' := fun (a b : BitVec 41) => if (bank == 0) != out then a.toNat else b.toNat
  let p := rowLen fm.1 k.count
  let m := rowLen fm.2 k.count
  (if out then [] else [{ hbm := k.grad.toNat, pool := k.bufG.toNat, len := 4 * k.count, out := false }])
    ++ [{ hbm := at' k.p0 k.p1, pool := k.bufP.toNat, len := p, out := out },
        { hbm := at' k.m0 k.m1, pool := k.bufM.toNat, len := m, out := out }]
    ++ (if v then [{ hbm := at' k.v0 k.v1, pool := k.bufV.toNat, len := m, out := out }] else [])

/-- The update kernel itself, on its buffers in the pool (R213, R230). -/
def State.optKernel (s : State) (c : Clu) (d : List Byte) (k : OptPlan) : State :=
  let n := k.count
  let fm := optFmts (at_ d 1 1)
  let two := at_ d 0 1 != 0
  let g := (List.range n).map (fun i => s.ld (poolAt c (k.bufG.toNat + 4 * i)) 4)
  let p := s.optRead fm.1 (poolAt c k.bufP.toNat) n
  let m := s.optRead fm.2 (poolAt c k.bufM.toNat) n
  let v := if two then s.optRead fm.2 (poolAt c k.bufV.toNat) n else []
  let r := (List.range n).map (fun i => optElem d (g.getD i 0) (p.getD i 0) (m.getD i 0) (v.getD i 0))
  let s := s.frEvents c (r.flatMap (fun x => x.2))
  let s := s.optWrite c fm.1 (poolAt c k.bufP.toNat) k.tp.toNat k.first k.cols (r.map (fun x => x.1.1))
  let s := s.optWrite c fm.2 (poolAt c k.bufM.toNat) k.tm.toNat k.first k.cols (r.map (fun x => x.1.2.1))
  if two then s.optWrite c fm.2 (poolAt c k.bufV.toNat) k.tv.toNat k.first k.cols (r.map (fun x => x.1.2.2)) else s

/-- Run an update on a cluster: copies in, the kernel, copies out to the bank that is not committed (R230, R256). A copy that
fails ends it there, with the copy engine's status (R284, R289). -/
def State.optRun (s : State) (c : Clu) (d : List Byte) (k : OptPlan) : State :=
  let bank := s.get F.GRP_LAP_VERDICT_bank 0
  let fm := optFmts (at_ d 1 1)
  let two := at_ d 0 1 != 0
  match s.optMoves c k.tp.toNat (planMoves k fm bank two false) with
  | (t, some e) => t.cpyPost c e.code k.tp.toNat
  | (t, none) =>
    match (t.optKernel c d k).optMoves c k.tp.toNat (planMoves k fm bank two true) with
    | (t, some e) => t.cpyPost c e.code k.tp.toNat
    | (t, none) =>
      let t := { t with lap := { t.lap with optDone := true } }
      (t.setClu c { t.clu c with opts := (t.clu c).opts + 1 }).worked c

/-- Has the running snapshot still to read the bank that the optimizer would write (R258, R395). -/
def State.snapHolds (s : State) : Bool :=
  match s.snp.run with
  | some r => r.bank != s.get F.GRP_LAP_VERDICT_bank 0 && decide (r.next < r.n)
  | none => false

/-- An update kernel item: the stewards have written `gscale`, the descriptor is checked, then the kernel runs (R229, R254,
R258). -/
def State.optItem (s : State) (c : Clu) (desc : PoolOff) (k : OptPlan) : State :=
  if s.snapHolds then s.waitOpen (cluWaiter c 0) 7 (((s.snp.run.map (fun r => r.lap)).getD 0) % 2 ^ 32) s.bib
  else
    let s := ((s.waitDone (cluWaiter c 0) 7).st (poolAt c (desc.toNat + 40)) 4 s.lap.gscale).phase c 5
    let d := s.ldBytes (poolAt c desc.toNat) 64
    if optBad d then (s.vecPost c 4).stop c 7 (.optimizer c desc k) else s.optRun c d k

/-- OPTIMIZER: see State.optItem. -/
def execOptimizer (c : Clu) (desc : PoolOff) (plan : OptPlan) (s : State) : Host.Outcome State Fault Refusal :=
  .next (if s.cluGo c && !(s.clu c).late && s.lap.step == 6 then s.optItem c desc plan else s)

/-! ### Commit and refresh (R257, R347, R358) -/

/-- The scale entry of a B16 block after a commit (R347): sigma and the escaped bit; `h` is the group's headroom. -/
def b16Scale (old h : Nat) (b : BlkRes) : Nat × Nat :=
  let esc := b2n b.escaped
  match b.exp with
  | none => (old, esc)
  | some e =>
    let x : Int := 127 + e + 1 + h - 15 + 2 * esc
    ((max 1 (min 0xFE x)).toNat, esc)

/-- Every B16 block's scale entry is rewritten (R347). -/
def State.b16Commit (s : State) : State :=
  s.red.b16.foldl (fun s k =>
    let tab := s.grpF k.group 32 8
    let h := s.grpF k.group 40 1 % 16
    k.blks.foldl (fun s b =>
      let a := tab + 2 * b.idx
      let r := b16Scale (s.ldH a 1) h b
      (s.stH a 1 r.1).stH (a + 1) 1 r.2) s) s

/-- Commit (R257). -/
def State.commit (s : State) : State :=
  let lam := s.lap.lam
  let held := s.allClus.flatMap s.heldTensors
  let s := s.put F.GRP_LAP_VERDICT_bank 0 (1 - s.get F.GRP_LAP_VERDICT_bank 0)
  let s := ({ s with lap := { s.lap with step := 7 } }).lapNow ((lam + 1) % 2 ^ 64) ((s.lap.pi + s.heats) % 2 ^ 64)
  let s := s.allClus.foldl (fun s c => s.histories c held) s
  let s := s.b16Commit
  let s := s.allClus.foldl (fun s c => s.govEval c) s
  let s := s.allClus.foldl (fun s c =>
    (s.setClu c { s.clu c with mirrorPend := (s.mirrorAt c).isSome, thetaOld := [] }).phase c 6) s
  s.refreshAll.snapDue lam

/-- Have the update kernels of the module finished: one has run, every cluster has ended those of its schedule, and none is stopped in
its update, runs one still or waits with one for the snapshot (R257, R258). -/
def State.optOver (s : State) : Bool :=
  s.lap.optDone && s.allClus.all (fun c => (s.clu c).abandoned
    || (decide (s.optPlan c ≤ (s.clu c).opts) && !(s.clu c).late && s.get F.CLU_SEQ_STATUS_stop (cluU c) == 0 && !s.cluBusy c && (match slFind s.waits (cluWaiter c 0) with
      | some x => x.what != 7
      | none => true)))

/-- COMMIT: as soon as the update kernels have finished (R257). -/
def execCommit (s : State) : Host.Outcome State Fault Refusal :=
  .next (if s.live && s.lap.step == 6 && s.optOver then s.commit else s)

/-- CLUSTER_MIRROR_COPY: at the end of refresh, and after an image load, a cluster copies its areas to its mirror (R358). -/
def execClusterMirrorCopy (c : Clu) (s : State) : Host.Outcome State Fault Refusal :=
  .next (if s.cluOn c && (s.clu c).mirrorPend then
    let s := s.mirrorSave c
    s.setClu c { s.clu c with mirrorPend := false }
  else s)

/-- Refresh has written working copies: the waits for them end (R257, R260). -/
def State.refreshCome (s : State) : State :=
  ((s.waits.filter (fun p => p.2.what == 6 && !s.copyPending p.2.obj)).map (fun p => p.1)).foldl (fun s k => s.waitClose k false) s

/-- The lap, or refresh for a refilled unit alone (R359), ends on a cluster; one that met no start hurdle for its refresh meets it now
(R257). -/
def State.lapEnd (s : State) (c : Clu) : State :=
  let s := (s.slotClose c).phase c 0
  let x := s.clu c
  if x.late then ((s.setClu c { x with late := false }).refreshCome).startItem c
  else
    let s := s.setClu c { x with ended := true, refreshPend := false }
    if decide (7 ≤ s.lap.step) && s.lapOver then ({ s with lap := { s.lap with step := 0 } }).imgTry false else s

/-- END_OF_LAP: the cluster's schedule for the lap ends; with the last cluster's the lap is over, and a module image that
waits takes effect (R447, R453). -/
def execEndOfLap (c : Clu) (s : State) : Host.Outcome State Fault Refusal :=
  .next (if s.cluGo c && (decide (7 ≤ s.lap.step) || (s.clu c).late || (s.lap.step == 0 && (s.clu c).refreshPend)) then s.lapEnd c
  else s)

/-! ### Waits, resume, abandon (R261, R262, R311, R453) -/

/-- Is what a wait item waits for there (R311, R453). -/
def State.waitMet (s : State) (c : Clu) : WaitArg → Bool
  | .landing w n => decide (n.toNat ≤ s.landed w.toNat)
  | .copyList i => decide (i < (s.clu c).copiesDone)
  | .send i => decide (i < (s.clu c).sendsDone)

/-- The heat that a cluster runs in its present pass (R246). -/
def State.heatNow (s : State) (c : Clu) : Nat :=
  let x := s.clu c
  if s.get F.CLU_SEQ_STATUS_phase (cluU c) == 2 then x.fwd - x.bwd else x.fwd - 1

/-- What the trace names for a wait item: code, object, bib (R494). The offset of a list or send that
is not queued is a free value. -/
def State.waitObj (s : State) (c : Clu) : WaitArg → Nat × Nat × Nat
  | .landing w _ => (1, w.toNat * 2 ^ 24 + s.heatNow c % 2 ^ 24, slGet s.bib s.landBib w.toNat)
  | .copyList i => (8, ((s.clu c).copies.map (· / 64)).getD (i - (s.clu c).copiesDone) (Config.free s.freeCtr % 2 ^ 16), s.bib)
  | .send i => (8, ((s.clu c).sends.map (fun k => k.off / 64)).getD (i - (s.clu c).sendsDone) (Config.free s.freeCtr % 2 ^ 16), s.bib)

/-- WAIT_ITEM: a wait item passes when its count is reached; until then the sequencer waits (R311, R453). -/
def execWaitItem (c : Clu) (w : WaitArg) (s : State) : Host.Outcome State Fault Refusal :=
  .next (if s.cluGo c then
    if s.waitMet c w then s.waitClose (cluWaiter c 0) false
    else
      let o := s.waitObj c w
      ({ s with freeCtr := s.freeCtr + 1 }).waitOpen (cluWaiter c 0) o.1 o.2.1 o.2.2
  else s)

/-- Repeat the check of the held item of a stopped cluster, and go on or stop again (R262). -/
def State.resume (s : State) (c : Clu) : State :=
  let x := s.clu c
  let s := (s.setClu c { x with heldItem := none, stopNext := false }).put F.CLU_SEQ_STATUS_stop (cluU c) 0
  match x.heldItem with
  | some (.pass k off) => s.passItem k off
  | some (.hurdle _ layer) =>
    let s := s.earlyOverride c layer.toNat
    s.hurdleEnd c layer (s.delivered c layer.toNat)
  | some (.startHurdle _) => s.startItem c
  | some (.optimizer _ desc k) => s.optItem c desc k
  | _ => s

/-- A write of `restart` 0b01: refused after a lasting residue fault until its procedure is complete (R262). -/
def State.seqResume (s : State) (c : Clu) : State :=
  let stop := s.get F.CLU_SEQ_STATUS_stop (cluU c)
  if !s.cluOn c || stop == 0 || stop == 9 then s
  else if (s.goodCores c).any (fun k => (s.core k).lastingPend) then s.seqPost c 2
  else s.resume c

/-- CLU_SEQ_RESUME: see State.seqResume. -/
def execCluSeqResume (c : Clu) (s : State) : Host.Outcome State Fault Refusal := .next (s.seqResume c)

/-- CLU_SEQ_ABANDON: `restart` 0b10 (R262). -/
def execCluSeqAbandon (c : Clu) (s : State) : Host.Outcome State Fault Refusal :=
  .next (if s.cluOn c then s.abandon c else s)

end Sys2Proof.Machine
end

