-- ==== Sys2Proof/Machine/Bus.lean ====
section
/-!
DEFINITION. Accesses to BAR0 (R520 to R529): which blocks answer, the aliases, the writes and reads with an effect of their
own, the Starter's claims and completions (R535 to R546), the MSI-X structures (R561).
-/

namespace Sys2Proof.Machine

/-- The alias that an address lies in (R6). -/
def aliasOf (a : Nat) : Alias :=
  match a / 0x1000 % 4 with
  | 0 => .plain
  | 1 => .set
  | 2 => .clear
  | _ => .toggle

/-- The plain address of the same register. -/
def plainOf (a : Nat) : Nat := a - a / 0x1000 % 4 * 0x1000

/-! ### The Starter (R535 to R540) -/

/-- The source that R536 serves first for target t. -/
def State.firstSource (s : State) (t : Nat) : Option Nat :=
  (s.eligibleList t).foldl (fun b n => match b with
    | none => some n
    | some m => if s.get F.HUB_INT_SRC_prio m < s.get F.HUB_INT_SRC_prio n then some n else some m) none

/-- A read of HUB_INT_CLAIMt (R537): the value read, and the state after it. -/
def State.claim (s : State) (t : Nat) : State × Nat :=
  match s.firstSource t with
  | none => (s, 0)
  | some n =>
    let s' := s.setPend n false
    ({ s' with starter := { s'.starter with stk := slSet s'.starter.stk t ((n, s.get F.HUB_INT_SRC_prio n) :: s.stack t) } },
      2 ^ 31 + n)

/-- A write of HUB_INT_COMPLETEt (R537): the stack pops, or a mismatch is reported. -/
def State.complete (s : State) (t n : Nat) : State :=
  match s.stack t with
  | (k, _) :: l =>
    if k == n then
      ({ s with starter := { s.starter with stk := slSet s.starter.stk t l } }).notify s
    else s.post R.HUB_INT_STATUS 0 [(F.HUB_INT_STATUS_target, t), (F.HUB_INT_STATUS_source, n)] 1 1364
  | [] => s.post R.HUB_INT_STATUS 0 [(F.HUB_INT_STATUS_target, t), (F.HUB_INT_STATUS_source, n)] 1 1364

/-- A doorbell sets its pending bit whatever its priority (R535). -/
def State.ring (s : State) (n : Nat) : State := (s.setPend n true).notify s

/-! ### MSI-X (R561) -/

/-- A vector is no longer masked: a held message is sent when a source of that vector is still eligible (R561). -/
def State.msixTry (s : State) (v : Nat) : State :=
  if !bit s.host.pba v || s.msixMasked v || !s.host.msixEn || s.host.faulty then s
  else
    let s := { s with host := { s.host with pba := s.host.pba - 2 ^ v } }
    if (s.eligibleList 8).any (fun n => s.get F.HUB_INT_SRC_vector n == v) then s.message v else s

/-- A write of word w of MSI-X table entry v: of the vector control word only the mask bit is kept. -/
def State.msixWrite (s : State) (v w : Nat) (al : Alias) (x : Nat) : State :=
  let n := al.val (s.msixWord v w).toNat x
  let n := if w == 3 then n % 2 else n
  ({ s with host := { s.host with msix := slSet s.host.msix (4 * v + w) (BitVec.ofNat 32 n) } }).msixTry v

/-! ### Registers with an effect of their own -/

/-- A write of `retired_col_next` (R52). -/
def State.colNext (s : State) (u v : Nat) : State :=
  if 33 ≤ v then s
  else if v == s.get F.CORE_COLMAP_retired_col u || s.flag F.CORE_COLMAP_spare_avail u then
    s.put F.CORE_COLMAP_retired_col_next u v
  else s.corePost (coreNo (cluNo (u / 52 / 105) (u / 52 % 105)) (u % 52)) 5

/-- A write of HUB_ORD_TAIL (R558). -/
def State.ordTail (s : State) (v : Nat) : State :=
  let n := 2 ^ 18
  let d (x : Nat) : Nat := (v + 2 ^ 32 - x) % 2 ^ 32
  if s.flag F.HUB_ORD_BASE_HI_en 0 && decide (d (s.get F.HUB_ORD_HEAD_head 0) ≤ n) && decide (d (s.get F.HUB_ORD_TAIL_tail 0) ≤ n) then
    s.put F.HUB_ORD_TAIL_tail 0 v
  else s.post R.HUB_ORD_STATUS 0 [] 1 2337

/-- A write of a ring's base register: the base is ignored while its `en` is 1 (R568). -/
def State.ringBase (s : State) (en base : Fld) (al : Alias) (v : Nat) : State :=
  let old := s.get base 0
  let on := s.flag en 0
  let s := s.regWrite base.reg 0 al v
  if on then s.put base 0 old else s

/-- A write of HUB_ORD_BASE_HI: `en` from 0 to 1 sets `head` and `tail` to 0 (R554). -/
def State.ordEnable (s : State) (al : Alias) (v : Nat) : State :=
  let on := s.flag F.HUB_ORD_BASE_HI_en 0
  let s := s.ringBase F.HUB_ORD_BASE_HI_en F.HUB_ORD_BASE_HI_base_hi al v
  if !on && s.flag F.HUB_ORD_BASE_HI_en 0 then
    { (s.puts 0 [(F.HUB_ORD_HEAD_head, 0), (F.HUB_ORD_TAIL_tail, 0)]) with host := { s.host with pollAt := none, pairsDone := 0 } }
  else s

/-- A write of HUB_CMP_BASE_HI: `en` from 0 to 1 sets `cmp_head` and `cmp_tail` to 0 (R568). -/
def State.cmpEnable (s : State) (al : Alias) (v : Nat) : State :=
  let on := s.flag F.HUB_CMP_BASE_HI_en 0
  let s := s.ringBase F.HUB_CMP_BASE_HI_en F.HUB_CMP_BASE_HI_base_hi al v
  if !on && s.flag F.HUB_CMP_BASE_HI_en 0 then
    s.puts 0 [(F.HUB_CMP_HEAD_cmp_head, 0), (F.HUB_CMP_TAIL_cmp_tail, 0)]
  else s

/-- A write of HUB_PCI_B2: a base that is no multiple of the BAR2 size is reserved (R550). -/
def State.b2Write (s : State) (al : Alias) (v : Nat) : State :=
  let t := s.regWrite R.HUB_PCI_B2 0 al v
  if t.get F.HUB_PCI_B2_b2_base 0 % 2 ^ (s.host.bar2 - 30) == 0 then t else s

/-- A write of RLY_CTRL (R326). -/
def State.rlyCtrl (s : State) (l : Nat) (al : Alias) (v : Nat) : State :=
  let en := s.flag F.RLY_CTRL_enable l
  let s := s.regWrite R.RLY_CTRL l al v
  let s := if s.flag F.RLY_CTRL_enable l == en then s else s.linkEnable l (!en)
  if al != .plain then s
  else
    let s := if bit v 2 then s.retireLink l else s
    if bit v 4 then s.takeOut l (s.get F.RLY_CTRL_swap_lane l) else s

/-- A write of RLY_BATONS: a sum above 256 is reserved (R326). -/
def State.batonsWrite (s : State) (l : Nat) (al : Alias) (v : Nat) : State :=
  let t := s.regWrite R.RLY_BATONS l al v
  let n := (t.rd R.RLY_BATONS l).toNat
  if bits n 31 24 + bits n 23 16 + bits n 15 8 + bits n 7 0 ≤ 256 then t else s

/-- A write of HUB_HBM_CTRL (R290, R292): the stack's temperature and the outcome of a recalibration it starts are physical:
free values. -/
def State.hbmCtrl (s : State) (h : Nat) (al : Alias) (v : Nat) : State :=
  let s := s.regWrite R.HUB_HBM_CTRL h al v
  if al == .plain && bit v 16 then
    let f := Config.free s.freeCtr
    ({ s with freeCtr := s.freeCtr + 1 }).recalAsk h (s.get F.HUB_HBM_CTRL_chan h) (f / 3 : Nat) (f % 3)
  else s

/-- A write of TRC_Qq_MODE: setting `en` enables the trace (R497). -/
def State.trcMode (s : State) (q : Nat) (al : Alias) (v : Nat) : State :=
  let en := s.flag F.TRC_Q_MODE_en q
  let s := s.regWrite R.TRC_Q_MODE q al v
  if !en && s.flag F.TRC_Q_MODE_en q then s.trcEnable q else s

/-- `drive` of TRC_FRZ_CTRL acts while the module is frozen and not released: it drives FREEZE_N under a pin claim of class 3, or lets
it go (R507). -/
def State.frzDrive (s : State) : State :=
  if !s.frozen || s.frz.released || s.flag F.TRC_FRZ_CTRL_drive 0 == s.frz.driven then s
  else if s.frz.driven then { s with frz := { s.frz with driven := false } }
  else if !s.claimHeld 1 3 0 0 0 then s.imgPost 0x12 0
  else ({ s with frz := { s.frz with driven := true } }).put F.TRC_FRZ_STATE_pin_low 0 1

/-- A write of TRC_FRZ_CTRL (R504, R507, R508). -/
def State.frzCtrl (s : State) (al : Alias) (v : Nat) : State :=
  let s := (s.regWrite R.TRC_FRZ_CTRL 0 al v).frzDrive
  if al != .plain then s
  else
    let s := if bit v 0 then s.freezeEnter 2 none else s
    if bit v 1 then s.freezeRelease else s

/-- A write of CORE_COLMAP (R51, R52). -/
def State.colmapWrite (s : State) (u : Nat) (al : Alias) (v : Nat) : State :=
  s.colNext u (bits (al.val (s.rd R.CORE_COLMAP u).toNat v) 13 8)

/-- A write of GOV_STATUS: software that clears a check failure lets the governor run again (R183). -/
def State.govClear (s : State) (u : Nat) (al : Alias) (v : Nat) : State :=
  let t := s.regWrite R.GOV_STATUS u al v
  let c := cluNo (u / 105) (u % 105)
  if s.get F.GOV_STATUS_code u != 0 && t.get F.GOV_STATUS_code u == 0 then t.setClu c { t.clu c with govHold := false } else t

/-- What a plain write starts; registers whose fields are write-only, by block and offset. -/
def State.strike (s : State) (b : Blk) (off u v : Nat) : Option State :=
  let c := cluNo (u / 105) (u % 105)
  let on (i : Nat) (f : State → State) (s : State) : State := if bit v i then f s else s
  match b, off with
  | .update, 0 => some (s.updStrobe v)
  | .groups, 0xC => some (on 0 (fun s => s.advance (s.get F.GRP_SEL_group 0)) s)
  | .snap, 0 => some (on 1 State.snpRestore (on 0 State.snpNow s))
  | .pacer, 0 => some (on 0 State.resync s)
  | .images, 0 => some (on 2 State.imgDiscard (on 1 State.imgApply (on 0 State.imgLoad s)))
  | .intTgt, 8 => some (s.complete u (bits v 11 0))
  | .hub0, 0x70 => some (s.rstWrite v)
  | .fault, 0 => some (s.fltCmdWrite (bits v 31 28) (bits v 27 24) (bits v 23 0))
  | .fault, 0x18 => some (on 0 State.fwSwitchWrite s)
  | .clu, 0x204 => some (s.sctQueue c (64 * bits v 15 0) false)
  | .clu, 0x280 => some (match bits v 1 0 with
    | 1 => s.seqResume c
    | 2 => s.abandon c
    | _ => s)
  | .clu, 0x2C0 => some (s.cpySubmit c (bits v 15 0))
  | .clu, 0x2C4 => some (on 0 (fun s => s.cpyResume c) s)
  | .clu, 0x300 => some (s.sendSubmit c (bits v 15 0))
  | .judge, 0 => some (s.jdgCmdWrite (bits v 7 0))
  | .trace, 0 => some (on 1 State.perfClear (on 0 (fun s => s.trigger 0) s))
  | _, _ => none

/-- Registers whose plain writes start something, and only that. -/
def isStrike (b : Blk) (off : Nat) : Bool :=
  match b, off with
  | .update, 0 | .groups, 0xC | .snap, 0 | .pacer, 0 | .images, 0 | .intTgt, 8 | .hub0, 0x70 | .fault, 0 | .fault, 0x18 => true
  | .clu, 0x204 | .clu, 0x280 | .clu, 0x2C0 | .clu, 0x2C4 | .clu, 0x300 | .judge, 0 | .trace, 0 => true
  | _, _ => false

/-- A write to a register that a block serves. -/
def State.regStore (s : State) (r : RegDef) (u : Nat) (al : Alias) (v : Nat) : State :=
  if isStrike r.blk r.off then (if al == .plain then (s.strike r.blk r.off u v).getD s else s)
  else
    match r.blk, r.off with
    | .spt, k => s.sptWrite u (k / 4) al v
    | .intSrc, _ | .intPend, _ | .intMask, _ | .intTgt, 0 => (s.regWrite r u al v).notify s
    | .hub0, 0x28 => s.b2Write al v
    | .hub0, 0x40 => s.ringBase F.HUB_ORD_BASE_HI_en F.HUB_ORD_BASE_LO_base al v
    | .hub0, 0x44 => s.ordEnable al v
    | .hub0, 0x48 => s.ordTail (al.val (s.rd R.HUB_ORD_TAIL 0).toNat v)
    | .hub0, 0x58 => s.ringBase F.HUB_CMP_BASE_HI_en F.HUB_CMP_BASE_LO_base al v
    | .hub0, 0x5C => s.cmpEnable al v
    | .hbm, 0 => s.hbmCtrl u al v
    | .link, 0 => s.rlyCtrl u al v
    | .core, 8 => s.colmapWrite u al v
    | b, o =>
      if r == R.PWR_CTRL then s.pwrCtrl al v
      else if r == R.PWR_CAP then s.capWrite al v
      else if r == R.PWR_FLOOR then s.floorWrite al v
      else if r == R.RLY_BATONS then s.batonsWrite u al v
      else if r == R.GOV_STATUS then s.govClear u al v
      else if r == R.TRC_Q_MODE then s.trcMode u al v
      else if r == R.TRC_FRZ_CTRL then s.frzCtrl al v
      else if r == R.TRC_PHOTO_CTRL then
        let s := s.regWrite r u al v
        if al == .plain && bit v 2 then s.scanCut true else s
      else if b == .images && (o == R.IMG_STORE_LO.off || o == R.IMG_STORE_HI.off) && !(s.img.digest.isEmpty && s.img.store.isEmpty) then s
      else s.regWrite r u al v

/-! ### Reads -/

/-- Does HUB_HOST_READY show `links`: every enabled link is UP, in LPI or retired (R575). -/
def State.linksReady (s : State) : Bool :=
  (List.range 64).all (fun l => !s.flag F.RLY_CTRL_enable l || [3, 4, 5].contains (s.get F.RLY_STATE_state l))

/-- HUB_HOST_READY (R568, R575). -/
def State.hostReady (s : State) : Nat :=
  let n := (s.rd R.HUB_HOST_READY 0).toNat
  let n := setBits n 6 6 (b2n (s.get F.PCR_STATE_lock 0 == 2))
  let n := setBits n 5 5 (b2n s.linksReady)
  setBits n 7 7 (b2n (bits n 6 1 == 63))

/-- The good, unused units among n, with `act` in use and a quarantine test. -/
def unusedN (n : Nat) (act : List Nat) (bad : Nat → Bool) : Nat :=
  ((List.range n).filter (fun k => !act.contains k && !bad k)).length

/-- HUB_FLT_SPARES of the unit that HUB_FLT_SEL names (R380). -/
def State.spares (s : State) : Nat :=
  let sel := (s.rd R.HUB_FLT_SEL 0).toNat
  let c := unitClu sel
  let k := unitCore sel
  let alt := match s.flt.alt with
    | some a => !s.quarIs 4 (unitOf a 0 0 0)
    | none => false
  let map := (slGet R.CORE_COLMAP.resetVal s.remapRegs (R.CORE_COLMAP.addr (coreU k))).toNat
  b2n alt * 2 ^ 31 + b2n s.flt.degraded * 2 ^ 30
    + unusedN 105 (s.mapped.activeClus c.die) (fun n => s.quarIs 3 (unitOf c.die n 0 0)) % 8 * 2 ^ 24
    + unusedN 52 (s.mapped.activeCores c) (fun n => s.quarIs 2 (unitOf c.die c.cl n 0)) % 4 * 2 ^ 20
    + bits map F.CORE_COLMAP_spare_avail.hi F.CORE_COLMAP_spare_avail.lo * 2 ^ 16 + max s.flt.copy0.gen s.flt.copy1.gen % 2 ^ 16

/-- HUB_XZ_SUM (R534). -/
def State.xzSum (s : State) : Nat :=
  let held (r : RegDef) (u : Nat) : Bool := (s.rd r u).toNat % 2 ^ 24 != 0
  sumN ((List.range 17).map (fun d => b2n (held R.CLU_XZ_STATUS d) * 2 ^ d))
    + sumN ((List.range 4).map (fun q => b2n (held R.HUB_XZ_STATUS q) * 2 ^ (17 + q)))

/-- SNP_FILL (R407). -/
def State.snpFill (s : State) : Nat :=
  let n := (s.snp.fills.filter (fun f => !f.done)).length
  16 * min 15 (n - 4) + min 4 n

/-- CPY_STATE of a cluster (R292). -/
def State.cpyState (s : State) (c : Clu) : Nat :=
  let x := s.clu c
  x.copies.length % 16 * 2 ^ 16 + b2n x.copyStopped * 2 ^ 15 + x.copyIdx % 2 ^ 12

/-- GRP_RED_STATE: the index of the oldest unfinished segment follows the list (R353). -/
def State.redState (s : State) : Nat :=
  let i := ((s.red.segs.zipIdx.find? (fun p => !s.segDone p.1)).map (fun p => p.2)).getD s.red.segs.length
  setBits (s.rd R.GRP_RED_STATE 0).toNat 15 0 (if s.red.phase == 0 then 0 else i)

/-- HUB_INT_RUNNINGt (R544). -/
def State.running (s : State) (t : Nat) : Nat :=
  let l := s.stack t
  l.length % 32 * 2 ^ 24 + (l.head?.map (fun p => p.1)).getD 0 % 4096 * 2 ^ 12 + s.runPrio t % 32

/-- CLU_VEC_GEN_STATE of a cluster's selected lane: placement pending, draws queued (R237). -/
def State.genState (s : State) (u : Nat) : Nat :=
  let g := (s.clu (cluNo (u / 105) (u % 105))).lane (s.get F.CLU_VEC_GEN_SEL_lane u)
  b2n g.place.isSome * 256 + g.q.length % 8

/-- The counter of a cluster's selected lane (R237). -/
def State.genCtr (s : State) (u : Nat) : Nat :=
  ((s.clu (cluNo (u / 105) (u % 105))).lane (s.get F.CLU_VEC_GEN_SEL_lane u)).n

/-- The value a read of register r of unit u returns: write-only fields read 0 (R5); some follow other state. -/
def State.view (s : State) (r : RegDef) (u : Nat) : Nat :=
  match r.blk, r.off with
  | .update, 4 => s.updPending
  | .xzSum, 0 => s.xzSum
  | .intTgt, 0xC => s.running u
  | .clu, 0x26C => s.genCtr u % 2 ^ 32
  | .clu, 0x270 => s.genCtr u / 2 ^ 32 % 2 ^ 32
  | .clu, 0x274 => s.genState u
  | .clu, 0x2D0 => s.cpyState (cluNo (u / 105) (u % 105))
  | .hub0, 0x20 => s.hostReady
  | .pacer, _ => if r == R.PCR_TIME_LO then s.ns % 2 ^ 32 else (s.rd r u).toNat
  | _, _ =>
    if r == R.GRP_EPOCH then s.grpEpoch (s.get F.GRP_SEL_group 0)
    else if r == R.GRP_LAP_INDEX_LO then s.lap.lam % 2 ^ 32
    else if r == R.GRP_LAP_INDEX_HI then s.lap.lam / 2 ^ 32 % 2 ^ 32
    else if r == R.GRP_LAP_POS_LO then s.lap.pi % 2 ^ 32
    else if r == R.GRP_LAP_POS_HI then s.lap.pi / 2 ^ 32 % 2 ^ 32
    else if r == R.GRP_RED_STATE then s.redState
    else if r == R.HUB_FLT_SPARES then s.spares
    else if r == R.SNP_FILL then s.snpFill
    else if r == R.JDG_STATE then setBits (s.rd r u).toNat 7 0 ((s.jdg.run.map (fun x => x.1)).getD 0)
    else r.fields.foldl (fun n f => match f.acc with
      | .wo | .stwo _ => setBits n f.hi f.lo 0
      | _ => n) (s.rd r u).toNat

/-- Word j of die summary register k (R542): physical cluster 32 j + i holds a code other than OK. -/
def State.diePend (s : State) (d k j : Nat) : Nat :=
  let held (n : Nat) : Bool :=
    let u := d * 105 + n
    match k with
    | 0 => (List.range 52).any (fun c => s.get F.CORE_ARRAY_STATUS_code (u * 52 + c) != 0)
    | 1 => s.get F.CLU_SCALE_STATUS_code u != 0
    | 2 => s.get F.STA_STATUS_code u != 0 || s.get F.GOV_STATUS_code u != 0
    | 3 => s.get F.SCT_STATUS_code u != 0
    | 4 => s.get F.CLU_VEC_STATUS_code u != 0
    | 5 => s.get F.CLU_SEQ_STATUS_code u != 0
    | 6 => s.get F.CPY_STATUS_code u != 0
    | _ => s.get F.RLY_SEND_STATUS_code u != 0
  sumN ((List.range 32).map (fun i => if 32 * j + i < 105 then b2n (held (32 * j + i)) * 2 ^ i else 0))

/-- Word h of a cluster's core summary (R542). -/
def State.corePend (s : State) (u h : Nat) : Nat :=
  sumN ((List.range 32).map (fun i =>
    if 32 * h + i < 52 then b2n (s.get F.CORE_ARRAY_STATUS_code (u * 52 + 32 * h + i) != 0) * 2 ^ i else 0))

/-- Latch words for the reads that follow. -/
def State.latchSet (s : State) (l : List (Nat × Nat)) : State :=
  { s with latch := l.foldl (fun t p => slSet t p.1 (BitVec.ofNat 32 p.2)) s.latch }

/-- A latched word is read once. -/
def State.latchTake (s : State) (a : Nat) (now : Nat) : State × Nat :=
  match slFind s.latch a with
  | some w => ({ s with latch := slDel s.latch a }, w.toNat)
  | none => (s, now)

/-- Does a performance counter count ac or frames that the spec leaves to timing: `bank_hold_ac` and `idle_ac` of a core,
`vec_stall_ac` and `copy_hold_ac` of a cluster, `tx_idle` and `baton_wait` of a link (R488 to R490). -/
def perfOpen (a : Nat) : Bool :=
  let o := (a - 0x0200_0000) % 0x0080_0000 % 0x0001_0000
  if a < 0x0200_0000 then [0x50, 0x58].contains (a % 0x4000 / 8 * 8)
  else if o < 0x1000 then [0x348, 0x358].contains (o / 8 * 8)
  else [0x58, 0x78].contains (o % 0x80 / 8 * 8)

/-- The units that a counter belongs to, as kind * 2^24 + unit: a link; or a core, its cluster and its die. -/
def perfUnits (a : Nat) : List Nat :=
  if a < 0x0200_0000 then [6 * 2 ^ 24 + (a - 0x0100_0000) / 0x0040_0000 * 16 + (a % 0x0040_0000 - 0x0004_0000) / 0x4000]
  else
    let d := (a - 0x0200_0000) / 0x0080_0000
    let x := (a - 0x0200_0000) % 0x0080_0000 - 0x0010_0000
    let cl := x / 0x10000
    let o := x % 0x10000
    let up := [3 * 2 ^ 24 + unitOf d cl 0 0, 4 * 2 ^ 24 + unitOf d 0 0 0]
    if o < 0x4000 then up
    else (2 * 2 ^ 24 + unitOf d cl (if o < 0x8000 then (o - 0x4000) / 0x80 else 26 + (o - 0x8000) / 0x80) 0) :: up

/-- The running time in which an open counter has counted since it was read last, in ns (R487). -/
def State.perfSpan (s : State) (lo : Nat) : Nat :=
  let us := perfUnits lo
  let t0 := (us.map (slGet 0 s.perf.start)).foldl max (max s.perf.since (slGet 0 s.perf.read lo))
  let t1 := (us.filterMap (slFind s.perf.stop)).foldl min s.runNs
  t1 - t0

/-- The most that an open counter counts in a time: its ac at 1.05 GHz, or frames of 268 B at 224 GB/s (R22, R295). -/
def perfMost (lo ns : Nat) : Nat := if lo < 0x0200_0000 then ns * 56 / 67 else ns * 21 / 20

/-- An open counter has grown by a free number of the ac or frames since it was read last (log 88). -/
def State.perfGrow (s : State) (lo : Nat) : State :=
  let k := Config.free s.freeCtr % (perfMost lo (s.perfSpan lo) + 1)
  { s.perfUp lo k with freeCtr := s.freeCtr + 1, perf := { s.perf with read := slSet s.perf.read lo s.runNs } }

/-- A read of the performance counter word at plain address a (R487). -/
def State.perfRead (s : State) (a : Nat) : State × Nat :=
  let s := if perfOpen a then s.perfGrow (a / 8 * 8) else s
  let w (b : Nat) : Nat := (slGet 0 s.regs b).toNat
  if a % 8 == 0 then (s.latchSet [(a + 4, w (a + 4))], w a) else s.latchTake a (w a)

/-- A read of a register that a block serves, with its side effects (R237, R438, R537). -/
def State.regLoad (s : State) (r : RegDef) (u : Nat) : State × Nat :=
  match r.blk, r.off with
  | .intTgt, 4 => s.claim u
  | .clu, 0x26C =>
    (s.latchSet [(R.CLU_VEC_GEN_CTR_HI.addr u, s.genCtr u / 2 ^ 32), (R.CLU_VEC_GEN_STATE.addr u, bits (s.genState u) 2 0)],
      s.view r u)
  | .clu, 0x270 => s.latchTake (r.addr u) (s.view r u)
  | .clu, 0x274 =>
    let n := s.latchTake (r.addr u) (s.view r u)
    (n.1, setBits n.2 8 8 (bits (s.view r u) 8 8))
  | .pacer, _ =>
    if r == R.PCR_TIME_LO then
      ((s.wr R.PCR_TIME_HI 0 (BitVec.ofNat 32 (s.ns / 2 ^ 32))).put F.PCR_TIME_FRAC_frac 0 (s.pacer.time % 256), s.view r u)
    else (s, s.view r u)
  | _, _ => (s, s.view r u)

/-! ### The orders window (R554) -/

/-- HBM address of the orders ring. -/
def State.ordBase (s : State) : Nat := s.get F.HUB_ORD_BASE_HI_base_hi 0 * 2 ^ 32 + s.get F.HUB_ORD_BASE_LO_base 0 * 2 ^ 26

/-- Is HBM available (R550). -/
def State.hbmUp (s : State) : Bool := s.flag F.HUB_HOST_READY_hbm 0 && !s.asleep && !s.pacer.stacksRest

/-- Does the orders window serve: the hub runs and the ring is enabled (R554, R570). -/
def State.winOn (s : State) : Bool := s.live && s.domOn (.hubCtl 0) && s.flag F.HUB_ORD_BASE_HI_en 0

/-- A read of n bytes of the window at offset o: all ones while it does not serve. DESIGN CHOICE (log 126): so too where the read of
HBM fails. -/
def State.winRead (s : State) (o n : Nat) : State × List Byte :=
  if s.winOn then
    let r := s.hbmMeet ((s.ordBase + o) % 2 ^ 41) n
    (r.1, if r.2 then List.replicate n 255 else r.1.ldBytes ((s.ordBase + o) % 2 ^ 41) n)
  else (s, List.replicate n 255)

/-- A write through the window at offset o. -/
def State.winWrite (s : State) (o : Nat) (bs : List (Option Byte)) : State :=
  if s.winOn then s.hbmWrite (s.ordBase + o) bs else s

/-- Is an address in the orders window. -/
def inWindow (a : Nat) : Bool := decide (0x1800_0000 ≤ a ∧ a < 0x1C00_0000)

/-! ### BAR0 accesses -/

/-- A word of the MSI-X structures at an offset of HB0's hub control block: vector and word, or word of the PBA. -/
def msixAt (p : Nat) : Option (Nat × Nat) :=
  if 0x0100_0800 ≤ p ∧ p < 0x0100_0C00 then some ((p - 0x0100_0800) / 16, (p - 0x0100_0800) % 16 / 4)
  else if p == 0x0100_0C00 || p == 0x0100_0C04 then some (64, (p - 0x0100_0C00) / 4)
  else none

/-- A write of 4 bytes to BAR0 (R524). Partial byte enables and unaligned addresses write nothing, but in the orders window, which takes
any (R554). -/
def State.busWrite (s : State) (a be v : Nat) : State :=
  if inWindow a then s.winWrite (a - 0x1800_0000) ((toBytes 4 v).zipIdx.map (fun p => if bit be p.2 then some p.1 else none))
  else if be != 15 || a % 4 != 0 then s
  else
    let p := plainOf a
    match msixAt p with
    | some (n, w) => if s.served .hub0 0 (p % 0x4000) && n < 64 then s.msixWrite n w (aliasOf a) v else s
    | none =>
      match regAt p with
      | some (r, u) => if s.served r.blk u r.off then s.regStore r u (aliasOf a) v else s
      | none => s

/-- What a read of the summary registers and counters, which have no register of their own in the map, returns. -/
def State.busExtra (s : State) (b : Blk) (u o p : Nat) : State × Nat :=
  if isPerf p then s.perfRead p
  else match b with
    | .die => if 0x100 ≤ o && o < 0x180 then (s, s.diePend u ((o - 0x100) / 16) ((o - 0x100) % 16 / 4)) else (s, 0)
    | .clu => if o == 0x3D0 || o == 0x3D4 then (s, s.corePend u ((o - 0x3D0) / 4)) else (s, 0)
    | _ => (s, 0)

/-- A read of 4 bytes of BAR0 (R524): a block out of service reads all ones, a reserved address 0. -/
def State.busRead (s : State) (a : Nat) : State × Nat :=
  if a % 4 != 0 then (s, 0)
  else if inWindow a then
    let r := s.winRead (a - 0x1800_0000) 4
    (r.1, leNat r.2)
  else
    let p := plainOf a
    match locate p with
    | none => (s, 0)
    | some (b, u, o) =>
      if !s.served b u o then (s, 2 ^ 32 - 1)
      else match msixAt p with
        | some (n, w) => (s, if n < 64 then (s.msixWord n w).toNat else s.host.pba / 2 ^ (32 * w) % 2 ^ 32)
        | none =>
          match regAt p with
          | some (r, u) => s.regLoad r u
          | none => s.busExtra b u o p

/-- A read whose value goes back to the reader. -/
def State.busReadOut (s : State) (a : Nat) : State :=
  let r := s.busRead a
  r.1.emit (.word (BitVec.ofNat 32 r.2))

/-! ### The commands -/

/-- REGISTER_WRITE (R6, R524). -/
def execRegisterWrite (a : BarAddr) (be : BitVec 4) (v : Word) (s : State) : Host.Outcome State Fault Refusal :=
  .next (s.busWrite a.toNat be.toNat v.toNat)

/-- SEQUENCE_CLEAR (R529). -/
def execSequenceClear (a : BarAddr) (v : Word) (s : State) : Host.Outcome State Fault Refusal :=
  .next (s.busWrite a.toNat 15 v.toNat)

/-- UPD_STROBE (R527). -/
def execUpdStrobe (m : Word) (s : State) : Host.Outcome State Fault Refusal :=
  .next (if s.served .update 0 0 then s.updStrobe m.toNat else s)

/-- GEN_CTR_READ (R237): a read of CLU_VEC_GEN_CTR_LO. -/
def execGenCtrRead (c : Clu) (s : State) : Host.Outcome State Fault Refusal :=
  .next (s.busReadOut (R.CLU_VEC_GEN_CTR_LO.addr (cluU c)))

/-- PCR_TIME_READ (R438): a read of PCR_TIME_LO. -/
def execPcrTimeRead (s : State) : Host.Outcome State Fault Refusal := .next (s.busReadOut (R.PCR_TIME_LO.addr 0))

/-- PERF_COUNTER_READ (R487): a read of a counter's LO word; another address is none of this command's. -/
def execPerfCounterRead (a : BarAddr) (s : State) : Host.Outcome State Fault Refusal :=
  .next (if isPerf (plainOf a.toNat) then s.busReadOut a.toNat else s)

/-- RETIRED_COL_NEXT_WRITE (R52). -/
def execRetiredColNextWrite (c : CoreId) (v : BitVec 6) (s : State) : Host.Outcome State Fault Refusal :=
  .next (if s.served .core (coreU c) 8 then s.colNext (coreU c) v.toNat else s)

/-- PWR_CAP_WRITE (R423). -/
def execPwrCapWrite (v : Word) (s : State) : Host.Outcome State Fault Refusal :=
  .next (if s.served .power 0 R.PWR_CAP.off then s.capWrite .plain v.toNat else s)

/-- HUB_INT_CLAIM (R537): a read of HUB_INT_CLAIMt. -/
def execHubIntClaim (t : Fin 9) (s : State) : Host.Outcome State Fault Refusal :=
  .next (s.busReadOut (R.HUB_INT_CLAIM.addr t))

/-- HUB_INT_COMPLETE (R537): a write of HUB_INT_COMPLETEt. -/
def execHubIntComplete (t : Fin 9) (src : BitVec 12) (s : State) : Host.Outcome State Fault Refusal :=
  .next (if s.served .intTgt t 8 then s.complete t src.toNat else s)

/-- DOORBELL (R535): the set alias of a doorbell's pending register. -/
def execDoorbell (n : Fin 256) (s : State) : Host.Outcome State Fault Refusal :=
  .next (if s.served .intPend (n / 32) 0 then s.ring n else s)

/-- HUB_ORD_TAIL (R558). -/
def execHubOrdTail (v : Word) (s : State) : Host.Outcome State Fault Refusal :=
  .next (if s.served .hub0 0 0x48 then s.ordTail v.toNat else s)

/-- ORDERS_RING_ENABLE: a write of HUB_ORD_BASE_HI (R554). -/
def execOrdersRingEnable (v : Word) (s : State) : Host.Outcome State Fault Refusal :=
  .next (if s.served .hub0 0 0x44 then s.ordEnable .plain v.toNat else s)

/-- COMPLETION_RING_ENABLE: a write of HUB_CMP_BASE_HI (R568). -/
def execCompletionRingEnable (v : Word) (s : State) : Host.Outcome State Fault Refusal :=
  .next (if s.served .hub0 0 0x5C then s.cmpEnable .plain v.toNat else s)

/-- ORDERS_WINDOW_ACCESS: a write of some bytes, or a read of `len`, at window offset a (R554). -/
def execOrdersWindowAccess (a : Nat) (wr : Option (List (Option Byte))) (len : Nat) (s : State) :
    Host.Outcome State Fault Refusal :=
  .next (if 2 ^ 26 ≤ a then s
  else match wr with
    | some bs => s.winWrite a (bs.take (2 ^ 26 - a))
    | none =>
      let r := s.winRead a (min len (2 ^ 26 - a))
      r.1.emit (.data r.2))

/-- MSI-X is enabled in configuration space with its function mask clear: held messages are tried (R561). -/
def State.msixOn (s : State) : State :=
  let s := { s with host := { s.host with msixEn := true, funcMask := false } }
  (List.range 64).foldl (fun s v => s.msixTry v) s

/-- MSIX_UNMASK: the mask bit of vector v is cleared; or, for the function as a whole, its mask, with MSI-X enabled (R561). -/
def execMsixUnmask (v : Option (Fin 64)) (s : State) : Host.Outcome State Fault Refusal :=
  .next (match v with
  | some v => if s.served .hub0 0 0x800 then s.msixWrite v 3 .plain 0 else s
  | none => if s.pcieOn then s.msixOn else s)

end Sys2Proof.Machine
end

