-- ==== Sys2Proof/Machine/Endpoint.lean ====
section
/-!
DEFINITION. The PCIe endpoint, SMBus and JTAG (R547 to R552, R563 to R566).
-/

namespace Sys2Proof.Machine

/-! ### BAR2 (R550) -/

/-- Post HUB_PCI_STATUS (R569). -/
def State.pciPost (s : State) (code : Nat) : State := s.post R.HUB_PCI_STATUS 0 [] code 2338

/-- HBM address of BAR2 offset a (R550). -/
def State.bar2At (s : State) (a : Nat) : Nat := s.get F.HUB_PCI_B2_b2_base 0 * 2 ^ 30 + a

/-- BAR2_WRITE: bytes, each with its enable, from BAR2 offset a; dropped while HBM is not available (R550). `err`: what the reads
of the accesses that it covers in part show; an access whose read fails is not written, nor one of a channel out of service (R288,
R289). -/
def execBar2Write (a : Nat) (bs : List (Byte × Bool)) (err : ReadErr) (s : State) : Host.Outcome State Fault Refusal :=
  let at_ := s.bar2At a
  .next (if !s.pcieOn || 2 ^ s.host.bar2 < a + bs.length then s
  else if !s.hbmUp then s.pciPost 4
  else
    let r := err.upsets.foldl (fun (r : State × List Nat) u =>
      if partWrite at_ (bs.map (fun p => p.2)) u.1 && decide (u.1 < bs.length) then
        let t := r.1.hbmRead (at_ + u.1) u.2
        (t.1, if t.2 then r.2 ++ [(at_ + u.1) / 64] else r.2)
      else r) (s, [])
    r.1.hbmWrite at_ (bs.zipIdx.map (fun p => if p.1.2 && !r.2.contains ((at_ + p.2) / 64) then some p.1.1 else none)))

/-- BAR2_READ: `len` bytes from BAR2 offset a; `err` is what the HBM reads show (R287, R288, R550). -/
def execBar2Read (a len : Nat) (err : ReadErr) (s : State) : Host.Outcome State Fault Refusal :=
  let at_ := s.bar2At a
  .next (if !s.pcieOn || 2 ^ s.host.bar2 < a + len then s
  else if !s.hbmUp then (s.emit .unsupported).pciPost 4
  else if s.hbmBad at_ (at_ + len) then (s.emit .poisoned).pciPost 3
  else
    let r := s.hbmReads at_ len err
    let r := if r.2 then r else r.1.hbmMeet (at_ % 2 ^ 41) len
    if r.2 then (r.1.emit .poisoned).pciPost 3 else r.1.emit (.data (r.1.ldBytes (at_ % 2 ^ 41) len)))

/-! ### Endpoint resets and the link (R547, R551, R569) -/

/-- The endpoint is reset: configuration space, BAR sizes, `b2_base`, MSI-X table and PBA, HUB_PCI_STATUS and the link; every
other unit keeps running (R551). -/
def State.pciReset (s : State) : State :=
  if !s.pcieOn then s
  else
    let s := { s with
      host := { s.host with msix := [], pba := 0, msixEn := false, funcMask := false, bar2 := 41 }
      jdg := { s.jdg with doe := none } }
    ((s.wr R.HUB_PCI_B2 0 0).wr R.HUB_PCI_STATUS 0 0).pciPost 5

/-- PERST_N (R551). -/
def execPerstN (s : State) : Host.Outcome State Fault Refusal := .next s.pciReset

/-- HOT_RESET (R551). -/
def execHotReset (s : State) : Host.Outcome State Fault Refusal := .next s.pciReset

/-- FUNCTION_LEVEL_RESET (R551). -/
def execFunctionLevelReset (s : State) : Host.Outcome State Fault Refusal := .next s.pciReset

/-- PCI_LINK_DOWN: the link left L0 without a reset (R569). -/
def execPciLinkDown (s : State) : Host.Outcome State Fault Refusal :=
  .next (if s.pcieOn then (s.puts 0 [(F.HUB_PCI_STATUS_width, 0), (F.HUB_PCI_STATUS_rate, 0)]).pciPost 1 else s)

/-- PCI_LINK_TRAINED: the link has trained to a width (0 x1 to 4 x16) and a rate generation (1 to 7); below x16 or below
128 GT/s, which is generation 7, it is degraded (R547, R568). -/
def execPciLinkTrained (width rate : Nat) (s : State) : Host.Outcome State Fault Refusal :=
  .next (if s.pcieOn && decide (width ≤ 4 ∧ 1 ≤ rate ∧ rate ≤ 7) then
    let s := s.puts 0 [(F.HUB_PCI_STATUS_width, width), (F.HUB_PCI_STATUS_rate, rate)]
    if width < 4 || rate < 7 then s.pciPost 2 else s
  else s)

/-! ### SMBus (R563 to R565) -/

/-- A transfer whose PEC is right acts, another is NACKed (R563); the target serves from the end of stage 0x01 on (R590). -/
def State.smbus (s : State) (pec : Bool) (act : State → State) : State :=
  if s.stage == 0 then s else if pec then act s else s.emit .nack

/-- GET_ID (R564). -/
def execGetId (pec : Bool) (s : State) : Host.Outcome State Fault Refusal :=
  .next (s.smbus pec (fun s => s.emit (.smbus (toBytes 2 (s.get F.HUB_ID_PART_part 0) ++ toBytes 1 (s.get F.HUB_ID_STEP_stepping 0) ++ [0]
    ++ toBytes 3 (s.get F.HUB_ID_BIB_bib 0) ++ toBytes 1 (s.get F.HUB_ID_BIB_bib_valid 0)
    ++ toBytes 8 (s.get64 R.HUB_ID_SERIAL_LO R.HUB_ID_SERIAL_HI 0)))))

/-- SET_BIB: taken only while every Relay link is DOWN (R564); links that are enabled then train (R577). -/
def execSetBib (bib : BitVec 24) (pec : Bool) (s : State) : Host.Outcome State Fault Refusal :=
  .next (s.smbus pec (fun s =>
    if (List.range 64).all (fun l => s.get F.RLY_STATE_state l == 0) then
      let s := s.puts 0 [(F.HUB_ID_BIB_bib, bib.toNat), (F.HUB_ID_BIB_bib_valid, 1)]
      (List.range 64).foldl (fun s l => if s.flag F.RLY_CTRL_enable l then s.linkEnable l true else s) s
    else s.emit .nack))

/-- The causes of ALERT_N whose condition holds (R565): 0 a lasting fault of the endpoint, 1 no firmware slot verified, 2 degraded, 3
the Judge in error. -/
def State.alertHolds (s : State) : Nat :=
  b2n s.host.faulty + 2 * b2n s.jdg.fwNone + 4 * b2n s.flt.degraded + 8 * b2n (s.flag F.JDG_STATE_error 0)

/-- The causes of ALERT_N (R565). -/
def State.alertCauses (s : State) : Nat := s.host.alerts ||| s.alertHolds

/-- GET_STATE (R564). -/
def execGetState (pec : Bool) (s : State) : Host.Outcome State Fault Refusal :=
  .next (s.smbus pec (fun s => s.emit (.smbus (toBytes 4 s.hostReady ++ toBytes 1 s.alertCauses ++ toBytes 1 (b2n s.flt.degraded)
    ++ toBytes 2 (s.get F.PWR_MEAS_bus_mv 0) ++ toBytes 2 (s.get F.PWR_MEAS_power_w 0) ++ toBytes 1 (s.get F.PWR_THERM_t_max 0) ++ [0]))))

/-- READ_REG: a read of BAR0 under R524 (R564). -/
def execReadReg (a : Word) (pec : Bool) (s : State) : Host.Outcome State Fault Refusal :=
  .next (s.smbus pec (fun s =>
    let r := s.busRead a.toNat
    r.1.emit (.smbus (toBytes 4 r.2))))

/-- CLEAR_ALERT: a cause is cleared only when its condition no longer holds (R565). -/
def execClearAlert (mask : Byte) (pec : Bool) (s : State) : Host.Outcome State Fault Refusal :=
  .next (s.smbus pec (fun s =>
    let a := s.host.alerts
    { s with host := { s.host with alerts := (a - (a &&& mask.toNat)) ||| (a &&& s.alertHolds) } }))

/-- ALERT_RESPONSE: the target answers with its address while ALERT_N is asserted (R563). -/
def execAlertResponse (s : State) : Host.Outcome State Fault Refusal :=
  .next (if s.stage == 0 || s.alertCauses == 0 then s else s.emit (.smbus [0x58]))

/-! ### JTAG (R566) -/

/-- BYPASS: the one-bit bypass register, which captures 0; the pins are the module's (R566). -/
def execBypass (s : State) : Host.Outcome State Fault Refusal :=
  .next (({ s with host := { s.host with scanMode := 0 } }).emit (.jtag 0))

/-- The identification code (R566). -/
def idcodeWord : Nat := 2 ^ 28 + 0xA980 * 2 ^ 12 + Config.jedec % 2048 * 2 + 1

/-- IDCODE (R566). -/
def execIdcode (s : State) : Host.Outcome State Fault Refusal :=
  .next (({ s with host := { s.host with scanMode := 0 } }).emit (.jtag idcodeWord))

/-- SAMPLE/PRELOAD: the pins are sampled, a free value, and the boundary cells take the values shifted in (R566). -/
def execSamplePreload (v : Nat) (s : State) : Host.Outcome State Fault Refusal :=
  .next (({ s with freeCtr := s.freeCtr + 1, host := { s.host with scanMode := 0, scanCells := v } }).emit (.jtag (Config.free s.freeCtr)))

/-- EXTEST: the boundary values drive the pins (R566). -/
def execExtest (s : State) : Host.Outcome State Fault Refusal := .next { s with host := { s.host with scanMode := 1 } }

/-- CLAMP: the boundary values drive the pins, with the bypass register selected (R566). -/
def execClamp (s : State) : Host.Outcome State Fault Refusal :=
  .next (({ s with host := { s.host with scanMode := 2 } }).emit (.jtag 0))

/-- HIGHZ: the pins are not driven (R566). -/
def execHighz (s : State) : Host.Outcome State Fault Refusal :=
  .next (({ s with host := { s.host with scanMode := 3 } }).emit (.jtag 0))

end Sys2Proof.Machine
end

