-- ==== Sys2Proof/Machine/Engines.lean ====
section
/-!
DEFINITION. The commands of cores, kernels and Scouts that read operands in SRAM: a lasting error that such a read finds has its unit
quarantined when the command ends (R270, R355).
-/

namespace Sys2Proof.Machine

/-- PASS: a sequencer pass item (R57, R58, R261). -/
def execPass (c : CoreId) (off : PoolOff) (s : State) : Host.Outcome State Fault Refusal :=
  .next (State.sramServe (if s.cluGo c.clu && !s.coreQuar c then s.passItem c off else s))

/-- WAVEFRONT_COMMIT: the next unmasked wavefront of a core's quadrant (0 in the full array) passes the residue check
and commits (R76, R87). `upset` is what a physical fault adds to the combiner's results. -/
def execWavefrontCommit (c : CoreId) (q : Fin 4) (upset : List (Nat × Int)) (s : State) :
    Host.Outcome State Fault Refusal :=
  .next (State.sramServe (if s.cluGo c.clu && !s.coreQuar c then
    match s.nextWave c q with
    | some (i, r, n) => s.feedWave c i r n upset
    | none => s
  else s))

/-- HURDLE: the cluster's cores drain and adopt the words delivered for a governed layer (R84, R453). A layer beyond
its home's table delivers nothing. -/
def execHurdle (c : Clu) (layer : BitVec 16) (s : State) : Host.Outcome State Fault Refusal :=
  .next (State.sramServe (if s.cluGo c && (s.clu c).kernel.isNone && s.hasLayer c layer.toNat then
    s.hurdleRun c layer else s))

/-- KERNEL: a kernel item runs its instructions to completion; `budget` bounds how many, and the same item with its
kernel still in progress goes on (R213, R453, log 18). In an empty heat no token reaches the engine (R244). -/
def execKernel (c : Clu) (off : PoolOff) (count budget : Nat) (s : State) : Host.Outcome State Fault Refusal :=
  .next (State.sramServe (
    if !s.cluGo c || (s.clu c).emptyHeat then s
    else match (s.clu c).kernel with
      | some n => if n.off == off.toNat && n.count == count then s.kernelRun c budget else s
      | none => (s.setClu c { s.clu c with kernel := some { off := off.toNat, count := count }, ip := 0 }).kernelRun c budget))

/-- VEC_LOAD: load contiguous words (R213). -/
def execVecLoad (c : Clu) (i : VInst) (s : State) : Host.Outcome State Fault Refusal :=
  .next (State.sramServe (s.issue c (vopVecLoad c i)))

/-- VEC_STORE: store contiguous words (R213). -/
def execVecStore (c : Clu) (i : VInst) (s : State) : Host.Outcome State Fault Refusal :=
  .next (State.sramServe (s.issue c (vopVecStore c i)))

/-- VEC_GATHER: gather (R234). -/
def execVecGather (c : Clu) (i : VInst) (s : State) : Host.Outcome State Fault Refusal :=
  .next (State.sramServe (s.issue c (vopVecGather c i)))

/-- VEC_SCATTER: scatter (R234). -/
def execVecScatter (c : Clu) (i : VInst) (s : State) : Host.Outcome State Fault Refusal :=
  .next (State.sramServe (s.issue c (vopVecScatter c i)))

/-- SCOUT_ESTIMATE (R202): an estimate call at the head of the queue writes its estimates. -/
def execScoutEstimate (c : Clu) (s : State) : Host.Outcome State Fault Refusal :=
  .next (State.sramServe (if s.cluOn c then s.sctStart c 0 (fun s d r => s.sctEstimates c d r) else s))

/-- SCOUT_TOP_K (R202): a top-k call writes the k largest estimates of each row. -/
def execScoutTopK (c : Clu) (s : State) : Host.Outcome State Fault Refusal :=
  .next (State.sramServe (if s.cluOn c then s.sctStart c 1 (fun s d r => s.sctTopK c d r) else s))

/-- SCOUT_THRESHOLD (R202): a threshold call writes one bitmap per row. -/
def execScoutThreshold (c : Clu) (s : State) : Host.Outcome State Fault Refusal :=
  .next (State.sramServe (if s.cluOn c then s.sctStart c 2 (fun s d r => s.sctBitmap c d r) else s))

/-- SCOUT_RANGE (R203): a range call forms its largest estimate. -/
def execScoutRange (c : Clu) (s : State) : Host.Outcome State Fault Refusal :=
  .next (State.sramServe (if s.cluOn c then s.sctStart c 3 (fun s _ _ => s) else s))

end Sys2Proof.Machine
end

