-- ==== Sys2Proof/Machine/Orders.lean ====
section
/-!
DEFINITION. Orders and completions (R553 to R560).
-/

namespace Sys2Proof.Machine

/-- Records of the orders ring (R554). -/
def ordN : Nat := 2 ^ 18

/-- HBM address of the record of the order at `head`. -/
def State.ordAt (s : State) : Nat := s.ordBase + s.get F.HUB_ORD_HEAD_head 0 % ordN * 256

/-- A field of the order at `head`: n bytes at offset o (R555). -/
def State.ordF (s : State) (o n : Nat) : Nat := s.ldH (s.ordAt + o) n

/-- HBM address of the completion ring. -/
def State.cmpBase (s : State) : Nat := s.get F.HUB_CMP_BASE_HI_base_hi 0 * 2 ^ 32 + s.get F.HUB_CMP_BASE_LO_base 0 * 2 ^ 12

/-- Records of the completion ring. -/
def State.cmpN (s : State) : Nat := 2 ^ s.get F.HUB_CMP_BASE_HI_size_log2 0

/-- Is the completion ring full (R559). -/
def State.cmpFull (s : State) : Bool :=
  (s.get F.HUB_CMP_HEAD_cmp_head 0 + 2 ^ 32 - s.get F.HUB_CMP_TAIL_cmp_tail 0) % 2 ^ 32 == s.cmpN

/-- A completion record of 32 bytes (R559). -/
def cmpRec (seq status done tag t value : Nat) : List Byte :=
  toBytes 4 seq ++ toBytes 2 status ++ toBytes 2 done ++ toBytes 8 tag ++ toBytes 8 t ++ toBytes 8 value

/-- Write a completion record; the ring that fills is reported (R559). -/
def State.cmpPut (s : State) (b : List Byte) : State :=
  let j := s.get F.HUB_CMP_HEAD_cmp_head 0
  let s := (s.stBytes ((s.cmpBase + j % s.cmpN * 32) % 2 ^ 41) b).put F.HUB_CMP_HEAD_cmp_head 0 ((j + 1) % 2 ^ 32)
  if s.cmpFull then s.post R.HUB_ORD_STATUS 0 [] 2 2337 else s

/-- The order at `head` completes: its record unless it is quiet and OK, source 2336 when asked for, then `head` advances
(R555, R557, R559). -/
def State.ordDone (s : State) (status done value : Nat) : State :=
  let fl := s.ordF 2 1
  let b := cmpRec (s.ordF 4 4) status done (s.ordF 8 8) s.ns value
  let h := s.get F.HUB_ORD_HEAD_head 0
  let s := if bit fl 1 && status == 0 then s else
    let s := s.cmpPut b
    if bit fl 0 then s.raise 2336 else s
  ({ s with host := { s.host with pollAt := none, pairsDone := 0 } }).put F.HUB_ORD_HEAD_head 0 ((h + 1) % 2 ^ 32)

/-- Is the record malformed: a reserved operation or bit, a count out of range, an unusable `reply` (R555 to R557). -/
def State.ordBad (s : State) : Bool :=
  let op := s.ordF 0 2
  let n := s.ordF 3 1
  let reply := s.ordF 24 8
  let cnt := match op with
    | 1 => n == 0
    | 2 => decide (1 ≤ n ∧ n ≤ 28)
    | 3 => decide (1 ≤ n ∧ n ≤ 56)
    | 4 => n == 1
    | _ => false
  let rep := if op == 3 then reply % 4 == 0 && decide (reply + 4 * n ≤ 2 ^ 41) && !s.hbmBad reply (reply + 4 * n) else reply == 0
  !cnt || !rep || decide (4 ≤ s.ordF 2 1)

/-- Is a write to an address refused in an order: HB0's hub control block and the window (R556). -/
def ordRefused (a : Nat) : Bool := decide (0x0100_0000 ≤ a ∧ a < 0x0100_4000) || inWindow a

/-- A freeze began while an order was performed: the stewards stand still, and the scan goes on after the release (R486). -/
def State.ordHalt (s : State) (done : Nat) : State :=
  { s with host := { s.host with pairsDone := done }, pacer := { s.pacer with scanDue := true } }

/-- The pairs of a REG_WRITE order in order, from `done` on: the first refused one ends it (R556); after one that freezes the
module the others wait (R486). -/
def State.ordWrites (s : State) (base : Nat) (done : Nat) : Nat → State
  | 0 => s.ordDone 0 done 0
  | n + 1 =>
    let a := s.ldH (base + 8 * done) 4
    if ordRefused a then s.ordDone 3 done 0
    else
      let t := s.busWrite a 15 (s.ldH (base + 8 * done + 4) 4)
      if t.live then t.ordWrites base (done + 1) n else t.ordHalt (done + 1)

/-- The addresses of a REG_READ order in order; the values go to `reply` (R556). -/
def State.ordReads (s : State) (base reply done : Nat) : Nat → State
  | 0 => s.ordDone 0 done 0
  | n + 1 =>
    let r := s.busRead (s.ldH (base + 4 * done) 4)
    (r.1.stH (reply + 4 * done) 4 r.2).ordReads base reply (done + 1) n

/-- A REG_POLL order: it completes on a match, or when its time has passed since it started; else it holds (R556). -/
def State.ordPoll (s : State) : State :=
  let t0 := s.host.pollAt.getD s.ns
  let us := s.ordF 44 4
  let r := s.busRead (s.ordF 32 4)
  let s := { r.1 with host := { r.1.host with pollAt := some t0 } }
  if r.2 &&& s.ordF 36 4 == s.ordF 40 4 then s.ordDone 0 0 r.2
  else if us != 0 && t0 + 1000 * us ≤ s.ns then s.ordDone 4 0 r.2
  else s

/-- May the stewards perform orders: clocks run, stewards ready, both rings enabled (R557, R559). -/
def State.ordMay (s : State) : Bool :=
  s.live && s.starter.stewReady && s.flag F.HUB_ORD_BASE_HI_en 0 && s.flag F.HUB_CMP_BASE_HI_en 0

/-- May the order at `head` start: one is there, the completion ring is not full, its time has come; an order with a wrong
`seq` completes without waiting (R557). -/
def State.ordReady (s : State) : Bool :=
  s.ordMay && s.get F.HUB_ORD_HEAD_head 0 != s.get F.HUB_ORD_TAIL_tail 0 && !s.cmpFull
    && (s.ordF 4 4 != s.get F.HUB_ORD_HEAD_head 0 || decide (s.ordF 16 8 ≤ s.ns))

/-- Perform the order at `head` (R556, R557). DESIGN CHOICE (log 127): an order whose record cannot be read stays at `head`. -/
def State.ordRun (s : State) : State :=
  let at_ := s.ordAt + 32
  let r := s.hbmMeet (s.ordAt % 2 ^ 41) 256
  let s := r.1
  if r.2 then s
  else if s.ordF 4 4 != s.get F.HUB_ORD_HEAD_head 0 then s.ordDone 2 0 0
  else if s.ordBad then s.ordDone 1 0 0
  else match s.ordF 0 2 with
    | 2 => s.ordWrites at_ s.host.pairsDone (s.ordF 3 1 - s.host.pairsDone)
    | 3 => s.ordReads at_ (s.ordF 24 8) 0 (s.ordF 3 1)
    | 4 => s.ordPoll
    | _ => s.ordDone 0 0 0

/-- Orders from `head` onward, at most n of them; a poll that holds ends the scan (R557). -/
def State.ordScan (s : State) : Nat → State
  | 0 => s
  | n + 1 =>
    if !s.ordReady then s
    else
      let t := s.ordRun
      if t.get F.HUB_ORD_HEAD_head 0 == s.get F.HUB_ORD_HEAD_head 0 then t else t.ordScan n

/-- ORDER_SCAN: a firing of SPT0 or SPT1 has been delivered. At a lap boundary the start hurdle goes first; while the
clocks stand or the stewards restart, the scan waits (R373, R557, R570). -/
def execOrderScan (s : State) : Host.Outcome State Fault Refusal :=
  .next (if !s.pacer.scanDue || !s.live || !s.starter.stewReady || s.startMay then s
  else ({ s with pacer := { s.pacer with scanDue := false } }).ordScan (s.get F.HUB_ORD_CFG_batch 0))

/-- Perform the order at `head` of operation op, within a scan. -/
def State.ordOp (s : State) (op : Nat) : State := if s.ordReady && s.ordF 0 2 == op then s.ordRun else s

/-- NOP (R556): the NOP order at `head`. -/
def execNop (s : State) : Host.Outcome State Fault Refusal := .next (s.ordOp 1)

/-- REG_WRITE (R556): the REG_WRITE order at `head`. -/
def execRegWrite (s : State) : Host.Outcome State Fault Refusal := .next (s.ordOp 2)

/-- REG_READ (R556): the REG_READ order at `head`. -/
def execRegRead (s : State) : Host.Outcome State Fault Refusal := .next (s.ordOp 3)

/-- REG_POLL (R556): the REG_POLL order at `head`. -/
def execRegPoll (s : State) : Host.Outcome State Fault Refusal := .next (s.ordOp 4)

end Sys2Proof.Machine
end

