-- ==== Sys2Proof/Machine/Dispatch.lean ====
section
/-!
DEFINITION. The meaning of every command: one arm per constructor of Instr, each a direct call of its meaning.
-/

namespace Sys2Proof.Machine

/-- The effect of a command on everything but the queue. -/
def exec (i : Instr) (s : State) : Host.Outcome State Fault Refusal :=
  match i with
  | .registerWrite a be v => Sys2Proof.Machine.execRegisterWrite a be v s
  | .sequenceClear a v => Sys2Proof.Machine.execSequenceClear a v s
  | .updStrobe m => Sys2Proof.Machine.execUpdStrobe m s
  | .genCtrRead c => Sys2Proof.Machine.execGenCtrRead c s
  | .pcrTimeRead => Sys2Proof.Machine.execPcrTimeRead s
  | .perfCounterRead a => Sys2Proof.Machine.execPerfCounterRead a s
  | .retiredColNextWrite c v => Sys2Proof.Machine.execRetiredColNextWrite c v s
  | .pass c off => Sys2Proof.Machine.execPass c off s
  | .wavefrontCommit c q upset => Sys2Proof.Machine.execWavefrontCommit c q upset s
  | .residueRetry c q upset cols => Sys2Proof.Machine.execResidueRetry c q upset cols s
  | .passComplete c q => Sys2Proof.Machine.execPassComplete c q s
  | .clusterExcMerge c => Sys2Proof.Machine.execClusterExcMerge c s
  | .excRecordMerge u => Sys2Proof.Machine.execExcRecordMerge u s
  | .hurdle c layer => Sys2Proof.Machine.execHurdle c layer s
  | .outputConversion c tensor dst => Sys2Proof.Machine.execOutputConversion c tensor dst s
  | .scanMaximumMerge tensor => Sys2Proof.Machine.execScanMaximumMerge tensor s
  | .scoutEstimateMerge tensor => Sys2Proof.Machine.execScoutEstimateMerge tensor s
  | .saturationVerdict tensor => Sys2Proof.Machine.execSaturationVerdict tensor s
  | .statisticsMerge tensor => Sys2Proof.Machine.execStatisticsMerge tensor s
  | .startHurdle tests => Sys2Proof.Machine.execStartHurdle tests s
  | .heatSlot c heat start len => Sys2Proof.Machine.execHeatSlot c heat start len s
  | .feedDescriptorTake => Sys2Proof.Machine.execFeedDescriptorTake s
  | .reductionHurdle => Sys2Proof.Machine.execReductionHurdle s
  | .segmentCombine k => Sys2Proof.Machine.execSegmentCombine k s
  | .reductionLate k input => Sys2Proof.Machine.execReductionLate k input s
  | .gateHurdle c => Sys2Proof.Machine.execGateHurdle c s
  | .gateLimit => Sys2Proof.Machine.execGateLimit s
  | .verdict => Sys2Proof.Machine.execVerdict s
  | .optimizer c desc plan => Sys2Proof.Machine.execOptimizer c desc plan s
  | .commit => Sys2Proof.Machine.execCommit s
  | .clusterMirrorCopy c => Sys2Proof.Machine.execClusterMirrorCopy c s
  | .kernel c off count budget => Sys2Proof.Machine.execKernel c off count budget s
  | .endOfLap c => Sys2Proof.Machine.execEndOfLap c s
  | .waitItem c w => Sys2Proof.Machine.execWaitItem c w s
  | .cluSeqResume c => Sys2Proof.Machine.execCluSeqResume c s
  | .cluSeqAbandon c => Sys2Proof.Machine.execCluSeqAbandon c s
  | .generatorPrefetch c lane => Sys2Proof.Machine.execGeneratorPrefetch c lane s
  | .vecAdd c v => Sys2Proof.Machine.execVecAdd c v s
  | .vecSub c v => Sys2Proof.Machine.execVecSub c v s
  | .vecMul c v => Sys2Proof.Machine.execVecMul c v s
  | .vecFma c v => Sys2Proof.Machine.execVecFma c v s
  | .vecMoveImmediate c v => Sys2Proof.Machine.execVecMoveImmediate c v s
  | .vecMin c v => Sys2Proof.Machine.execVecMin c v s
  | .vecMax c v => Sys2Proof.Machine.execVecMax c v s
  | .vecAbs c v => Sys2Proof.Machine.execVecAbs c v s
  | .vecNeg c v => Sys2Proof.Machine.execVecNeg c v s
  | .vecCopysign c v => Sys2Proof.Machine.execVecCopysign c v s
  | .vecCompare c v => Sys2Proof.Machine.execVecCompare c v s
  | .vecSelect c v => Sys2Proof.Machine.execVecSelect c v s
  | .vecDiv c v => Sys2Proof.Machine.execVecDiv c v s
  | .vecSqrt c v => Sys2Proof.Machine.execVecSqrt c v s
  | .vecRcp c v => Sys2Proof.Machine.execVecRcp c v s
  | .vecRsqrt c v => Sys2Proof.Machine.execVecRsqrt c v s
  | .vecExp2 c v => Sys2Proof.Machine.execVecExp2 c v s
  | .vecLog2 c v => Sys2Proof.Machine.execVecLog2 c v s
  | .vecExp c v => Sys2Proof.Machine.execVecExp c v s
  | .vecLn c v => Sys2Proof.Machine.execVecLn c v s
  | .vecTanh c v => Sys2Proof.Machine.execVecTanh c v s
  | .vecSigmoid c v => Sys2Proof.Machine.execVecSigmoid c v s
  | .intAdd c v => Sys2Proof.Machine.execIntAdd c v s
  | .intSub c v => Sys2Proof.Machine.execIntSub c v s
  | .intMulLow c v => Sys2Proof.Machine.execIntMulLow c v s
  | .intAnd c v => Sys2Proof.Machine.execIntAnd c v s
  | .intOr c v => Sys2Proof.Machine.execIntOr c v s
  | .intXor c v => Sys2Proof.Machine.execIntXor c v s
  | .intShl c v => Sys2Proof.Machine.execIntShl c v s
  | .intShr c v => Sys2Proof.Machine.execIntShr c v s
  | .intSar c v => Sys2Proof.Machine.execIntSar c v s
  | .intPopcount c v => Sys2Proof.Machine.execIntPopcount c v s
  | .intCompare c v => Sys2Proof.Machine.execIntCompare c v s
  | .vecDraw c v => Sys2Proof.Machine.execVecDraw c v s
  | .vecPosition c v => Sys2Proof.Machine.execVecPosition c v s
  | .vecConvert c v => Sys2Proof.Machine.execVecConvert c v s
  | .vecLoad c v => Sys2Proof.Machine.execVecLoad c v s
  | .vecStore c v => Sys2Proof.Machine.execVecStore c v s
  | .vecGather c v => Sys2Proof.Machine.execVecGather c v s
  | .vecScatter c v => Sys2Proof.Machine.execVecScatter c v s
  | .vecShuffle c v => Sys2Proof.Machine.execVecShuffle c v s
  | .vecTreeReduction c v => Sys2Proof.Machine.execVecTreeReduction c v s
  | .vecScan c v => Sys2Proof.Machine.execVecScan c v s
  | .vecSort c v => Sys2Proof.Machine.execVecSort c v s
  | .predAnd c v => Sys2Proof.Machine.execPredAnd c v s
  | .predOr c v => Sys2Proof.Machine.execPredOr c v s
  | .predNot c v => Sys2Proof.Machine.execPredNot c v s
  | .vecJump c v => Sys2Proof.Machine.execVecJump c v s
  | .branchAny c v => Sys2Proof.Machine.execBranchAny c v s
  | .branchNone c v => Sys2Proof.Machine.execBranchNone c v s
  | .endOfKernel c v => Sys2Proof.Machine.execEndOfKernel c v s
  | .vecReservedOpcode c opc => Sys2Proof.Machine.execVecReservedOpcode c opc s
  | .sctCall c desc => Sys2Proof.Machine.execSctCall c desc s
  | .scoutCallItem c off => Sys2Proof.Machine.execScoutCallItem c off s
  | .scoutEstimate c => Sys2Proof.Machine.execScoutEstimate c s
  | .scoutTopK c => Sys2Proof.Machine.execScoutTopK c s
  | .scoutThreshold c => Sys2Proof.Machine.execScoutThreshold c s
  | .scoutRange c => Sys2Proof.Machine.execScoutRange c s
  | .scoutCallDone c => Sys2Proof.Machine.execScoutCallDone c s
  | .cpySubmit c list => Sys2Proof.Machine.execCpySubmit c list s
  | .copyListItem c list => Sys2Proof.Machine.execCopyListItem c list s
  | .copyLinear c err => Sys2Proof.Machine.execCopyLinear c err s
  | .copyStrided c err => Sys2Proof.Machine.execCopyStrided c err s
  | .copyTranspose c err => Sys2Proof.Machine.execCopyTranspose c err s
  | .copyGather c err => Sys2Proof.Machine.execCopyGather c err s
  | .copyScatter c err => Sys2Proof.Machine.execCopyScatter c err s
  | .copyFill c err => Sys2Proof.Machine.execCopyFill c err s
  | .cpyResume c => Sys2Proof.Machine.execCpyResume c s
  | .hbmRefresh h chan bank => Sys2Proof.Machine.execHbmRefresh h chan bank s
  | .hbmRecalDue h chan temp fails => Sys2Proof.Machine.execHbmRecalDue h chan temp fails s
  | .hbmTempRecal h chan temp fails => Sys2Proof.Machine.execHbmTempRecal h chan temp fails s
  | .recalNow h temp fails => Sys2Proof.Machine.execRecalNow h temp fails s
  | .rlySend c desc => Sys2Proof.Machine.execRlySend c desc s
  | .sendItem c off => Sys2Proof.Machine.execSendItem c off s
  | .sendStart c => Sys2Proof.Machine.execSendStart c s
  | .sendComplete c => Sys2Proof.Machine.execSendComplete c s
  | .idleFlit l f => Sys2Proof.Machine.execIdleFlit l f s
  | .headFlit l f => Sys2Proof.Machine.execHeadFlit l f s
  | .bodyFlit l f => Sys2Proof.Machine.execBodyFlit l f s
  | .nakFlit l f => Sys2Proof.Machine.execNakFlit l f s
  | .batonFlit l f => Sys2Proof.Machine.execBatonFlit l f s
  | .timeFlit l f => Sys2Proof.Machine.execTimeFlit l f s
  | .heartbeatFlit l f => Sys2Proof.Machine.execHeartbeatFlit l f s
  | .freezeFlit l f => Sys2Proof.Machine.execFreezeFlit l f s
  | .swapFlit l f => Sys2Proof.Machine.execSwapFlit l f s
  | .swapAckFlit l f => Sys2Proof.Machine.execSwapAckFlit l f s
  | .replayTimeout l => Sys2Proof.Machine.execReplayTimeout l s
  | .swapAckTimeout l => Sys2Proof.Machine.execSwapAckTimeout l s
  | .laneSwitchFrame l rx => Sys2Proof.Machine.execLaneSwitchFrame l rx s
  | .laneLockLoss l lane => Sys2Proof.Machine.execLaneLockLoss l lane s
  | .laneRetrainDone l rx ok => Sys2Proof.Machine.execLaneRetrainDone l rx ok s
  | .laneRetrainDue l => Sys2Proof.Machine.execLaneRetrainDue l s
  | .swapNow l => Sys2Proof.Machine.execSwapNow l s
  | .linkRetire l => Sys2Proof.Machine.execLinkRetire l s
  | .linkEnable l en => Sys2Proof.Machine.execLinkEnable l en s
  | .peerSignalDetect l => Sys2Proof.Machine.execPeerSignalDetect l s
  | .trainAttemptEnd l txGood rxGood => Sys2Proof.Machine.execTrainAttemptEnd l txGood rxGood s
  | .trainRetry l => Sys2Proof.Machine.execTrainRetry l s
  | .alignDone l peer => Sys2Proof.Machine.execAlignDone l peer s
  | .timeExchangeDue l => Sys2Proof.Machine.execTimeExchangeDue l s
  | .heartbeatSend l => Sys2Proof.Machine.execHeartbeatSend l s
  | .heartbeatMiss l => Sys2Proof.Machine.execHeartbeatMiss l s
  | .batonStall l vc => Sys2Proof.Machine.execBatonStall l vc s
  | .dataPacket l vc => Sys2Proof.Machine.execDataPacket l vc s
  | .reduceUp l vc => Sys2Proof.Machine.execReduceUp l vc s
  | .resultDown l vc => Sys2Proof.Machine.execResultDown l vc s
  | .gatherUp l vc => Sys2Proof.Machine.execGatherUp l vc s
  | .gatherDown l vc => Sys2Proof.Machine.execGatherDown l vc s
  | .grpAdvance => Sys2Proof.Machine.execGrpAdvance s
  | .beatSend g => Sys2Proof.Machine.execBeatSend g s
  | .beatMiss g nb => Sys2Proof.Machine.execBeatMiss g nb s
  | .beat l vc => Sys2Proof.Machine.execBeat l vc s
  | .suspect l vc => Sys2Proof.Machine.execSuspect l vc s
  | .probe l vc => Sys2Proof.Machine.execProbe l vc s
  | .probeReply l vc => Sys2Proof.Machine.execProbeReply l vc s
  | .probeTimeout g rank => Sys2Proof.Machine.execProbeTimeout g rank s
  | .decreeBatchEnd g => Sys2Proof.Machine.execDecreeBatchEnd g s
  | .decree l vc => Sys2Proof.Machine.execDecree l vc s
  | .chunkToBuddy l vc => Sys2Proof.Machine.execChunkToBuddy l vc s
  | .chunkAck l vc => Sys2Proof.Machine.execChunkAck l vc s
  | .manifestToBuddy l vc => Sys2Proof.Machine.execManifestToBuddy l vc s
  | .lapCut l vc => Sys2Proof.Machine.execLapCut l vc s
  | .restoreFetchRequest l vc => Sys2Proof.Machine.execRestoreFetchRequest l vc s
  | .restoreFetchReply l vc => Sys2Proof.Machine.execRestoreFetchReply l vc s
  | .fillRequest l vc => Sys2Proof.Machine.execFillRequest l vc s
  | .fillChunk l vc => Sys2Proof.Machine.execFillChunk l vc s
  | .fillAck l vc => Sys2Proof.Machine.execFillAck l vc s
  | .fillDone l vc => Sys2Proof.Machine.execFillDone l vc s
  | .snapshotTransfer => Sys2Proof.Machine.execSnapshotTransfer s
  | .snpNow => Sys2Proof.Machine.execSnpNow s
  | .snpRestore => Sys2Proof.Machine.execSnpRestore s
  | .faultQuarantine kind u => Sys2Proof.Machine.execFaultQuarantine kind u s
  | .faultRequalify kind u found => Sys2Proof.Machine.execFaultRequalify kind u found s
  | .faultTest kind u found => Sys2Proof.Machine.execFaultTest kind u found s
  | .refill c => Sys2Proof.Machine.execRefill c s
  | .takeover => Sys2Proof.Machine.execTakeover s
  | .remapPersist => Sys2Proof.Machine.execRemapPersist s
  | .hubFwSwitch => Sys2Proof.Machine.execHubFwSwitch s
  | .stewardReady => Sys2Proof.Machine.execStewardReady s
  | .stewardReadyTimeout => Sys2Proof.Machine.execStewardReadyTimeout s
  | .syncMark code tdc => Sys2Proof.Machine.execSyncMark code tdc s
  | .markMissing => Sys2Proof.Machine.execMarkMissing s
  | .syncClkLoss => Sys2Proof.Machine.execSyncClkLoss s
  | .syncClkReturn => Sys2Proof.Machine.execSyncClkReturn s
  | .pcrResync => Sys2Proof.Machine.execPcrResync s
  | .splitTimerArm n v => Sys2Proof.Machine.execSplitTimerArm n v s
  | .splitTimerFire n => Sys2Proof.Machine.execSplitTimerFire n s
  | .orderScan => Sys2Proof.Machine.execOrderScan s
  | .supplySag mv => Sys2Proof.Machine.execSupplySag mv s
  | .sagEnd mv => Sys2Proof.Machine.execSagEnd mv s
  | .undervoltage mv => Sys2Proof.Machine.execUndervoltage mv s
  | .rideRecover mv => Sys2Proof.Machine.execRideRecover mv s
  | .rideEnd mv => Sys2Proof.Machine.execRideEnd mv s
  | .supplySwell mv => Sys2Proof.Machine.execSupplySwell mv s
  | .absoluteMaximum mv => Sys2Proof.Machine.execAbsoluteMaximum mv s
  | .rippleMeasure mv => Sys2Proof.Machine.execRippleMeasure mv s
  | .collapse mv => Sys2Proof.Machine.execCollapse mv s
  | .capControl power => Sys2Proof.Machine.execCapControl power s
  | .ballastPass c => Sys2Proof.Machine.execBallastPass c s
  | .pwrCapWrite v => Sys2Proof.Machine.execPwrCapWrite v s
  | .supplyPhaseEdge => Sys2Proof.Machine.execSupplyPhaseEdge s
  | .phaseLoss => Sys2Proof.Machine.execPhaseLoss s
  | .powerPlanStep => Sys2Proof.Machine.execPowerPlanStep s
  | .thermalThrottle t => Sys2Proof.Machine.execThermalThrottle t s
  | .thermalTrip t => Sys2Proof.Machine.execThermalTrip t s
  | .domainSwitch d dst => Sys2Proof.Machine.execDomainSwitch d dst s
  | .blocks => Sys2Proof.Machine.execBlocks s
  | .wake => Sys2Proof.Machine.execWake s
  | .supplyWake mv => Sys2Proof.Machine.execSupplyWake mv s
  | .imgLoad => Sys2Proof.Machine.execImgLoad s
  | .imgApply => Sys2Proof.Machine.execImgApply s
  | .imgDiscard => Sys2Proof.Machine.execImgDiscard s
  | .claimRequest k => Sys2Proof.Machine.execClaimRequest k s
  | .claimWindowOpen k => Sys2Proof.Machine.execClaimWindowOpen k s
  | .claimRelease k => Sys2Proof.Machine.execClaimRelease k s
  | .waitEnd w => Sys2Proof.Machine.execWaitEnd w s
  | .syncTimeout w => Sys2Proof.Machine.execSyncTimeout w s
  | .traceTrigger => Sys2Proof.Machine.execTraceTrigger s
  | .traceEnable q => Sys2Proof.Machine.execTraceEnable q s
  | .perfClear => Sys2Proof.Machine.execPerfClear s
  | .freezeNFall => Sys2Proof.Machine.execFreezeNFall s
  | .freeze => Sys2Proof.Machine.execFreeze s
  | .freezeRelease => Sys2Proof.Machine.execFreezeRelease s
  | .freezeEnd => Sys2Proof.Machine.execFreezeEnd s
  | .scanOutDone => Sys2Proof.Machine.execScanOutDone s
  | .abortScan => Sys2Proof.Machine.execAbortScan s
  | .hubIntClaim t => Sys2Proof.Machine.execHubIntClaim t s
  | .hubIntComplete t src => Sys2Proof.Machine.execHubIntComplete t src s
  | .doorbell n => Sys2Proof.Machine.execDoorbell n s
  | .jdgVerifyFw => Sys2Proof.Machine.execJdgVerifyFw s
  | .raiseFloor => Sys2Proof.Machine.execRaiseFloor s
  | .installKey => Sys2Proof.Machine.execInstallKey s
  | .revokeKey => Sys2Proof.Machine.execRevokeKey s
  | .attest => Sys2Proof.Machine.execAttest s
  | .dbgChallenge => Sys2Proof.Machine.execDbgChallenge s
  | .dbgToken => Sys2Proof.Machine.execDbgToken s
  | .dbgRevoke => Sys2Proof.Machine.execDbgRevoke s
  | .debugExpiry => Sys2Proof.Machine.execDebugExpiry s
  | .zeroize => Sys2Proof.Machine.execZeroize s
  | .enroll => Sys2Proof.Machine.execEnroll s
  | .installCert => Sys2Proof.Machine.execInstallCert s
  | .readCert => Sys2Proof.Machine.execReadCert s
  | .selfTest fails => Sys2Proof.Machine.execSelfTest fails s
  | .setMode => Sys2Proof.Machine.execSetMode s
  | .doeRequest req => Sys2Proof.Machine.execDoeRequest req s
  | .doeAbort => Sys2Proof.Machine.execDoeAbort s
  | .bar2Write a bs err => Sys2Proof.Machine.execBar2Write a bs err s
  | .bar2Read a len err => Sys2Proof.Machine.execBar2Read a len err s
  | .ordersWindowAccess a wr len => Sys2Proof.Machine.execOrdersWindowAccess a wr len s
  | .hubOrdTail v => Sys2Proof.Machine.execHubOrdTail v s
  | .ordersRingEnable v => Sys2Proof.Machine.execOrdersRingEnable v s
  | .completionRingEnable v => Sys2Proof.Machine.execCompletionRingEnable v s
  | .nop => Sys2Proof.Machine.execNop s
  | .regWrite => Sys2Proof.Machine.execRegWrite s
  | .regRead => Sys2Proof.Machine.execRegRead s
  | .regPoll => Sys2Proof.Machine.execRegPoll s
  | .msixUnmask v => Sys2Proof.Machine.execMsixUnmask v s
  | .perstN => Sys2Proof.Machine.execPerstN s
  | .hotReset => Sys2Proof.Machine.execHotReset s
  | .functionLevelReset => Sys2Proof.Machine.execFunctionLevelReset s
  | .pciLinkDown => Sys2Proof.Machine.execPciLinkDown s
  | .pciLinkTrained width rate => Sys2Proof.Machine.execPciLinkTrained width rate s
  | .getId pec => Sys2Proof.Machine.execGetId pec s
  | .setBib bib pec => Sys2Proof.Machine.execSetBib bib pec s
  | .getState pec => Sys2Proof.Machine.execGetState pec s
  | .readReg a pec => Sys2Proof.Machine.execReadReg a pec s
  | .clearAlert mask pec => Sys2Proof.Machine.execClearAlert mask pec s
  | .alertResponse => Sys2Proof.Machine.execAlertResponse s
  | .bypass => Sys2Proof.Machine.execBypass s
  | .idcode => Sys2Proof.Machine.execIdcode s
  | .samplePreload v => Sys2Proof.Machine.execSamplePreload v s
  | .extest => Sys2Proof.Machine.execExtest s
  | .clamp => Sys2Proof.Machine.execClamp s
  | .highz => Sys2Proof.Machine.execHighz s
  | .powerOn o => Sys2Proof.Machine.execPowerOn o s
  | .pwrOkFall => Sys2Proof.Machine.execPwrOkFall s
  | .moduleReset v => Sys2Proof.Machine.execModuleReset v s
  | .manifestAcknowledgement l vc => Sys2Proof.Machine.execManifestAcknowledgement l vc s

end Sys2Proof.Machine
end

