-- ==== Sys2Proof/Machine/Tick.lean ====
section
/-!
DEFINITION. What a tick of site time does on its own (R409, R412, R495): the model's empty step (log 5, log 26).
-/

namespace Sys2Proof.Machine

/-- A link in service with an acknowledgement due sends an idle flit that carries it (R298). -/
def State.idleFlit (s : State) (l : Nat) : State :=
  if s.linkUp l && (s.lnk l).ackDue then s.sendCtl l 0 [] 1 else s

/-- The Judge goes on when it is in service: the running command does what it names; then what waited for it, in the order below, before
the next command (R481; log 43). -/
def State.jdgTick (s : State) : State :=
  if !s.judgeUp then s
  else
    let s := s.jdgDone.fwSwitchLate.manifestLate
    if s.judgeUp && s.jdg.ok then s.doeLate else s

/-- One tick: site time goes on, the trace units write their queues, links acknowledge; a restore or a snapshot that waits for another
module goes on without it (R398, R405); then a scan-out (R518), a Blocks entry or a wake (R433, R434), the Judge (R481) and the image loader (R444, R447)
go on; nothing before power is applied. -/
def State.clockTick (s : State) : State :=
  if s.stage == 0 then s
  else
    let s := (List.range 4).foldl State.trcDrain s.tick
    let s := (s.links.map (fun p => p.1)).foldl State.idleFlit s
    s.restWait.buddyWait.photoTick.pwrTick.jdgTick.imgTick

end Sys2Proof.Machine
end

