-- ==== Sys2Proof/Safety.lean ====
section
/-!
DEFINITION. What counts as a well-formed state, and what a command leaves alone, in the terms the statements use.
-/

namespace Sys2Proof.Machine

/-- The byte-addressed memories keep their one form: places strictly rising, and no byte listed that equals what an unlisted
place reads as. -/
def State.memOk (s : State) : Prop := Mem.wf s.mem = true ∧ Mem.wf s.flash = true

/-- Every register word but those at the plain addresses of l reads the same in both states. -/
def State.regsBut (s t : State) (l : List Nat) : Prop := ∀ d a, a ∉ l → slGet d t.regs a = slGet d s.regs a

/-- Nothing but registers differs, and of them only those at the plain addresses of l. -/
def State.onlyRegs (s t : State) (l : List Nat) : Prop := t = { s with regs := t.regs } ∧ s.regsBut t l

/-- The plain addresses of the Starter's 128 pending words. -/
def pendAddrs : List Nat := (List.range 128).map R.HUB_INT_PEND.addr

/-- Nothing differs but registers at the plain addresses of l, the Starter's pending words, and messages sent or held: what
an event leaves alone (R535, R539). -/
def State.onlyEvent (s t : State) (l : List Nat) : Prop :=
  t = { s with regs := t.regs, host := { s.host with pba := t.host.pba }, out := t.out } ∧ s.regsBut t (l ++ pendAddrs)

/-- Status register r of unit u reports code c: `code` holds it and `seq` counts up by 1 modulo 256 (R5). -/
def State.reports (s t : State) (r : RegDef) (u c : Nat) : Prop :=
  bits (t.rd r u).toNat 7 0 = c ∧ bits (t.rd r u).toNat 31 24 = (bits (s.rd r u).toNat 31 24 + 1) % 256

/-- Nothing but cluster c's own state differs. -/
def State.onlyClu (s t : State) (c : Clu) : Prop :=
  t = { s with clus := t.clus } ∧ ∀ d, d ≠ c → t.clu d = s.clu d

/-- Every byte of memory outside the n bytes from place a reads the same in both states. -/
def State.memBut (s t : State) (a n : Nat) : Prop := ∀ x, x < a ∨ a + n ≤ x → Mem.get t.mem x = Mem.get s.mem x

/-- The HBM controllers serve every read and write: no upset waits in HBM, and no channel is out of service (R287 to R289). -/
def State.hbmQuiet (s : State) : Prop := s.upsets.hbm = [] ∧ ∀ a b, s.hbmBad a b = false

/-- No upset waits in an SRAM word, and no failed word waits for its unit's quarantine (R270, R355). -/
def State.sramQuiet (s : State) : Prop := s.upsets.sram = [] ∧ s.flt.sramBad = []

/-- How many units a kind of register block has (R520 to R523). -/
def blkUnits : Blk → Nat
  | .ident | .update | .modExc | .lap | .landing | .groups | .snap | .pacer | .power | .images | .intCfg | .xzSum | .hub0
  | .fault | .judge | .trace => 1
  | .hub | .traceQ => 4
  | .spt | .hbm => 32
  | .intSrc => 4096
  | .intPend | .intMask => 128
  | .intTgt => 9
  | .link => 64
  | .die => 17
  | .clu => 1785
  | .core => 92820

/-- Registers with RW fields and none of another type that a write changes, whose writes have no effect of their own. -/
def rwRegs : List RegDef :=
  [R.RLY_LAND_LO, R.RLY_LAND_HI, R.GRP_TABLE_LO, R.GRP_TABLE_HI, R.GRP_SEL, R.GRP_MBR_CFG, R.GRP_MBR_BOOK_LO,
   R.GRP_MBR_BOOK_HI, R.SNP_CFG, R.SNP_INTERVAL, R.SNP_MTBF, R.SNP_COST, R.SNP_PLAN_LO, R.SNP_PLAN_HI, R.SNP_VAULT_LO,
   R.SNP_VAULT_HI, R.SNP_BUDDY0, R.SNP_BUDDY1, R.SNP_WARD0, R.SNP_WARD1, R.SNP_RESTORE_LO, R.SNP_RESTORE_HI, R.PWR_SAG,
   R.PWR_RIDE, R.PWR_PHASE, R.PWR_PLAN_LO, R.PWR_PLAN_HI, R.PWR_RIPPLE, R.PWR_THERM, R.IMG_SRC_LO, R.IMG_SRC_HI,
   R.HUB_ORD_CFG, R.HUB_CMP_TAIL, R.HUB_FLT_SEL, R.HUB_FLT_TEST, R.RLY_PEER_EXPECT, R.SCT_GEN_REMAP0, R.SCT_GEN_REMAP1,
   R.SCT_GEN_REMAP2, R.SCT_GEN_REMAP3, R.CLU_VEC_GEN_SEL, R.CLU_TRC_CFG, R.JDG_REQ_LO, R.JDG_REQ_HI, R.TRC_TRIG_CFG,
   R.TRC_PHOTO_BASE_LO, R.TRC_PHOTO_BASE_HI, R.TRC_PHOTO_SIZE, R.TRC_Q_BASE_LO, R.TRC_Q_BASE_HI, R.TRC_Q_SIZE, R.TRC_Q_POST]

/-- The status registers, cleared by sequence, whose writes have no effect of their own. -/
def sqRegs : List RegDef :=
  [R.GRP_LAP_STATUS, R.RLY_LAND_STATUS, R.GRP_STATUS, R.SNP_STATUS, R.PCR_STATUS, R.PWR_STATUS, R.IMG_STATUS,
   R.HUB_INT_STATUS, R.HUB_PCI_STATUS, R.HUB_ORD_STATUS, R.HUB_HBM_STATUS, R.HUB_FLT_STATUS, R.RLY_STATUS,
   R.CLU_SCALE_STATUS, R.STA_STATUS, R.SCT_STATUS, R.CLU_VEC_STATUS, R.CLU_SEQ_STATUS, R.CPY_STATUS, R.RLY_SEND_STATUS,
   R.CORE_ARRAY_STATUS, R.JDG_STATUS, R.TRC_STATUS]

/-- Lane l of vector register r of cluster c, as a word (R213). -/
def State.laneW (s : State) (c : Clu) (r l : Nat) : Word := slGet 0 (s.clu c).vreg (64 * r + l)

/-- The registers that vector work counts in: VEC_ISSUED (R489) and the lane events (R237). -/
def vecCounters (c : Clu) : List Nat := [cluBase (cluU c) + 0x340, cluBase (cluU c) + 0x344, R.CLU_VEC_EVENTS.addr (cluU c)]

/-- Cluster c issued one vector instruction: nothing outside the cluster changes, of its registers only the counters of
vector work, its instruction pointer is ip, the issue is counted (R489), and besides it only the vector and predicate
registers may differ. -/
def State.issued (s t : State) (c : Clu) (ip : Int) : Prop :=
  t = { s with regs := t.regs, clus := t.clus } ∧ (∀ d, d ≠ c → t.clu d = s.clu d) ∧ s.regsBut t (vecCounters c) ∧
  t.clu c = { s.clu c with ip := ip, vreg := (t.clu c).vreg, preg := (t.clu c).preg } ∧
  slGet 0 t.regs (cluBase (cluU c) + 0x340) = slGet 0 s.regs (cluBase (cluU c) + 0x340) + 1

/-- Of the vector registers of cluster c only `dst` of instruction i changed, in the lanes where i executes: lane l holds
f l; the predicate registers did not change (R213). -/
def State.lanesSet (s t : State) (c : Clu) (i : VInst) (f : Nat → Word) : Prop :=
  s.issued t c ((s.clu c).ip + 1) ∧ (t.clu c).preg = (s.clu c).preg ∧
  ∀ r < 32, ∀ l < 64, t.laneW c r l = if r = i.dst ∧ s.laneOn c i l = true then f l else s.laneW c r l

/-- Of the predicate registers of cluster c only the one that `dst` of instruction i names changed, in the lanes where i
executes: bit l is f l; the vector registers did not change (R213). -/
def State.predSet (s t : State) (c : Clu) (i : VInst) (f : Nat → Bool) : Prop :=
  s.issued t c ((s.clu c).ip + 1) ∧ (t.clu c).vreg = (s.clu c).vreg ∧
  ∀ p < 8, ∀ l < 64, bit (t.preg c p) l = if p = i.dst % 8 ∧ s.laneOn c i l = true then f l else bit (s.preg c p) l

/-- The sum of n over the lanes in which instruction i executes. -/
def State.laneSum (s : State) (c : Clu) (i : VInst) (n : Nat → Nat) : Nat := ((s.lanesOn c i).map n).sum

/-- The lane events that n flushes and k invalid operations leave, saturating (R215, R237). -/
def State.laneEvents (s t : State) (c : Clu) (n k : Nat) : Prop :=
  t.get F.CLU_VEC_EVENTS_flush (cluU c) = satAdd (s.get F.CLU_VEC_EVENTS_flush (cluU c)) n 0xFFFF ∧
  t.get F.CLU_VEC_EVENTS_invalid (cluU c) = satAdd (s.get F.CLU_VEC_EVENTS_invalid (cluU c)) k 0xFFFF

/-- Is a word an FP32 NaN, and is it a subnormal number. -/
def isNaN32 (w : Word) : Bool := bits w.toNat 30 23 == 255 && bits w.toNat 22 0 != 0
def isSub32 (w : Word) : Bool := bits w.toNat 30 23 == 0 && bits w.toNat 22 0 != 0

/-- The codes of an operand block lie in the range of n digits, in at most 32 rows (R33, R35). -/
def blockFits (n : Nat) (b : Block) : Prop :=
  b.q.length ≤ 32 ∧ ∀ v ∈ b.q, -(2 ^ (4 * n - 1) : Int) ≤ v ∧ v < (2 ^ (4 * n - 1) : Int)

/-- Both operands of a pass fit the widths of the core's mode, whatever its memories hold: what the checks of R58 see to. -/
def State.runFits (s : State) (c : CoreId) (r : PassRun) : Prop :=
  (∀ p ∈ r.cols, blockFits (mode.k (s.coreMode c)) p.blk) ∧
  ∀ m n, blockFits (mode.s (s.coreMode c)) ({ s with mem := m }.strmBlock c r.desc n).1

/-- The scale of a tensor's conversion on a core is there (R140): under A8 the ranges of the lap or the fixed descriptors, else
what the policy asks for. -/
def State.scaleThere (s : State) (c : CoreId) (t : Nat) (f : Fmt) : Prop :=
  let x := s.tensor t
  let policy := s.get F.CORE_OUTCONV_policy (coreU c)
  if f = .a8 then x.maxReady = true ∨ (x.reconv = false ∧ policy = 3)
  else (scaleDecide (((s.sclFind c.clu t).map s.sclWord).getD 0) f policy x).isSome = true

/-- The place that an output in a format is converted to: of carriers, the start of the one at the named place (R117). -/
def convPlace (f : Fmt) (dst : BitVec 64) : Nat := if f.isBlock then carrierDown f (physPlace dst.toNat) else physPlace dst.toNat

/-- No wait on the scale of a tensor is open in t; every other wait of s still is (R140, R491). -/
def State.scaleCame (s t : State) (n : Nat) : Prop :=
  (∀ p ∈ t.waits, ¬(p.2.what = 3 ∧ p.2.obj = n)) ∧
  ∀ p ∈ s.waits, (∀ q ∈ s.waits, q.1 = p.1 → ¬(q.2.what = 3 ∧ q.2.obj = n)) → p ∈ t.waits

/-- Is a tensor strict on a cluster (R156). -/
def State.strictOn (s : State) (c : Clu) (t : Nat) : Bool := scl.strict (((s.sclFind c t).map s.sclWord).getD 0)

/-- A copy of an update kernel that goes through: its places exist and its channels are in service (R268, R289). -/
def State.moveOk (s : State) (m : OptMove) : Prop :=
  m.hbm + m.len ≤ 2 ^ 41 ∧ m.pool + m.len ≤ 2 ^ 22 ∧ s.hbmBad m.hbm (m.hbm + m.len) = false

/-- A place outside the statistics records of a cluster (R161). -/
def State.outsideStats (s : State) (c : Clu) (a : Nat) : Prop :=
  ∀ i < s.get F.STA_CFG_records (cluU c), a < s.staRec c i ∨ s.staRec c i + 512 ≤ a

/-- The copy descriptor at hand of a cluster whose list is not stopped (R271). -/
def State.copyAt (s : State) (c : Clu) : Option Nat :=
  match (s.clu c).copies with
  | l :: _ => if (s.clu c).copyStopped then none else some (s.ld (poolAt c (l + 64 * (s.clu c).copyIdx)) 64)
  | [] => none

/-- No row that a prepared copy reads waits for a verdict (R145). -/
def State.copyFree (s : State) (d : Nat) (k : CopyRun) : Prop :=
  ∀ m ∈ k.moves, ∀ p ∈ k.srcSpans d m, s.regionHeld p.1 (p.1 + p.2) = false

/-- No row of a prepared copy waits for a verdict (R145) or touches a channel out of service (R269, R289). -/
def State.copyInService (s : State) (d : Nat) (k : CopyRun) : Prop := s.copyFree d k ∧ s.cpyBad d k = none

/-- Descriptor d is valid, its places are in service, k is what it moves, no index stops it, and it is not being retried
(R268, R275, R278, R284). -/
def State.copyReady (s : State) (c : Clu) (d : Nat) (k : CopyRun) : Prop :=
  cpyInvalid d (s.clu c).copyIdx = false ∧ s.cpyPrep c d = .ok k ∧ k.stop = false ∧ s.copyInService d k ∧
  (s.clu c).copyRetry = false

/-- No earlier descriptor of the list may still be running beside descriptor d (R279). -/
def State.copyAlone (s : State) (c : Clu) (d : Nat) : Prop := cpy.fence d = true ∨ (s.clu c).copyOld = []

/-- The copy list of cluster c went on after descriptor d, or ended with it (R271); no other cluster changed. -/
def State.copyNext (s t : State) (c : Clu) (d : Nat) : Prop :=
  t.clu c = (if cpy.last d = true then
      { s.clu c with copies := (s.clu c).copies.drop 1, copyIdx := 0, copiesDone := (s.clu c).copiesDone + 1, last := s.ns,
                     copyOld := [] }
    else { s.clu c with copyIdx := (s.clu c).copyIdx + 1, copyOld := (t.clu c).copyOld }) ∧ ∀ e, e ≠ c → t.clu e = s.clu e

/-- The module sent the outputs l last; before them it issued nothing but MSI-X messages of events. -/
def State.sent (s t : State) (l : List Emit) : Prop :=
  ∃ m : List Emit, (∀ e ∈ m, ∃ v a d, e = .msix v a d) ∧ t.out = s.out ++ m ++ l

/-- The oldest packet of a channel is b, of kind k, no flit of the channel waits behind a packet (R332), and the module works (R304,
R331). -/
def State.packetIs (s : State) (l vc k : Nat) (b : List Byte) : Prop :=
  s.live = true ∧ s.packetAt l vc = some b ∧ (Pkt.ofBytes b).kind = k ∧ ∀ q ∈ (s.lnk l).parked, q.1 ≠ vc

/-- A membership packet that passes the checks of R371: no reserved value, its sender in the route book, its group valid. -/
def State.memberIs (s : State) (l vc k : Nat) (b : List Byte) : Prop :=
  s.packetIs l vc k b ∧ Pkt.reservedSet b = false ∧ (Pkt.ofBytes b).plainHead = true ∧
  (k = 0x14 ∨ (Pkt.ofBytes b).elem0 = 0 ∧ s.grpValid (Pkt.ofBytes b).group = true) ∧
  (s.bookFind (Pkt.ofBytes b).srcBib).isSome = true

/-- Nothing waits to be sent on a link: its queue is empty and no send in flight has packets to read for it (R301, R309). -/
def State.linkIdle (s : State) (l : Nat) : Prop :=
  (s.lnk l).queue = [] ∧ ∀ p ∈ s.clus, ∀ q ∈ p.2.sends, q.started = true → q.link = l → q.n ≤ q.next

/-- No packet of a virtual channel of a link waits for its epoch, nor a flit behind one (R332). -/
def State.vcOpen (s : State) (l vc : Nat) : Prop := s.vcHeld l vc = false ∧ ∀ q ∈ (s.lnk l).parked, q.1 ≠ vc

/-- A control flit is no further copy of one taken (R298). -/
def State.ctlNew (s : State) (l kind : Nat) (p : List Byte) : Prop :=
  ∀ c, (s.lnk l).ctl = some c → c.1 = kind → c.2.2 ≠ p.take 16

/-- Flits of a link that wait for a baton or for their acknowledgement. -/
def State.txCount (s : State) (l : Nat) : Nat := (s.lnk l).queue.length + (s.lnk l).replay.length

/-- A snapshot packet with no reserved value and the head that R393 gives its kinds. -/
def State.snpIs (s : State) (l vc k : Nat) (b : List Byte) : Prop :=
  s.packetIs l vc k b ∧ Pkt.reservedSet b = false ∧ (Pkt.ofBytes b).plainHead = true ∧ (Pkt.ofBytes b).group = 0 ∧
  (Pkt.ofBytes b).epoch = 0 ∧ (Pkt.ofBytes b).elem0 = 0

/-- A fill packet of the data-parallel group that R331 accepts, with no reserved value in its head (R393, R394). -/
def State.fillIs (s : State) (l vc k : Nat) (b : List Byte) : Prop :=
  s.packetIs l vc k b ∧ Pkt.reservedSet b = false ∧ s.epochCheck (Pkt.ofBytes b) = .accepted ∧ s.inDp (Pkt.ofBytes b) = true

/-- Nothing that the snapshot logic keeps differs but what it lists: the links and their counters, waits and outputs may. -/
def State.snpOnly (s t : State) (x : Snp) : Prop :=
  t.snp = x ∧ t.mem = s.mem ∧ t.lap = s.lap ∧ t.clus = s.clus ∧ t.mbr = s.mbr

/-- HUB_FLT_STATUS reports code c with the kind and the unit of the event (R380, R381). -/
def State.fltSays (s t : State) (kind u c : Nat) : Prop :=
  s.reports t R.HUB_FLT_STATUS 0 c ∧ t.get F.HUB_FLT_STATUS_kind 0 = kind ∧ t.get F.HUB_FLT_UNIT_unit 0 = u

/-- The plain addresses of the fault engine's report. -/
def fltAddrs : List Nat := [R.HUB_FLT_UNIT.addr 0, R.HUB_FLT_STATUS.addr 0]

/-- One record was written to the fault log: of a kind and unit, with an outcome and a code; every other byte of the flash
is as before, and the head counts the record (R375, R378). -/
def State.logged (s t : State) (kind u outcome code : Nat) : Prop :=
  let n := s.get F.HUB_FLT_LOG_HEAD_head 0
  let a := 0x21200000 + 32 * n
  t.get F.HUB_FLT_LOG_HEAD_head 0 = (n + 1) % 8388608 ∧ leNat (Mem.read t.flash a 8) = s.ns % 2 ^ 64 ∧
  Mem.read t.flash (a + 8) 4 = [BitVec.ofNat 8 kind, BitVec.ofNat 8 outcome, BitVec.ofNat 8 code, 0] ∧
  leNat (Mem.read t.flash (a + 12) 4) = u ∧ ∀ x, x < a ∨ a + 32 ≤ x → Mem.get t.flash x = Mem.get s.flash x

/-- The 64-bit performance counter whose low word is at plain address a (R487). -/
def State.perfAt (s : State) (a : Nat) : Nat := (slGet 0 s.regs a).toNat + 2 ^ 32 * (slGet 0 s.regs (a + 4)).toNat

/-- An integer clamped to 32 bits, as a word's number (R438). -/
def clamp32 (e : Int) : Nat := unsx 32 (max (-(2 ^ 31)) (min (2 ^ 31 - 1) e))

/-- The plain addresses of the supply monitor's report. -/
def pwrAddrs : List Nat := [R.PWR_STATE.addr 0, R.PWR_MEAS.addr 0, R.PWR_EVENTS.addr 0, R.PWR_STATUS.addr 0]

/-- All volatile state is lost: bring-up is at stage 0, memory reads as after a power-on, no domain is on, no cluster, link or
lap state is left; the flash, the queue of commands and the record of outputs stay; `cause` shows why (R421, R578). -/
def State.wiped (s t : State) (cause : Nat) : Prop :=
  t.stage = 0 ∧ t.mem = [] ∧ t.doms = [] ∧ t.clus = [] ∧ t.cores = [] ∧ t.links = [] ∧ t.lap = {} ∧ t.claims = [] ∧
  t.pending = s.pending ∧ t.out = s.out ∧ t.get F.HUB_RST_CAUSE_cause 0 = cause

/-- A Blocks entry for a cause is under way: what was open spans it, and memory, domains and clusters keep what they hold (R433). -/
def State.entering (s t : State) (cause : Nat) : Prop :=
  t.pwr = 3 ∧ t.get F.PWR_STATE_cause 0 = cause ∧ t.mem = s.mem ∧ t.doms = s.doms ∧ t.clus = s.clus ∧ t.pacer.sink = none ∧
  t.pacer.ballast = false ∧ ∀ p ∈ t.waits, p.2.blk = true

/-- The module is in Blocks for a cause: every domain that was on is in retention, every UP link in LPI, and memory keeps its
contents (R433). -/
def State.inBlocks (s t : State) (cause : Nat) : Prop :=
  t.pwr = 4 ∧ t.get F.PWR_STATE_cause 0 = cause ∧ t.mem = s.mem ∧
  (∀ d, t.dom d = if s.dom d = .on then .retention else s.dom d) ∧
  (∀ l < 64, s.get F.RLY_STATE_state l = 3 → t.get F.RLY_STATE_state l = 4) ∧
  t.get F.PWR_EVENTS_blocks 0 = satInc (s.get F.PWR_EVENTS_blocks 0) 0xFF

/-- The module woke: clocks at factor 8, retained domains on, LPI links UP, memory as it was (R434). -/
def State.woke (s t : State) : Prop :=
  t.pwr = 0 ∧ t.get F.PWR_STATE_cause 0 = 0 ∧ t.get F.PWR_STATE_stretch 0 = 6 ∧ t.mem = s.mem ∧
  (∀ d, t.dom d = if s.dom d = .retention then .on else s.dom d) ∧
  (∀ l < 64, s.get F.RLY_STATE_state l = 4 → t.get F.RLY_STATE_state l = 3) ∧ s.reports t R.PWR_STATUS 0 5

/-- The Judge reported code c; besides its own state, memory and the registers of l, nothing but the report differs. -/
def State.jdgSays (s t : State) (c : Nat) (l : List Nat) : Prop :=
  s.reports t R.JDG_STATUS 0 c ∧ s.onlyEvent { t with jdg := s.jdg, mem := s.mem } (R.JDG_STATUS.addr 0 :: l)

/-- The Judge reported code c and did nothing else. -/
def State.jdgRefuses (s t : State) (c : Nat) : Prop := s.jdgSays t c [] ∧ t.jdg = s.jdg ∧ t.mem = s.mem

/-- The Judge's response begins with bs; no other byte of memory changed (R482). -/
def State.jdgReplied (s t : State) (bs : List Byte) : Prop :=
  t.ldBytes (s.jdgAt + 2048) bs.length = bs ∧ s.memBut t (s.jdgAt + 2048) bs.length

/-- Mailbox command c, number n of R484, starts to run, and t is what it leaves with the Judge's next tick (R481, R483; log 43);
`fails`: what a self-test finds. -/
def State.jdgRan (s : State) (c : Instr) (n : Nat) (fails : List (Fin 2 × Bool)) (t : State) : Prop :=
  let u := { s with jdg := { s.jdg with run := some (n, fails) } }
  exec c s = .next u ∧ u.jdgDone = t

/-- The mailbox commands of the Judge (R484). -/
def jdgCmds : List Instr :=
  [.jdgVerifyFw, .raiseFloor, .installKey, .revokeKey, .attest, .dbgChallenge, .dbgToken, .dbgRevoke, .zeroize, .enroll,
   .installCert, .readCert, .setMode]

/-- The order at `head` completed with a status, a count and a value: `head` counts it, its record is in the completion ring
unless it is quiet and OK, and no other byte of memory changed (R555, R557, R559). -/
def State.completed (s t : State) (status done value : Nat) : Prop :=
  let j := s.get F.HUB_CMP_HEAD_cmp_head 0
  let a := (s.cmpBase + j % s.cmpN * 32) % 2 ^ 41
  let quiet := bit (s.ordF 2 1) 1 && status == 0
  t.get F.HUB_ORD_HEAD_head 0 = (s.get F.HUB_ORD_HEAD_head 0 + 1) % 2 ^ 32 ∧ t.host.pollAt = none ∧ t.host.pairsDone = 0 ∧
  (quiet = true → t.mem = s.mem ∧ t.get F.HUB_CMP_HEAD_cmp_head 0 = j) ∧
  (quiet = false → t.get F.HUB_CMP_HEAD_cmp_head 0 = (j + 1) % 2 ^ 32 ∧
    t.ldBytes a 32 = cmpRec (s.ordF 4 4) status done (s.ordF 8 8) s.ns value ∧ s.memBut t a 32 ∧
    (bit (s.ordF 2 1) 0 = true → s.get F.HUB_INT_SRC_prio 2336 ≠ 0 → t.srcPend 2336 = true))

/-- Does a place lie in the image store (R445). -/
def State.inStore (s : State) (a : Nat) : Prop :=
  let base := s.get F.IMG_STORE_HI_base_hi 0 * 2 ^ 32 + s.get F.IMG_STORE_LO_base 0 * 2 ^ 20
  base ≤ a ∧ a < base + s.get F.IMG_STORE_HI_size_gib 0 * 2 ^ 30

/-- A bring-up in which nothing physical failed and nothing was retried. -/
def bringUpClean (o : BringUp) : Prop :=
  o.stewardFails = [] ∧ o.stackFails = [] ∧ o.dieFails = [] ∧ o.clusterFails = [] ∧ o.copyFails = [] ∧ o.ringFails = false ∧
  o.testFails = [] ∧ o.retried = [] ∧ o.flash = [] ∧ o.keyFails = [] ∧ o.pufFails = 0 ∧ o.healthFails = 0 ∧ o.pairFails = 0 ∧
  o.coreFails = []

end Sys2Proof.Machine
end

