-- ==== Sys2Proof/Certificates/Slice0/Obligations.lean ====
section
/-!
DEFINITION. The statements for the provers. A statement about a command gives, for every state and operands that meet its
hypotheses, the next state's parts that the command sets and what it leaves alone.
-/

open Sys2Proof Sys2Proof.Machine

/-- Tier 1. The step at a state with command c at the front of the queue is exec of c on the state with the rest of it. Every
command ends in a next state from every state: the spec stops the module on none. -/
def Obligations.StepRunsFrontCommand : Prop :=
  (∀ (c : Instr) (rest : List Instr) (s : State), step { s with pending := c :: rest } = exec c { s with pending := rest }) ∧
  (∀ s : State, ∃ t, step s = .next t)

/-- Tier 1. The memories of the reset state have their canonical form: nothing is listed. Reset values the register tables give
(R52, R525, R568): a few of each kind. -/
def Obligations.ResetState : Prop :=
  (State.reset.memOk ∧ State.reset.mem = [] ∧ State.reset.flash = []) ∧
  (State.reset.get F.HUB_ID_PART_part 0 = 0xA980 ∧ State.reset.get F.HUB_ID_STEP_stepping 0 = 0xA1 ∧
  State.reset.get F.HUB_HOST_READY_stage 0 = 0 ∧ State.reset.get F.HUB_HOST_READY_endpoint 0 = 1 ∧
  State.reset.get F.HUB_ORD_CFG_batch 0 = 0x40 ∧ State.reset.get F.HUB_CMP_BASE_HI_size_log2 0 = 0xC ∧
  State.reset.get F.GRP_LAP_TAIL_tail_us 0 = 0x2710 ∧ (State.reset.rd R.GRP_LAP_LOSS_SCALE 0) = 0x3F800000 ∧
  State.reset.get F.PWR_CAP_cap_w 0 = 0x1F4 ∧ State.reset.get F.SNP_CFG_rate_gbs 0 = 0x190 ∧
  (∀ l : Link, State.reset.get F.RLY_STATE_state l = 0 ∧ State.reset.get F.RLY_CTRL_enable l = 0) ∧
  (∀ c : CoreId, State.reset.get F.CORE_COLMAP_retired_col (coreU c) = 0x20 ∧
    State.reset.get F.CORE_COLMAP_spare_avail (coreU c) = 1))

/-- Tier 3. From every state whose memories are canonical, a step gives one whose memories are. -/
def Obligations.StepKeepsMemoryCanonical : Prop :=
  ∀ s t : State, s.memOk → step s = .next t → t.memOk

/-- Tier 3. No command puts a command into the queue: a step takes the front command and leaves the rest as it was. -/
def Obligations.StepTakesOneCommand : Prop :=
  ∀ s t : State, step s = .next t → t.pending = s.pending.tail

/-- Tier 2. The address map (R520 to R523): every register of every unit is the one found at its own plain address, and the
address in each of the four aliases names the same plain address (R6). -/
def Obligations.AddressMapRoundTrip : Prop :=
  ∀ (b : Blk) (u : Nat) (r : RegDef), r ∈ blkRegs b → u < blkUnits b →
    regAt (r.addr u) = some (r, u) ∧
    ∀ k : Fin 4, plainOf (r.addr u + 0x1000 * k) = r.addr u ∧
      aliasOf (r.addr u + 0x1000 * k) = [Alias.plain, .set, .clear, .toggle][k]

/-- Tier 2 (R5 to R8; R4, R524; R5, R529; R526, R527). REGISTER_WRITE of all four bytes to a register of RW fields, through any
alias, where its block answers: each RW field takes the value its alias makes of it unless that is a reserved encoding, each
other field keeps its value, and no other register and nothing else changes. A write with a byte disabled, or to a block
that does not answer, changes nothing; so with the commands that are a write of one register. SEQUENCE_CLEAR through the
plain alias: when bits 31 to 24 equal `seq`, `code` reads 0, else it is kept; `seq` and every RO field are kept in both
cases, and nothing else changes. UPD_STROBE with a staged write of the step list's low word (group 4): with bit 4 in the
mask the buffered field takes effect and the buffer is empty; without it the field and the buffer stay. Masks with bit 2 or
3 make the governor and the generators act as well and are left out. Each of these commands is shown to answer a next state
with its own effect, under conditions on the state and the operands alone: REGISTER_WRITE, SEQUENCE_CLEAR, UPD_STROBE,
RECAL_NOW, SWAP_NOW, LINK_RETIRE, GRP_ADVANCE, SNP_NOW, SNP_RESTORE, FAULT_QUARANTINE, FAULT_REQUALIFY, FAULT_TEST,
PCR_RESYNC, SPLIT_TIMER_ARM, IMG_LOAD, IMG_APPLY, IMG_DISCARD, TRACE_TRIGGER, TRACE_ENABLE, PERF_CLEAR, FREEZE,
FREEZE_RELEASE, ABORT_SCAN. -/
def Obligations.RegistersByField : Prop :=
  (∀ (s : State) (a : BarAddr) (v : Word) (r : RegDef) (u : Nat), r ∈ rwRegs → u < blkUnits r.blk →
    plainOf a.toNat = r.addr u → s.served r.blk u r.off = true →
    ∃ t, exec (.registerWrite a 0xF v) s = .next t ∧ s.onlyRegs t [r.addr u] ∧
      ∀ f ∈ r.fields,
        let old := bits (s.rd r u).toNat f.hi f.lo
        let new := bits ((aliasOf a.toNat).val (s.rd r u).toNat v.toNat) f.hi f.lo
        bits (t.rd r u).toNat f.hi f.lo = if f.acc = .rw ∧ f.takes new = true then new else old) ∧
  ((∀ (s : State) (a : BarAddr) (be : BitVec 4) (v : Word), inWindow a.toNat = false →
    (be ≠ 0xF ∨ ∃ r u, regAt (plainOf a.toNat) = some (r, u) ∧ msixAt (plainOf a.toNat) = none ∧ s.served r.blk u r.off = false) →
    exec (.registerWrite a be v) s = .next s) ∧
  (∀ (s : State) (q : Fin 4) (n : Fin 32) (l : Link) (h : Stack) (v : Word) (k : BitVec 4) (w : BitVec 24) (x : UnitFound) (temp : Int) (f : Nat),
    (∀ c ∈ [Instr.snpNow, .snpRestore], s.served .snap 0 0 = false → exec c s = .next s) ∧
    (∀ c ∈ [Instr.imgLoad, .imgApply, .imgDiscard], s.served .images 0 0 = false → exec c s = .next s) ∧
    (∀ c ∈ [Instr.traceTrigger, .freeze, .freezeRelease, .abortScan, .perfClear], s.served .trace 0 0 = false → exec c s = .next s) ∧
    (∀ c ∈ [Instr.faultQuarantine k w, .faultRequalify k w x, .faultTest k w x], s.served .fault 0 0 = false → exec c s = .next s) ∧
    (∀ c ∈ [Instr.linkRetire l, .swapNow l], s.served .link l 0 = false → exec c s = .next s) ∧
    (s.served .traceQ q 0 = false → exec (.traceEnable q) s = .next s) ∧
    (s.served .groups 0 0 = false → exec .grpAdvance s = .next s) ∧
    (s.served .hbm h 0 = false → exec (.recalNow h temp f) s = .next s) ∧
    (s.stage = 0 → exec .pcrResync s = .next s ∧ exec (.splitTimerArm n v) s = .next s))) ∧
  (∀ (s : State) (a : BarAddr) (v : Word) (r : RegDef) (u : Nat), r ∈ sqRegs → u < blkUnits r.blk → a.toNat = r.addr u →
    s.served r.blk u r.off = true →
    ∃ t, exec (.sequenceClear a v) s = .next t ∧ s.onlyRegs t [r.addr u] ∧
      bits (t.rd r u).toNat 7 0 =
        (if bits v.toNat 31 24 = bits (s.rd r u).toNat 31 24 then 0 else bits (s.rd r u).toNat 7 0) ∧
      bits (t.rd r u).toNat 31 8 = bits (s.rd r u).toNat 31 8) ∧
  (∀ (s : State) (m w : Word) (r : RegDef), r ∈ [R.GRP_RED_STEP_LO, R.GRP_LAP_SEED_LO, R.GRP_LAP_CLIP, R.GRP_LAP_FEED_LO] →
    s.staged = [(r.addr 0, w)] → bit m.toNat 2 = false → bit m.toNat 3 = false → s.served .update 0 0 = true →
    ∃ t, exec (.updStrobe m) s = .next t ∧ s.regsBut t [r.addr 0] ∧ t.mem = s.mem ∧
      (bit m.toNat 4 = true → t.rd r 0 = BitVec.ofNat 32 (r.mergeIf (· == .st 4) (s.rd r 0).toNat w.toNat) ∧ t.staged = []) ∧
      (bit m.toNat 4 = false → t.rd r 0 = s.rd r 0 ∧ t.staged = s.staged))

/-- Tier 2 (R237, R438, R487; R52). Reads that latch: GEN_CTR_READ returns the low word of the selected lane's counter and
latches its high word and the lane's occupancy; PCR_TIME_READ returns the low word of site time and latches the high word
and the fraction; PERF_COUNTER_READ returns a counter's low word and latches its high word, and changes no other counter;
one whose ac the spec leaves to timing has first grown by a free number (log 88). RETIRED_COL_NEXT_WRITE: 33 to 63 keeps the
field; a value equal to `retired_col`, or any with `spare_avail` 1, is taken; another one keeps the field and
CORE_ARRAY_STATUS reports CORE_COLMAP_REFUSED. Each of these commands is shown to answer a next state with its own effect,
under conditions on the state and the operands alone: GEN_CTR_READ, PCR_TIME_READ, PERF_COUNTER_READ,
RETIRED_COL_NEXT_WRITE. -/
def Obligations.ReadsThatLatch : Prop :=
  ((∀ (s : State) (c : Clu), s.served .clu (cluU c) 0x26C = true →
    let g := (s.clu c).lane (s.get F.CLU_VEC_GEN_SEL_lane (cluU c))
    ∃ t, exec (.genCtrRead c) s = .next t ∧ t = { s with latch := t.latch, out := s.out ++ [.word (BitVec.ofNat 32 g.n)] } ∧
      slGet 0 t.latch (R.CLU_VEC_GEN_CTR_HI.addr (cluU c)) = BitVec.ofNat 32 (g.n / 2 ^ 32) ∧
      bits (slGet 0 t.latch (R.CLU_VEC_GEN_STATE.addr (cluU c))).toNat 2 0 = g.q.length % 8) ∧
  (∀ s : State, s.stage ≠ 0 →
    ∃ t, exec .pcrTimeRead s = .next t ∧ t.out = s.out ++ [.word (BitVec.ofNat 32 s.ns)] ∧
      t = { s with regs := t.regs, out := t.out } ∧ s.regsBut t [R.PCR_TIME_HI.addr 0, R.PCR_TIME_FRAC.addr 0] ∧
      t.rd R.PCR_TIME_HI 0 = BitVec.ofNat 32 (s.ns / 2 ^ 32) ∧ t.get F.PCR_TIME_FRAC_frac 0 = s.pacer.time % 256) ∧
  (∀ (s : State) (a : BarAddr) (c : Clu) (i : Fin 8), plainOf a.toNat = cluBase (cluU c) + 0x340 + 8 * i →
    s.served .clu (cluU c) (0x340 + 8 * i) = true →
    let p := plainOf a.toNat
    ∃ t, exec (.perfCounterRead a) s = .next t ∧
      t = { s with regs := t.regs, perf := t.perf, latch := t.latch, freeCtr := t.freeCtr, out := s.out ++ [.word (slGet 0 t.regs p)] } ∧
      slGet 0 t.latch (p + 4) = slGet 0 t.regs (p + 4) ∧ s.regsBut t [p, p + 4] ∧
      (perfOpen p = false → t.regs = s.regs ∧ t.perf = s.perf ∧ t.freeCtr = s.freeCtr) ∧
      (perfOpen p = true → t.freeCtr = s.freeCtr + 1))) ∧
  (∀ (s : State) (c : CoreId) (v : BitVec 6), s.served .core (coreU c) 8 = true →
    let u := coreU c
    ∃ t, exec (.retiredColNextWrite c v) s = .next t ∧
      (33 ≤ v.toNat → t = s) ∧
      (v.toNat < 33 → v.toNat = s.get F.CORE_COLMAP_retired_col u ∨ s.get F.CORE_COLMAP_spare_avail u = 1 →
        t.get F.CORE_COLMAP_retired_col_next u = v.toNat ∧ t.get F.CORE_COLMAP_retired_col u = s.get F.CORE_COLMAP_retired_col u ∧
        s.onlyRegs t [R.CORE_COLMAP.addr u]) ∧
      (v.toNat < 33 → v.toNat ≠ s.get F.CORE_COLMAP_retired_col u → s.get F.CORE_COLMAP_spare_avail u = 0 →
        t.rd R.CORE_COLMAP u = s.rd R.CORE_COLMAP u ∧ s.reports t R.CORE_ARRAY_STATUS u 5 ∧
        s.onlyEvent t [R.CORE_ARRAY_STATUS.addr u]))

/-- Tier 2 (R536, R537; R535, R537; R561). HUB_INT_CLAIM: with no source eligible for the target the read returns 0 and changes
nothing; else it returns `valid` and an eligible source of the highest `prio`, the lowest number among equals, clears that
source's pending bit and pushes it with its `prio`, and no other pending bit changes. HUB_INT_COMPLETE pops the stack when
the source is on top, and otherwise reports HUB_INT_COMPLETE_MISMATCH and pops nothing; DOORBELL sets the pending bit
whatever the priority. MSIX_UNMASK clears the vector's mask bit. A held message is sent, and its PBA bit cleared, when MSI-X
is enabled, the function is not masked and a source of that vector is still eligible for the host; with none eligible the
bit is cleared and nothing is sent; with no message held nothing else changes. Of the function as a whole: its mask clears
with MSI-X enabled, and every held message of a vector that is not masked itself is sent or dropped in the same way. Each of
these commands is shown to answer a next state with its own effect, under conditions on the state and the operands alone:
HUB_INT_CLAIM, HUB_INT_COMPLETE, DOORBELL, MSIX_UNMASK. -/
def Obligations.StarterServes : Prop :=
  (∀ (s : State) (k : Fin 9), s.served .intTgt k 4 = true →
    let t := k.val
    ((∀ n < 4096, s.eligible t n = false) → exec (.hubIntClaim k) s = .next { s with out := s.out ++ [.word 0] }) ∧
    ((∃ n < 4096, s.eligible t n = true) → ∃ n < 4096, ∃ v, exec (.hubIntClaim k) s = .next v ∧ s.eligible t n = true ∧
      (∀ m < 4096, s.eligible t m = true →
        s.get F.HUB_INT_SRC_prio m < s.get F.HUB_INT_SRC_prio n ∨
          (s.get F.HUB_INT_SRC_prio m = s.get F.HUB_INT_SRC_prio n ∧ n ≤ m)) ∧
      v.out = s.out ++ [.word (BitVec.ofNat 32 (2 ^ 31 + n))] ∧ v.srcPend n = false ∧
      (∀ m < 4096, m ≠ n → v.srcPend m = s.srcPend m) ∧
      v.stack t = (n, s.get F.HUB_INT_SRC_prio n) :: s.stack t ∧ v.runPrio t = s.get F.HUB_INT_SRC_prio n ∧
      s.regsBut v [R.HUB_INT_PEND.addr (n / 32)] ∧ v.mem = s.mem)) ∧
  ((∀ (s : State) (k : Fin 9) (n : BitVec 12) (p : Nat) (l : List (Nat × Nat)), s.served .intTgt k 8 = true →
    s.stack k = (n.toNat, p) :: l →
    ∃ t, exec (.hubIntComplete k n) s = .next t ∧ t.stack k = l ∧ t.regs = s.regs ∧
      ∀ j, j ≠ k.val → t.stack j = s.stack j) ∧
  (∀ (s : State) (k : Fin 9) (n : BitVec 12), s.served .intTgt k 8 = true →
    ((s.stack k).head?.map Prod.fst ≠ some n.toNat) →
    ∃ t, exec (.hubIntComplete k n) s = .next t ∧ t.starter = s.starter ∧ s.reports t R.HUB_INT_STATUS 0 1 ∧
      s.onlyEvent t [R.HUB_INT_STATUS.addr 0]) ∧
  (∀ (s : State) (n : Fin 256), s.served .intPend (n / 32) 0 = true →
    ∃ t, exec (.doorbell n) s = .next t ∧ t.srcPend n = true ∧ (∀ m < 4096, m ≠ n.val → t.srcPend m = s.srcPend m) ∧
      s.onlyEvent t [])) ∧
  ((∀ (s : State) (v : Fin 64), s.served .hub0 0 0x800 = true →
    let e := (s.eligibleList 8).any (fun n => s.get F.HUB_INT_SRC_vector n == v.val)
    ∃ t, exec (.msixUnmask (some v)) s = .next t ∧ t.msixWord v 3 = 0 ∧ t.regs = s.regs ∧ t.mem = s.mem ∧
      (bit s.host.pba v = false ∨ s.host.msixEn = false ∨ s.host.funcMask = true ∨ s.host.faulty = true → t.out = s.out ∧ t.host.pba = s.host.pba) ∧
      (bit s.host.pba v = true → s.host.msixEn = true → s.host.funcMask = false → s.host.faulty = false →
        t.host.pba = s.host.pba - 2 ^ v.val ∧
        t.out = if e = true ∧ s.host.scanMode = 0 then s.out ++ [.msix v ((s.msixWord v 0).toNat + 2 ^ 32 * (s.msixWord v 1).toNat)
          (s.msixWord v 2)] else s.out)) ∧
  (∀ s : State, s.pcieOn = true →
    ∃ t, exec (.msixUnmask none) s = .next t ∧ t.host.msixEn = true ∧ t.host.funcMask = false ∧ t.host.msix = s.host.msix ∧
      t.regs = s.regs ∧ t.mem = s.mem ∧
      (∀ v < 64, bit t.host.pba v = (bit s.host.pba v && (s.msixWord v 3).toNat % 2 == 1)) ∧
      (∀ v < 64, bit s.host.pba v = true → (s.msixWord v 3).toNat % 2 = 0 → s.host.scanMode = 0 →
        (s.eligibleList 8).any (fun n => s.get F.HUB_INT_SRC_vector n == v) = true →
        Emit.msix v ((s.msixWord v 0).toNat + 2 ^ 32 * (s.msixWord v 1).toNat) (s.msixWord v 2) ∈ t.out)))

/-- Tier 2 (R554, R558, R568; R554). HUB_ORD_TAIL takes a value within N of `head` and of `tail` while the ring is enabled and
otherwise reports HUB_ORD_TAIL_INVALID and keeps `tail`; enabling a ring sets its two counts to 0. ORDERS_WINDOW_ACCESS maps
the ring byte for byte while it is enabled: a write of bytes outside the image store makes them read so and leaves every
other byte of memory; a read returns the ring's bytes (the model's choice, log 126: all ones where a channel that serves
them is out of service); while `en` is 0 a read returns all ones and a write is dropped. Each of these commands is shown to
answer a next state with its own effect, under conditions on the state and the operands alone: REGISTER_WRITE,
ORDERS_WINDOW_ACCESS, HUB_ORD_TAIL, ORDERS_RING_ENABLE, COMPLETION_RING_ENABLE. -/
def Obligations.RingsAndWindow : Prop :=
  ((∀ (s : State) (v : Word), s.served .hub0 0 0x48 = true →
    let near (x : Nat) : Prop := (v.toNat + 2 ^ 32 - x) % 2 ^ 32 ≤ 262144
    let ok := s.get F.HUB_ORD_BASE_HI_en 0 = 1 ∧ near (s.get F.HUB_ORD_HEAD_head 0) ∧ near (s.get F.HUB_ORD_TAIL_tail 0)
    ∃ t, exec (.hubOrdTail v) s = .next t ∧
      (ok → t.get F.HUB_ORD_TAIL_tail 0 = v.toNat ∧ s.onlyRegs t [R.HUB_ORD_TAIL.addr 0]) ∧
      (¬ok → t.rd R.HUB_ORD_TAIL 0 = s.rd R.HUB_ORD_TAIL 0 ∧ s.reports t R.HUB_ORD_STATUS 0 1 ∧
        s.onlyEvent t [R.HUB_ORD_STATUS.addr 0])) ∧
  (∀ (s : State) (v : Word), s.served .hub0 0 0x44 = true → s.get F.HUB_ORD_BASE_HI_en 0 = 0 → bit v.toNat 31 = true →
    ∃ t, exec (.ordersRingEnable v) s = .next t ∧ t.get F.HUB_ORD_BASE_HI_en 0 = 1 ∧ t.get F.HUB_ORD_HEAD_head 0 = 0 ∧
      t.get F.HUB_ORD_TAIL_tail 0 = 0 ∧
      s.regsBut t [R.HUB_ORD_BASE_HI.addr 0, R.HUB_ORD_HEAD.addr 0, R.HUB_ORD_TAIL.addr 0] ∧ t.mem = s.mem) ∧
  (∀ (s : State) (v : Word), s.served .hub0 0 0x5C = true → s.get F.HUB_CMP_BASE_HI_en 0 = 0 → bit v.toNat 31 = true →
    ∃ t, exec (.completionRingEnable v) s = .next t ∧ t.get F.HUB_CMP_BASE_HI_en 0 = 1 ∧
      t.get F.HUB_CMP_HEAD_cmp_head 0 = 0 ∧ t.get F.HUB_CMP_TAIL_cmp_tail 0 = 0 ∧
      s.onlyRegs t [R.HUB_CMP_BASE_HI.addr 0, R.HUB_CMP_HEAD.addr 0, R.HUB_CMP_TAIL.addr 0])) ∧
  ((∀ (s : State) (a : BarAddr) (be : BitVec 4) (v : Word), inWindow a.toNat = true → a.toNat % 4 = 0 →
    exec (.registerWrite a be v) s = exec (.ordersWindowAccess (a.toNat - 0x1800_0000)
      (some ((List.range 4).map fun k => if be.getLsbD k = true then some (BitVec.ofNat 8 (v.toNat / 256 ^ k)) else none)) 4) s) ∧
  (∀ (s : State) (o : Nat) (bs : List Byte) (len : Nat), s.memOk → s.winOn = true → s.hbmQuiet → o + bs.length ≤ 2 ^ 26 →
    s.ordBase + o + bs.length ≤ 2 ^ 41 → s.get F.IMG_STORE_HI_size_gib 0 = 0 →
    ∃ t, exec (.ordersWindowAccess o (some (bs.map some)) len) s = .next t ∧ t = { s with mem := t.mem } ∧
      t.ldBytes (s.ordBase + o) bs.length = bs ∧ s.memBut t (s.ordBase + o) bs.length) ∧
  (∀ (s : State) (o len : Nat), s.winOn = true → o + len ≤ 2 ^ 26 → o < 2 ^ 26 → s.host.scanMode = 0 →
    let a := (s.ordBase + o) % 2 ^ 41
    (s.hbmQuiet → exec (.ordersWindowAccess o none len) s = .next { s with out := s.out ++ [.data (s.ldBytes a len)] }) ∧
    (s.hbmBad a (a + len) = true →
      exec (.ordersWindowAccess o none len) s = .next { s with out := s.out ++ [.data (List.replicate len 255)] })) ∧
  (∀ (s : State) (o len : Nat) (bs : List (Option Byte)), s.get F.HUB_ORD_BASE_HI_en 0 = 0 → o + len ≤ 2 ^ 26 → o < 2 ^ 26 →
    s.host.scanMode = 0 →
    exec (.ordersWindowAccess o (some bs) len) s = .next s ∧
    exec (.ordersWindowAccess o none len) s = .next { s with out := s.out ++ [.data (List.replicate len 255)] }))

/-- Tier 2 (R57, R58, R60, R145, R257, R261). PASS on a working core, no SRAM word being upset: with every check passed and
nothing held, the pass is added to the core's passes with its descriptor, mask and loaded columns and no wavefront fed, and
no other core and no cluster changes; while it meets a held record or region of a strict tensor, or a working copy that
refresh has not written, it waits; with a reserved descriptor the core reports CORE_PASS_RESERVED and the cluster stops with
reason 2, holding the item. Each of these commands is shown to answer a next state with its own effect, under conditions on
the state and the operands alone: PASS. -/
def Obligations.PassStartsOrStops : Prop :=
  ∀ (s : State) (c : CoreId) (off : PoolOff), s.cluGo c.clu = true → s.coreQuar c = false → (s.clu c.clu).stopNext = false →
    let d := s.ld (poolAt c.clu off.toNat) 32
    ∃ t, exec (.pass c off) s = .next t ∧
      (s.passCheck c d = none → s.copyWait c d = none → s.heldWait c d = false → s.operandHeld c d = false → s.sramQuiet →
        (∃ r, (t.core c).runs = (s.core c).runs ++ [r] ∧ r.desc = d ∧ r.mask = s.passMask c d ∧ r.next = 0 ∧ r.failed = [] ∧
          r.cols = (s.loadStat c d).1) ∧
        (∀ k, k ≠ c → t.core k = s.core k) ∧ t.clus = s.clus ∧ t.flash = s.flash) ∧
      (s.passCheck c d = none → ((s.copyWait c d).isSome || s.heldWait c d || s.operandHeld c d) = true →
        t.cores = s.cores ∧ t.mem = s.mem ∧ (slFind t.waits (cluWaiter c.clu 0)).isSome = true) ∧
      (s.passBad c d = true →
        s.reports t R.CORE_ARRAY_STATUS (coreU c) 9 ∧ t.get F.CLU_SEQ_STATUS_stop (cluU c.clu) = 2 ∧
        (t.clu c.clu).heldItem = some (.pass c off) ∧ t.cores = s.cores ∧ t.mem = s.mem)

/-- Tier 2 (R32, R33, R35, R36, R37, R39; R87; R87, R88, R355; R82, R259). The cells are exact: an operand is the sum of its
digits; for operands of k and s digits in at most 32 rows the combiner's result, formed of 14-bit column sums over k columns
and s strides, is the sum of the products; linked cells form the sum and the difference of two operands of n digits.
WAVEFRONT_COMMIT, no SRAM word being upset, feeds the next unmasked wavefront of the quadrant's oldest pass; one that no
fault upsets passes the residue check and is not gathered for a retry, whatever the operands of the mode's widths are; no
other core and no cluster changes. RESIDUE_RETRY of passes whose gathered wavefronts mismatch no more: none of the quadrant
is left to retry, with none left in the core its feed goes on, the core reports CORE_RESIDUE_TRANSIENT and counts it once,
and the fault engine reports the transient fault. PASS_COMPLETE removes the oldest pass of the quadrant, and when its
descriptor has `last` set hands its records to output conversion; the cluster's last work ends now. Each of these commands
is shown to answer a next state with its own effect, under conditions on the state and the operands alone: WAVEFRONT_COMMIT,
RESIDUE_RETRY, PASS_COMPLETE. -/
def Obligations.PassesComplete : Prop :=
  ((∀ (n : Nat) (v : Int), 0 < n → -(2 ^ (4 * n - 1) : Int) ≤ v → v < (2 ^ (4 * n - 1) : Int) → digitsVal (digits n v) = v) ∧
  (∀ (k s : Nat) (w x : Block), 0 < k → 0 < s → blockFits k w → blockFits s x → combined k s w.q x.q = dot w.q x.q) ∧
  (∀ (n : Nat) (x w : Int), 0 < n → -(2 ^ (4 * n - 1) : Int) ≤ x → x < (2 ^ (4 * n - 1) : Int) →
    -(2 ^ (4 * n - 1) : Int) ≤ w → w < (2 ^ (4 * n - 1) : Int) → linkAdd n x w = x + w ∧ linkSub n x w = x - w)) ∧
  (∀ (s : State) (c : CoreId) (q : Fin 4) (up : List (Nat × Int)) (i n : Nat) (r : PassRun), s.cluGo c.clu = true →
    s.coreQuar c = false → s.nextWave c q = some (i, r, n) → s.sramQuiet →
    ∃ t, exec (.wavefrontCommit c q up) s = .next t ∧
      (∃ fl, (fl = r.failed ∨ fl = r.failed ++ [n]) ∧ (up = [] → s.runFits c r → fl = r.failed) ∧
        (t.core c).runs = (s.core c).runs.set i { r with next := n + 1, failed := fl, resume := false }) ∧
      (∀ k, k ≠ c → t.core k = s.core k) ∧ t.clus = s.clus ∧ t.flash = s.flash) ∧
  (∀ (s : State) (c : CoreId) (q : Fin 4) (cols : List (Fin 33 × Bool)), s.cluGo c.clu = true →
    s.coreQuar c = false → mode.op (s.coreMode c) = 0 → s.failedRun c q ≠ none → (∀ r ∈ s.failedRuns c q, s.runFits c r) →
    ∃ t, exec (.residueRetry c q [] cols) s = .next t ∧
      (t.core c).runs.map (fun r => { r with resume := false }) =
        (s.core c).runs.map (fun r => { r with failed := if s.runQuad c r = q.val then [] else r.failed, resume := false }) ∧
      ((∀ r ∈ (t.core c).runs, r.failed = []) → (t.core c).inFlight = []) ∧
      t.get F.CORE_ARRAY_STATUS_code (coreU c) = 6 ∧
      t.get F.CORE_RESIDUE_CNT_transient (coreU c) = satInc (s.get F.CORE_RESIDUE_CNT_transient (coreU c)) 0xFFFF ∧
      t.get F.HUB_FLT_STATUS_code 0 = 1 ∧ (∀ k, k ≠ c → t.core k = s.core k) ∧ t.clus = s.clus) ∧
  (∀ (s : State) (c : CoreId) (q : Fin 4) (i : Nat) (r : PassRun), s.cluGo c.clu = true → s.completeRun c q = some (i, r) →
    ∃ t, exec (.passComplete c q) s = .next t ∧ (t.core c).runs = (s.core c).runs.eraseIdx i ∧
      (t.core c).done = (s.core c).done ++ (if desc.last r.desc = true then
        [{ desc := r.desc, cols := r.cols.map (fun p => p.g), mask := r.mask, right := s.runsRight c r.desc,
           op := mode.op (s.coreMode c), sw := r.sw, sa := r.sa }] else []) ∧
      (t.clu c.clu).last = s.ns ∧ (∀ k, k ≠ c → t.core k = s.core k) ∧ (∀ k, k ≠ c.clu → t.clu k = s.clu k))

/-- Tier 2 (R95, R171; R117, R119, R137, R138, R140, R142, R144, R145, R169, R203). CLUSTER_EXC_MERGE and EXC_RECORD_MERGE: a
free record takes the earliest valid record of the level below, with its fields, and its sequence number counts up, at a
cluster, at a die and at the module, where with trigger 3 and its interrupt off nothing else happens; a record that is
already valid is kept. OUTPUT_CONVERSION, to a format that needs no scale or with its scale there, takes the finished passes
of the tensor that are not converted yet (in a reconversion those of its region) and leaves the others; of a strict tensor
those of the first conversion stay, marked with the region, and their records are held for the verdict; without its scale it
waits and converts nothing. SCAN_MAXIMUM_MERGE, and SCOUT_ESTIMATE_MERGE once every producing cluster has given its
estimate, make the merged value available, end the waits on it and change nothing else of the tensor; SATURATION_VERDICT
compares the saturations with the budget; STATISTICS_MERGE of a tensor with one record makes that record the module summary.
Each of these commands is shown to answer a next state with its own effect, under conditions on the state and the operands
alone: CLUSTER_EXC_MERGE, EXC_RECORD_MERGE, OUTPUT_CONVERSION, SCAN_MAXIMUM_MERGE, SCOUT_ESTIMATE_MERGE, SATURATION_VERDICT,
STATISTICS_MERGE. -/
def Obligations.ConversionAndMerges : Prop :=
  ((∀ (s : State) (c : Clu) (k : Nat), s.live = true → s.get F.CLU_EXC_STATUS_valid (cluU c) = 0 →
    earliest (fun k => s.get F.CORE_EXC_TIME_time (cluU c * 52 + k))
      ((List.range 52).filter (fun k => s.flag F.CORE_EXC_STATUS_valid (cluU c * 52 + k))) = some k →
    ∃ t, exec (.clusterExcMerge c) s = .next t ∧ t.get F.CLU_EXC_STATUS_valid (cluU c) = 1 ∧
      t.get F.CLU_EXC_STATUS_core (cluU c) = k ∧
      t.get F.CLU_EXC_STATUS_seq (cluU c) = (s.get F.CLU_EXC_STATUS_seq (cluU c) + 1) % 256 ∧
      t.get F.CLU_EXC_TENSOR_tensor (cluU c) = s.get F.CORE_EXC_TENSOR_tensor (cluU c * 52 + k) ∧
      t.get F.CLU_EXC_ROW_row (cluU c) = s.get F.CORE_EXC_ROW_row (cluU c * 52 + k) ∧
      t.get F.CLU_EXC_COL_col (cluU c) = s.get F.CORE_EXC_COL_col (cluU c * 52 + k) ∧
      t.get F.CLU_EXC_TIME_time (cluU c) = s.get F.CORE_EXC_TIME_time (cluU c * 52 + k) ∧ t = { s with regs := t.regs }) ∧
  (∀ (s : State) (d : Fin 17) (n : Nat), s.live = true → s.get F.STA_DIE_EXC_STATUS_valid d = 0 →
    earliest (fun n => s.get F.CLU_EXC_TIME_time (d * 105 + n))
      ((List.range 105).filter (fun n => s.flag F.CLU_EXC_STATUS_valid (d * 105 + n))) = some n →
    ∃ t, exec (.excRecordMerge (some d)) s = .next t ∧ t.get F.STA_DIE_EXC_STATUS_valid d = 1 ∧
      t.get F.STA_DIE_EXC_STATUS_cluster d = n ∧ t.get F.STA_DIE_EXC_STATUS_die d = d ∧
      t.get F.STA_DIE_EXC_TENSOR_tensor d = s.get F.CLU_EXC_TENSOR_tensor (d * 105 + n) ∧
      t.get F.STA_DIE_EXC_TIME_time d = s.get F.CLU_EXC_TIME_time (d * 105 + n) ∧ t.mem = s.mem) ∧
  (∀ (s : State) (d : Nat), s.live = true → s.get F.STA_MOD_EXC_STATUS_valid 0 = 0 →
    bit (s.get F.TRC_TRIG_CFG_en 0) 3 = false → s.get F.STA_MOD_EXC_STATUS_irq_en 0 = 0 →
    earliest (fun d => s.get F.STA_DIE_EXC_TIME_time d)
      ((List.range 17).filter (fun d => s.flag F.STA_DIE_EXC_STATUS_valid d)) = some d →
    ∃ t, exec (.excRecordMerge none) s = .next t ∧ t.get F.STA_MOD_EXC_STATUS_valid 0 = 1 ∧
      t.get F.STA_MOD_EXC_STATUS_die 0 = d ∧ t.get F.STA_MOD_EXC_STATUS_cluster 0 = s.get F.STA_DIE_EXC_STATUS_cluster d ∧
      t.get F.STA_MOD_EXC_STATUS_seq 0 = (s.get F.STA_MOD_EXC_STATUS_seq 0 + 1) % 256 ∧
      t.get F.STA_MOD_EXC_TENSOR_tensor 0 = s.get F.STA_DIE_EXC_TENSOR_tensor d ∧
      t.get F.STA_MOD_EXC_TIME_time 0 = s.get F.STA_DIE_EXC_TIME_time d ∧ t = { s with regs := t.regs }) ∧
  (∀ s : State, (∀ c, s.get F.CLU_EXC_STATUS_valid (cluU c) = 1 → exec (.clusterExcMerge c) s = .next s) ∧
    (∀ d : Fin 17, s.get F.STA_DIE_EXC_STATUS_valid d = 1 → exec (.excRecordMerge (some d)) s = .next s) ∧
    (s.get F.STA_MOD_EXC_STATUS_valid 0 = 1 → exec (.excRecordMerge none) s = .next s))) ∧
  ((∀ (s : State) (c : CoreId) (n : BitVec 16) (dst : BitVec 64) (f : Fmt), s.cluOn c.clu = true → s.outFmt c = some f →
    s.convRecs c n.toNat (convPlace f dst) ≠ [] →
    let due := Finished.due n.toNat (s.tensor n.toNat).reconv (convPlace f dst)
    (f.needsScale = false → ∃ t, exec (.outputConversion c n dst) s = .next t ∧
      (t.core c).done = (s.core c).done.filter (fun q => !due q) ∧ (t.core c).runs = (s.core c).runs ∧
      (t.tensor n.toNat).regions = (s.tensor n.toNat).regions ∧ (∀ k, k ≠ c → t.core k = s.core k) ∧ t.clus = s.clus) ∧
    (f.needsScale = true → s.scaleThere c n.toNat f → ∃ t, exec (.outputConversion c n dst) s = .next t ∧
      (t.core c).runs = (s.core c).runs ∧ t.flash = s.flash ∧
      (s.strictOn c.clu n.toNat = false →
        (t.core c).done = (s.core c).done.filter (fun q => !due q) ∧ ∀ k, k ≠ c → t.core k = s.core k) ∧
      (s.strictOn c.clu n.toNat = true → (s.tensor n.toNat).reconv = false →
        (t.core c).done = (s.core c).done.map (fun q => if due q = true then { q with dst := some (convPlace f dst), again := false } else q) ∧
        (∀ r ∈ s.convRecs c n.toNat (convPlace f dst), r.slot * 32 + r.entry ∈ (t.core c).held) ∧
        ∀ k, k ≠ c → t.core k = s.core k) ∧
      (s.strictOn c.clu n.toNat = true → (s.tensor n.toNat).reconv = true →
        ∀ q ∈ (t.core c).done, Finished.due n.toNat true (convPlace f dst) q = false)) ∧
    (f.needsScale = true → f ≠ .a8 → ¬s.scaleThere c n.toNat f → ∃ t, exec (.outputConversion c n dst) s = .next t ∧
      t.cores = s.cores ∧ t.mem = s.mem ∧ (slFind t.waits (scaleWait c n.toNat)).isSome = true)) ∧
  (∀ (s : State) (n : BitVec 16), s.live = true → let outs := s.finOuts n.toNat
    ∃ t, exec (.scanMaximumMerge n) s = .next t ∧
      t.tensor n.toNat = { s.tensor n.toNat with max := maxMag (outs.map (fun p => p.2)), maxReady := true, ranges := colRanges outs } ∧
      (∀ m, m ≠ n.toNat → t.tensor m = s.tensor m) ∧ s.scaleCame t n.toNat ∧ t.mem = s.mem ∧ t.cores = s.cores ∧ t.clus = s.clus) ∧
  (∀ (s : State) (n : BitVec 16), s.live = true →
    ((∀ c ∈ s.clusWithScale n.toNat, s.estPending c n.toNat = false) → (s.tensor n.toNat).untrusted = false →
      ∃ t, exec (.scoutEstimateMerge n) s = .next t ∧ t.tensor n.toNat = { s.tensor n.toNat with estReady := true } ∧
        (∀ m, m ≠ n.toNat → t.tensor m = s.tensor m) ∧ s.scaleCame t n.toNat ∧ t.mem = s.mem ∧ t.cores = s.cores ∧ t.clus = s.clus) ∧
    ((∃ c ∈ s.clusWithScale n.toNat, s.estPending c n.toNat = true) → exec (.scoutEstimateMerge n) s = .next s)) ∧
  (∀ (s : State) (n : BitVec 16) (c : Clu) (a : Nat), s.live = true → (s.tensor n.toNat).verdict = none →
    (s.clusWithScale n.toNat).head? = some c → s.sclFind c n.toNat = some a →
    ∃ t, exec (.saturationVerdict n) s = .next t ∧
      (t.tensor n.toNat).verdict
        = some (decide (budget (s.tensor n.toNat).written (scl.satShift (s.sclWord a)) < (s.tensor n.toNat).sats)) ∧
      ((t.tensor n.toNat).reconv = true ↔ (s.tensor n.toNat).reconv = true ∨
        (budget (s.tensor n.toNat).written (scl.satShift (s.sclWord a)) < (s.tensor n.toNat).sats ∧
          scl.strict (s.sclWord a) = true ∧ ((s.tensor n.toNat).pol = 0 ∨ (s.tensor n.toNat).pol = 2)))) ∧
  (∀ (s : State) (n : BitVec 16) (c : Clu) (a : Nat), s.live = true → c ∈ s.allClus → s.staFind c n.toNat = some a →
    (∀ k ∈ s.allClus, k ≠ c → s.staFind k n.toNat = none) →
    ∃ t, exec (.statisticsMerge n) s = .next t ∧ slGet [] t.sums n.toNat = s.ldBytes a 512 ∧ t.mem = s.mem))

/-- Tier 2 (R45, R46, R84, R98, R131). HURDLE on a cluster whose cores hold no pass: when the words delivered for the layer pass
the checks, every core that is active and not in quarantine adopts the three words; when a check fails, each such core
reports its code, keeps its words, and the cluster stops with reason 1, holding the item. Each of these commands is shown to
answer a next state with its own effect, under conditions on the state and the operands alone: HURDLE. -/
def Obligations.HurdleAdoptsWords : Prop :=
  ∀ (s : State) (c : Clu) (layer : BitVec 16), s.cluGo c = true → (s.clu c).kernel = none →
    s.hasLayer c layer.toNat = true → (∀ k ∈ s.goodCores c, (s.core k).runs = []) →
    let w := s.delivered c layer.toNat
    ∃ t, exec (.hurdle c layer) s = .next t ∧
      (s.wordCheck c w = none →
        (∀ k ∈ s.goodCores c, t.rd R.CORE_MODE (coreU k) = BitVec.ofNat 32 w.1 ∧
          t.rd R.CORE_ALIGN (coreU k) = BitVec.ofNat 32 w.2.1 ∧ t.rd R.CORE_OUTCONV (coreU k) = BitVec.ofNat 32 w.2.2) ∧
        (t.clu c).layer = layer.toNat ∧ (t.clu c).hurdles = (s.clu c).hurdles + 1 ∧ t.mem = s.mem) ∧
      (∀ code, s.wordCheck c w = some code →
        (∀ k ∈ s.goodCores c, t.get F.CORE_ARRAY_STATUS_code (coreU k) = code ∧
          t.rd R.CORE_MODE (coreU k) = s.rd R.CORE_MODE (coreU k)) ∧
        t.get F.CLU_SEQ_STATUS_stop (cluU c) = 1 ∧ (t.clu c).heldItem = some (.hurdle c layer) ∧ t.mem = s.mem)

/-- Tier 2 (R241, R245, R265). START_HURDLE, when its lap boundary has come, the lap before is over and no row repair, image,
snapshot or fill waits for it, and no test of this lap runs that could find a fault: the lap logic holds the values in
effect of its registers, the lap index and data position are the staged ones only when they were strobed, and step 1 begins
at the boundary's instant. Each of these commands is shown to answer a next state with its own effect, under conditions on
the state and the operands alone: START_HURDLE. -/
def Obligations.StartHurdleSamples : Prop :=
  ∀ (s : State) (b : Nat) (tests : List TestFail), s.startMay = true → s.pacer.lapDue = some b → s.flt.rowsDue = [] →
    s.img.waiting = none → s.snp.due = none → s.snp.late = [] →
    (tests = [] ∨ s.get F.HUB_FLT_TEST_test_laps 0 = 0) →
    ∃ t, exec (.startHurdle tests) s = .next t ∧ t.lap.step = 1 ∧ t.lap.b = b ∧
      t.lap.seed = s.get64 R.GRP_LAP_SEED_LO R.GRP_LAP_SEED_HI 0 ∧
      t.lap.lam = (if s.lap.lamSet = true then s.get64 R.GRP_LAP_INDEX_LO R.GRP_LAP_INDEX_HI 0 else s.lap.lam) ∧
      t.lap.pi = (if s.lap.piSet = true then s.get64 R.GRP_LAP_POS_LO R.GRP_LAP_POS_HI 0 else s.lap.pi) ∧
      t.lap.lossScale = (s.rd R.GRP_LAP_LOSS_SCALE 0).toNat ∧ t.lap.clip = (s.rd R.GRP_LAP_CLIP 0).toNat ∧
      t.lap.tail = (s.rd R.GRP_LAP_TAIL 0).toNat ∧ t.lap.limit = s.get F.GRP_LAP_GATE_LIMIT_limit_us 0 ∧
      t.lap.heatsTaken = 0 ∧ t.lap.reasons = 0 ∧ t.pacer.lapDue = none

/-- Tier 2 (R243, R244, R245, R246, R263; R242, R243, R244). HEAT_SLOT starts its heat at or after its instant, when the item
before it has ended and the heat is there: the slot, the count of its direction and `phase` are set, a heat that the feed or
a stage before rejected is empty, and no other cluster changes; a heat whose descriptor the feed has not taken is waited
for. FEED_DESCRIPTOR_TAKE does nothing in a stage that is neither the first nor the last; in those, HBM serving its reads, a
descriptor that is not the one sought is waited for and GRP_LAP_STATUS reports once in the lap that the feed is empty; one
that is sought is taken, and the heat's tokens and the places of its data are staged; a taken one with a reserved value is
rejected and reported. Each of these commands is shown to answer a next state with its own effect, under conditions on the
state and the operands alone: HEAT_SLOT, FEED_DESCRIPTOR_TAKE. -/
def Obligations.SlotsAndFeed : Prop :=
  ((∀ (s : State) (c : Clu) (phase : BitVec 4) (start len : BitVec 32) (k : Nat) (empty : Bool),
    phaseStep phase.toNat s.lap.step = some k → s.slotMay c start.toNat = true → s.heatEarly c phase.toNat = false →
    s.heatWaits c phase.toNat = false →
    ∃ t, exec (.heatSlot c ⟨phase, empty⟩ start len) s = .next t ∧ t.lap.step = k ∧
      (t.clu c).slot = some (s.lap.b + 1000 * start.toNat, s.lap.b + 1000 * start.toNat + 1000 * len.toNat) ∧
      (t.clu c).fwd = (s.clu c).fwd + (if phase = 1 then 1 else 0) ∧
      (t.clu c).bwd = (s.clu c).bwd + (if phase = 2 then 1 else 0) ∧
      (phase = 1 → (t.clu c).emptyHeat = (empty || s.lap.rejected.contains (s.clu c).fwd)) ∧
      t.get F.CLU_SEQ_STATUS_phase (cluU c) = phase.toNat ∧ (∀ d, d ≠ c → t.clu d = s.clu d) ∧ t.mem = s.mem) ∧
  (∀ (s : State) (c : Clu) (start len : BitVec 32) (k : Nat) (empty : Bool), phaseStep 1 s.lap.step = some k →
    s.slotMay c start.toNat = true → s.heatWaits c 1 = true →
    ∃ t, exec (.heatSlot c ⟨1, empty⟩ start len) s = .next t ∧ t = { s with waits := t.waits } ∧
      (slFind t.waits (cluWaiter c 0)).isSome = true)) ∧
  ((∀ s : State, s.feeds = false → exec .feedDescriptorTake s = .next s) ∧
  ∀ s : State, s.live = true → s.feeds = true → s.hbmQuiet → 1 ≤ s.lap.step → s.lap.step ≤ 3 →
    let n := s.lap.heatsTaken
    let a := s.heatAt n
    let sought := s.ldH (a + 12) 4 % 2 = 1 ∧ s.ldH a 8 = (s.lap.pi + n) % 2 ^ 64
    ∃ t, exec .feedDescriptorTake s = .next t ∧
      (¬sought → t.lap.heatsTaken = n ∧ t.lap.feedEmptySaid = true ∧ t.lap.rejected = s.lap.rejected ∧
        (s.lap.feedEmptySaid = false → s.reports t R.GRP_LAP_STATUS 0 5)) ∧
      (sought → t.lap.heatsTaken = n + 1 ∧
        t.lap.staged = s.lap.staged ++ [(n, s.ldH (a + 8) 4, s.ldH (a + 16) 8, s.ldH (a + 24) 8)] ∧
        (s.heatBad a = false → t.lap.rejected = s.lap.rejected) ∧
        (s.heatBad a = true → t.lap.rejected = s.lap.rejected ++ [n] ∧ t.get F.GRP_LAP_STATUS_code 0 = 3)) ∧
      t.clus = s.clus)

/-- Tier 2 (R247, R336, R337, R339). REDUCTION_HURDLE after the last backward heat starts the step list: with a first record
that cannot run the controller stops before it and reports, else that record is the first segment. SEGMENT_COMBINE waits for
an absent child, and with every input present combines the segment (in the first gate step the segments may then give way to
those of the second) and drops its inputs. REDUCTION_LATE reports once per step. Each of these commands is shown to answer a
next state with its own effect, under conditions on the state and the operands alone: REDUCTION_HURDLE, SEGMENT_COMBINE,
REDUCTION_LATE. -/
def Obligations.ReductionRuns : Prop :=
  (∀ s : State, s.live = true → s.lap.step = 3 → s.red.phase = 0 → s.backwardDone = true →
    ∃ t, exec .reductionHurdle s = .next t ∧ t.lap.step = 4 ∧ t.mem = s.mem ∧
      (∀ k, s.segRead 0 0 = some k →
        t.red.phase = 1 ∧ t.red.segs.head? = some k ∧ t.get F.GRP_RED_STATE_running 0 = 1) ∧
      (s.segRead 0 0 = none → t.red.phase = 1 ∧ t.red.segs = [] ∧ t.red.stop = some 0 ∧
        s.reports t R.GRP_STATUS 0 6 ∧ t.get F.GRP_RED_STATE_running 0 = 1)) ∧
  (∀ (s : State) (j : Fin 16) (i : Nat) (k : Seg), s.live = true → s.red.phase ≠ 0 → s.segWindow[j.val]? = some i →
    s.red.segs[i]? = some k → k.up = false →
    ∃ t, exec (.segmentCombine j) s = .next t ∧
      (∀ r l, s.segMissing k i = r :: l → slFind s.waits (redWaiter k.group i) = none →
        t.red = s.red ∧ (slFind t.waits (redWaiter k.group i)).isSome = true ∧ t.mem = s.mem) ∧
      (s.segMissing k i = [] → (s.red.phase = 2 ∨ (t.red.segs[i]?.map (fun q => q.up)) = some true) ∧
        ∀ p ∈ t.red.inp, ¬(p.group = k.group ∧ p.seg = i))) ∧
  (∀ (s : State) (j : Fin 16) (i n : Nat) (k : Seg), s.live = true → s.red.phase ≠ 0 → s.segWindow[j.val]? = some i →
    s.red.segs[i]? = some k → s.red.late = false → s.grpF k.group 44 4 ≠ 0 → n ∈ s.segMissing k i →
    ∃ t, exec (.reductionLate j n) s = .next t ∧ t.red = { s.red with late := true } ∧ s.reports t R.GRP_STATUS 0 4 ∧
      t.mem = s.mem)

/-- Tier 2 (R249, R251, R262). GATE_HURDLE: the cluster waits at the gate with `phase` 4; when it is the last and the first gate
step has its result, the member votes in the second. GATE_LIMIT: the member votes TIMEOUT and every cluster abandons the
lap. Each of these commands is shown to answer a next state with its own effect, under conditions on the state and the
operands alone: GATE_HURDLE, GATE_LIMIT. -/
def Obligations.GateVotes : Prop :=
  (∀ (s : State) (c : Clu), s.cluGo c = true → (s.clu c).late = false → 3 ≤ s.lap.step → s.lap.step ≤ 5 →
    ∃ t, exec (.gateHurdle c) s = .next t ∧ (t.clu c).atGate = true ∧ t.get F.CLU_SEQ_STATUS_phase (cluU c) = 4 ∧
      (∀ d, d ≠ c → t.clu d = s.clu d) ∧ t.mem = s.mem ∧
      (∀ g h, s.gates = some (g, h) → h ∉ s.mbr.noVote → (∀ d ∈ s.allClus, d ≠ c → (s.clu d).atGate = true) →
        s.lap.gate1 ≠ [] → s.lap.voted = false → s.red.phase = 0 →
        t.lap.voted = true ∧ t.lap.step = 5 ∧ t.red.phase = 3)) ∧
  (∀ s : State, s.live = true → 1 ≤ s.lap.step → s.lap.step ≤ 4 → s.lap.voted = false → s.lap.joined = false →
    s.lap.limit ≠ 0 → bit s.lap.reasons 5 = false → s.lap.b + 1000 * s.lap.limit ≤ s.ns →
    ∃ t, exec .gateLimit s = .next t ∧ bit t.lap.reasons 5 = true ∧ ∀ c ∈ s.allClus, (t.clu c).abandoned = true ∧
      (t.clu c).atGate = true)

/-- Tier 2 (R252, R253, R255). VERDICT: with no reason the outcome is commit and step 6 begins; with one that the policy does
not skip it is replay, of the same lap; with skip the lap index counts up by 1 and the data position by the lap's heats. The
outcome and the reasons are in GRP_LAP_VERDICT and split timer 0 is armed for the next boundary. Each of these commands is
shown to answer a next state with its own effect, under conditions on the state and the operands alone: VERDICT. -/
def Obligations.VerdictOutcomes : Prop :=
  ∀ s : State, s.live = true → s.lap.step = 5 → s.lap.gate2 ≠ [] →
    let w := s.lap.gate2
    let why := verdictReasons w
    let o := verdictOutcome why (at_ w 32 4) (s.get F.GRP_LAP_VERDICT_replays_done 0)
    ∃ t, exec .verdict s = .next t ∧ t.get F.GRP_LAP_VERDICT_outcome 0 = o ∧ t.get F.GRP_LAP_VERDICT_reasons 0 = why ∧
      t.lap.gate2 = [] ∧ (o = 0 ↔ why = 0) ∧
      (o = 0 → t.lap.step = 6 ∧ t.lap.lam = s.lap.lam ∧ t.lap.pi = s.lap.pi) ∧
      (o = 1 → t.lap.step = 0 ∧ t.lap.replay = true ∧ t.lap.lam = s.lap.lam ∧ t.lap.pi = s.lap.pi) ∧
      (o = 2 → t.lap.step = 0 ∧ t.lap.replay = true ∧ t.lap.lam = (s.lap.lam + 1) % 2 ^ 64 ∧
        t.lap.pi = (s.lap.pi + s.heats) % 2 ^ 64) ∧
      t.get F.PCR_SPT_CTRL_arm 0 = 1 ∧
      t.get64 R.PCR_SPT_CMP_LO R.PCR_SPT_CMP_HI 0 = upUs (at_ w 8 8 + 1000 * (at_ w 44 4 % 2 ^ 24)) % 2 ^ 64

/-- Tier 2 (R20, R229, R230, R256, R258; R257, R358, R359, R447, R453). OPTIMIZER: a descriptor with a reserved or non-finite
value stops the cluster with reason 7 and writes nothing but the gradient factor's word of the descriptor; with a valid one
whose copies go through, no memory being upset, the update runs to its end and HBM changes only where the plan lies in the
bank that is not committed; a momentum-form one of FP32 storage and one element writes the new master and moment there.
COMMIT, when the update kernels have finished, flips the committed bank, counts the lap index up by 1 and the data position
by the lap's heats, and step 7 begins; CLUSTER_MIRROR_COPY writes the cluster's areas to its mirror and is due no more;
END_OF_LAP ends the cluster's schedule, or refresh for a refilled unit alone, and with the last one the lap is over; one
that ran refresh when the next lap started meets its start hurdle now. Each of these commands is shown to answer a next
state with its own effect, under conditions on the state and the operands alone: OPTIMIZER, COMMIT, CLUSTER_MIRROR_COPY,
END_OF_LAP. -/
def Obligations.OptimizerAndCommit : Prop :=
  (∀ (s : State) (c : Clu) (desc : PoolOff) (k : OptPlan), s.memOk → s.cluGo c = true → (s.clu c).late = false → s.lap.step = 6 →
    s.snapHolds = false → desc.toNat + 64 ≤ 2 ^ 22 →
    let bank := s.get F.GRP_LAP_VERDICT_bank 0
    let d := (s.st (poolAt c (desc.toNat + 40)) 4 s.lap.gscale).ldBytes (poolAt c desc.toNat) 64
    ∃ t, exec (.optimizer c desc k) s = .next t ∧
      (optBad d = true → t.get F.CLU_SEQ_STATUS_stop (cluU c) = 7 ∧ (t.clu c).heldItem = some (.optimizer c desc k) ∧
        s.memBut t (poolAt c (desc.toNat + 40)) 4) ∧
      (optBad d = false → s.hbmQuiet → s.sramQuiet →
        (∀ out m, m ∈ planMoves k (optFmts (at_ d 1 1)) bank (at_ d 0 1 != 0) out → s.moveOk m) →
        t.lap = { s.lap with optDone := true } ∧ t.get F.CLU_SEQ_STATUS_phase (cluU c) = 5 ∧ (∀ e, e ≠ c → t.clu e = s.clu e) ∧
        (∀ x < 2 ^ 41, (∀ m ∈ planMoves k (optFmts (at_ d 1 1)) bank (at_ d 0 1 != 0) true, x < m.hbm ∨ m.hbm + m.len ≤ x) →
          Mem.get t.mem x = Mem.get s.mem x) ∧
        (at_ d 0 1 = 0 → at_ d 1 1 = 0 → k.count = 1 → bank = 0 →
          (k.p1.toNat + 4 ≤ k.m1.toNat ∨ k.m1.toNat + 4 ≤ k.p1.toNat) →
          [k.bufG.toNat, k.bufP.toNat, k.bufM.toNat].Pairwise (fun a b => a + 4 ≤ b ∨ b + 4 ≤ a) →
          let r := optElem d (s.ld k.grad.toNat 4) (s.ld k.p0.toNat 4) (s.ld k.m0.toNat 4) 0
          t.ld k.p1.toNat 4 = r.1.1 % 2 ^ 32 ∧ t.ld k.m1.toNat 4 = r.1.2.1 % 2 ^ 32))) ∧
  ((∀ s : State, s.live = true → s.lap.step = 6 → s.optOver = true →
    ∃ t, exec .commit s = .next t ∧ t.get F.GRP_LAP_VERDICT_bank 0 = 1 - s.get F.GRP_LAP_VERDICT_bank 0 ∧
      t.lap.lam = (s.lap.lam + 1) % 2 ^ 64 ∧ t.lap.pi = (s.lap.pi + s.heats) % 2 ^ 64 ∧ t.lap.step = 7 ∧
      (s.lap.lamSet = false → t.get64 R.GRP_LAP_INDEX_LO R.GRP_LAP_INDEX_HI 0 = (s.lap.lam + 1) % 2 ^ 64)) ∧
  (∀ (s : State) (c : Clu) (a : Nat), s.memOk → s.cluOn c = true → (s.clu c).mirrorPend = true →
    s.mirrorAt c = some a →
    ∃ t, exec (.clusterMirrorCopy c) s = .next t ∧ (t.clu c).mirrorPend = false ∧
      t.ldBytes (a % 2 ^ 41) (s.mirrorBytes c).length = s.mirrorBytes c ∧
      s.memBut t (a % 2 ^ 41) (s.mirrorBytes c).length ∧ t.regs = s.regs) ∧
  (∀ (s : State) (c : Clu), s.cluGo c = true → (s.clu c).late = false → s.img.waiting = none →
    7 ≤ s.lap.step ∨ (s.lap.step = 0 ∧ (s.clu c).refreshPend = true) →
    ∃ t, exec (.endOfLap c) s = .next t ∧ (t.clu c).ended = true ∧ (t.clu c).refreshPend = false ∧
      t.get F.CLU_SEQ_STATUS_phase (cluU c) = 0 ∧ (∀ d, d ≠ c → t.clu d = s.clu d) ∧ t.mem = s.mem ∧
      t.lap.step = if s.allClus.all (fun d => d == c || (s.clu d).ended || (s.clu d).abandoned) = true then 0 else s.lap.step) ∧
  (∀ (s : State) (c : Clu), s.cluGo c = true → (s.clu c).late = true →
    ∃ t, exec (.endOfLap c) s = .next t ∧ (t.clu c).late = false ∧ t.lap.step = s.lap.step ∧ ∀ d, d ≠ c → t.clu d = s.clu d))

/-- Tier 2 (R261, R262, R311, R453). WAIT_ITEM passes when what it waits for is there and otherwise opens the cluster's wait;
CLU_SEQ_RESUME after a stop that holds no item clears the stop, and is refused with CLU_SEQ_STATUS reporting while a lasting
residue fault waits for its procedure; CLU_SEQ_ABANDON ends the cluster's part of the lap. Each of these commands is shown
to answer a next state with its own effect, under conditions on the state and the operands alone: WAIT_ITEM, CLU_SEQ_RESUME,
CLU_SEQ_ABANDON. -/
def Obligations.WaitResumeAbandon : Prop :=
  (∀ (s : State) (c : Clu) (w : WaitArg), s.cluGo c = true →
    ∃ t, exec (.waitItem c w) s = .next t ∧ t.clus = s.clus ∧ t.cores = s.cores ∧
      (s.waitMet c w = true → slFind t.waits (cluWaiter c 0) = none) ∧
      (s.waitMet c w = false → slFind s.waits (cluWaiter c 0) = none →
        ∃ x, slFind t.waits (cluWaiter c 0) = some x ∧ x.tStart = s.ns ∧ x.what = (s.waitObj c w).1 ∧ x.obj = (s.waitObj c w).2.1 ∧
          t = { s with waits := t.waits, freeCtr := s.freeCtr + 1 })) ∧
  (∀ (s : State) (c : Clu), s.cluOn c = true → s.get F.CLU_SEQ_STATUS_stop (cluU c) ≠ 0 →
    s.get F.CLU_SEQ_STATUS_stop (cluU c) ≠ 9 →
    ∃ t, exec (.cluSeqResume c) s = .next t ∧
      ((∃ k ∈ s.goodCores c, (s.core k).lastingPend = true) → s.reports t R.CLU_SEQ_STATUS (cluU c) 2 ∧
        t.get F.CLU_SEQ_STATUS_stop (cluU c) = s.get F.CLU_SEQ_STATUS_stop (cluU c) ∧ t.clus = s.clus) ∧
      ((∀ k ∈ s.goodCores c, (s.core k).lastingPend = false) → (s.clu c).heldItem = none →
        t.get F.CLU_SEQ_STATUS_stop (cluU c) = 0 ∧ (t.clu c).stopNext = false ∧ s.onlyRegs { t with clus := s.clus } [R.CLU_SEQ_STATUS.addr (cluU c)])) ∧
  (∀ (s : State) (c : Clu), s.cluOn c = true →
    ∃ t, exec (.cluSeqAbandon c) s = .next t ∧ (t.clu c).abandoned = true ∧ (t.clu c).atGate = true ∧
      (t.clu c).kernel = none ∧ (t.clu c).copies = [] ∧ (t.clu c).heldItem = none ∧
      t.get F.CLU_SEQ_STATUS_stop (cluU c) = 9 ∧ (∀ n : Fin 52, (t.core ⟨c, n⟩).runs = []) ∧
      (∀ d, d ≠ c → t.clu d = s.clu d))

/-- Tier 2 (R213, R215, R216, R262, R455; R215; R215, R216, R455). The FP32 operations on a working cluster that has not
abandoned the lap: each executing lane of `dst` takes the operation's result on the lanes of A, B and C, every other lane
and register is kept, and flushes and invalid operations are counted. Where R216 gives a bound only, the result is an open
value inside the bound (log 11). Whatever the operands, no FP32 operation writes a subnormal number, and every NaN it writes
is 0x7FC00000. Special values of the lane operations: a NaN operand gives NaN; infinity minus infinity, zero by infinity,
0/0 and the logarithm or root of a negative number give NaN and count as invalid; min takes -0 before +0; one divided by two
is one half. Each of these commands is shown to answer a next state with its own effect, under conditions on the state and
the operands alone: VEC_ADD, VEC_SUB, VEC_MUL, VEC_FMA, VEC_MIN, VEC_MAX, VEC_ABS, VEC_NEG, VEC_COPYSIGN, VEC_SELECT,
VEC_DIV, VEC_SQRT, VEC_RCP, VEC_RSQRT, VEC_EXP2, VEC_LOG2, VEC_EXP, VEC_LN, VEC_TANH, VEC_SIGMOID. -/
def Obligations.VecFloats : Prop :=
  (∀ (c : Clu) (i : VInst) (s : State), s.vecRuns c = true →
    let A := s.vreg c i.sa
    let B := s.vreg c i.sb
    let C := s.vreg c i.sc
    ∀ p ∈ ([(.vecAdd c i, fun l => fAdd (A l) (B l)), (.vecSub c i, fun l => fSub (A l) (B l)),
        (.vecMul c i, fun l => fMul (A l) (B l)), (.vecFma c i, fun l => fFma (A l) (B l) (C l)),
        (.vecMin c i, fun l => fMinMax false (A l) (B l)), (.vecMax c i, fun l => fMinMax true (A l) (B l)),
        (.vecAbs c i, fun l => fSign (A l) false), (.vecNeg c i, fun l => fSign (A l) (!bit (A l) 31)),
        (.vecCopysign c i, fun l => { v := (fSign (A l) (bit (B l) 31)).v, flush := (fRead (A l)).2 + (fRead (B l)).2 }),
        (.vecSelect c i, fun l => fSelect (A l) (B l) (C l)), (.vecDiv c i, fun l => fDiv (A l) (B l)),
        (.vecSqrt c i, fun l => fSqrt (A l)), (.vecRcp c i, fun l => fRcp (A l)), (.vecRsqrt c i, fun l => fRsqrt (A l)),
        (.vecExp2 c i, fun l => fExp2 (A l)), (.vecLog2 c i, fun l => fLog2 (A l)),
        (.vecExp c i, fun l => fExp (A l)), (.vecLn c i, fun l => fLn (A l)),
        (.vecTanh c i, fun l => fTanh (A l)),
        (.vecSigmoid c i, fun l => fSigmoid (A l))] : List (Instr × (Nat → FR))),
      ∃ t, exec p.1 s = .next t ∧ s.lanesSet t c i (fun l => BitVec.ofNat 32 (p.2 l).v) ∧
        s.laneEvents t c (s.laneSum c i (fun l => (p.2 l).flush)) (s.laneSum c i (fun l => (p.2 l).invalid))) ∧
  (∀ (c : Clu) (i : VInst) (s t : State), s.vecRuns c = true →
    ∀ p ∈ [Instr.vecAdd c i, .vecSub c i, .vecMul c i, .vecFma c i, .vecMin c i, .vecMax c i, .vecAbs c i, .vecNeg c i,
        .vecCopysign c i, .vecSelect c i, .vecDiv c i, .vecSqrt c i, .vecRcp c i, .vecRsqrt c i, .vecExp2 c i, .vecLog2 c i,
        .vecExp c i, .vecLn c i, .vecTanh c i, .vecSigmoid c i],
      exec p s = .next t → ∀ l < 64, s.laneOn c i l = true →
        isSub32 (t.laneW c i.dst l) = false ∧ (isNaN32 (t.laneW c i.dst l) = true → t.laneW c i.dst l = 0x7FC00000)) ∧
  ((∀ a b : Nat, isNaN32 (BitVec.ofNat 32 a) = true → ∀ f ∈ [fAdd, fSub, fMul, fDiv, fMinMax false, fMinMax true],
    (f a b).v = 0x7FC00000 ∧ (f a b).invalid = 0 ∧ (f b a).v = 0x7FC00000) ∧
  (∀ a : Nat, isNaN32 (BitVec.ofNat 32 a) = true → ∀ f ∈ [fSqrt, fRcp, fRsqrt, fExp2, fLog2, fExp, fLn, fTanh, fSigmoid],
    (f a).v = 0x7FC00000 ∧ (f a).invalid = 0) ∧
  (∀ a : Nat, 0x80800000 ≤ a → a ≤ 0xFF800000 → ∀ f ∈ [fSqrt, fRsqrt, fLog2, fLn],
    (f a).v = 0x7FC00000 ∧ (f a).invalid = 1) ∧
  (fSub 0x7F800000 0x7F800000).v = 0x7FC00000 ∧ (fSub 0x7F800000 0x7F800000).invalid = 1 ∧
  (fMul 0 0x7F800000).v = 0x7FC00000 ∧ (fMul 0 0x7F800000).invalid = 1 ∧
  (fDiv 0 0).invalid = 1 ∧ (fDiv 0x7F800000 0xFF800000).invalid = 1 ∧
  (fMinMax false 0 0x80000000).v = 0x80000000 ∧ (fMinMax false 0x80000000 0).v = 0x80000000 ∧
  (fDiv 0x3F800000 0x40000000).v = 0x3F000000 ∧ (fAdd 1 0).v = 0 ∧ (fAdd 1 0).flush = 1)

/-- Tier 2 (R213, R214, R235, R455; R213, R455, R456). The integer operations, move immediate, shuffle and position on a working
cluster: each executing lane of `dst` takes the 32-bit result, every other lane and register is kept, and no lane event is
counted. A shift by 32 or more gives an open value (the model's choice, log 20: the spec states no result). Compares and
predicate operations on a working cluster: each executing lane's bit of the predicate register that `dst` names takes the
relation, every other bit is kept; in FP32 compare, with a NaN operand only not equal and unordered are true, and +0 equals
-0. Each of these commands is shown to answer a next state with its own effect, under conditions on the state and the
operands alone: VEC_MOVE_IMMEDIATE, VEC_COMPARE, INT_ADD, INT_SUB, INT_MUL_LOW, INT_AND, INT_OR, INT_XOR, INT_SHL, INT_SHR,
INT_SAR, INT_POPCOUNT, INT_COMPARE, VEC_POSITION, VEC_SHUFFLE, PRED_AND, PRED_OR, PRED_NOT. -/
def Obligations.VecIntegers : Prop :=
  (∀ (c : Clu) (i : VInst) (s : State), s.vecRuns c = true →
    let A := s.laneW c i.sa
    let B := s.laneW c i.sb
    (∀ p ∈ ([(.intAdd c i, fun l => A l + B l), (.intSub c i, fun l => A l - B l), (.intMulLow c i, fun l => A l * B l),
        (.intAnd c i, fun l => A l &&& B l), (.intOr c i, fun l => A l ||| B l), (.intXor c i, fun l => A l ^^^ B l),
        (.intPopcount c i, fun l => BitVec.ofNat 32 ((List.range 32).filter (A l).getLsbD).length),
        (.vecMoveImmediate c i, fun _ => i.imm), (.vecShuffle c i, fun l => A ((B l).toNat % 64)),
        (.vecPosition c i, fun l => BitVec.ofNat 32 (s.position c i.imm.toNat l))] : List (Instr × (Nat → Word))),
      ∃ t, exec p.1 s = .next t ∧ s.lanesSet t c i p.2 ∧ s.laneEvents t c 0 0) ∧
    (∀ p ∈ ([(.intShl c i, fun a n => a <<< n, 0), (.intShr c i, fun a n => a >>> n, 1),
        (.intSar c i, fun a n => a.sshiftRight n, 2)] : List (Instr × (Word → Nat → Word) × Nat)),
      ∃ t, exec p.1 s = .next t ∧ s.lanesSet t c i (fun l => if (B l).toNat < 32 then p.2.1 (A l) (B l).toNat
        else Config.shiftBig p.2.2 (A l) (B l)) ∧ s.laneEvents t c 0 0) ∧
    ∀ l, s.position c i.imm.toNat l < 2 ^ 20) ∧
  (∀ (c : Clu) (i : VInst) (s : State), s.vecRuns c = true →
    let A := s.laneW c i.sa
    let B := s.laneW c i.sb
    (∃ t, exec (.vecCompare c i) s = .next t ∧ s.predSet t c i (fun l => fRel (i.imm.toNat % 8) (A l).toNat (B l).toNat) ∧
      s.laneEvents t c (s.laneSum c i (fun l => fCmpFlush (A l).toNat (B l).toNat)) 0) ∧
    (∀ a b k : Nat, k < 8 → (isNaN32 (BitVec.ofNat 32 a) || isNaN32 (BitVec.ofNat 32 b)) = true →
      (fRel k a b = true ↔ k = 3 ∨ k = 6)) ∧ (∀ k < 8, fRel k 0 0x80000000 = [true, false, true, false, false, true, false, true].getD k false) ∧
    (∀ k, i.imm.toNat % 8 = k → ∃ t, exec (.intCompare c i) s = .next t ∧ s.laneEvents t c 0 0 ∧
      s.predSet t c i (fun l => [A l == B l, (A l).slt (B l), (A l).sle (B l), A l != B l, (B l).slt (A l), (B l).sle (A l),
        (A l).ult (B l), (B l).ule (A l)].getD k false)) ∧
    (∀ p ∈ ([(.predAnd c i, fun l => bit (s.preg c i.sa) l && bit (s.preg c i.sb) l),
        (.predOr c i, fun l => bit (s.preg c i.sa) l || bit (s.preg c i.sb) l),
        (.predNot c i, fun l => !bit (s.preg c i.sa) l)] : List (Instr × (Nat → Bool))),
      ∃ t, exec p.1 s = .next t ∧ s.predSet t c i p.2 ∧ s.laneEvents t c 0 0))

/-- Tier 2 (R213, R234, R238, R455, R456). Pool accesses on a working cluster, no SRAM word being upset: within the pool, load
and gather take each executing lane's word from its address, store leaves every byte outside the 256 bytes it addresses as
it was and scatter every byte outside the words named; beyond the pool, the kernel ends, CLU_VEC_STATUS reports code 2, the
cluster stops before its next pass and no byte of memory changes. Each of these commands is shown to answer a next state
with its own effect, under conditions on the state and the operands alone: VEC_LOAD, VEC_STORE, VEC_GATHER, VEC_SCATTER. -/
def Obligations.VecPoolAccess : Prop :=
  ∀ (c : Clu) (i : VInst) (s : State), s.vecRuns c = true → s.sramQuiet →
    let own := fun l => (s.vreg c i.sa l + i.imm.toNat) % 2 ^ 32 / 4 * 4
    let row := fun l => (s.vreg c i.sa 0 + i.imm.toNat) % 2 ^ 32 + 4 * l
    (∀ p ∈ ([(.vecLoad c i, row), (.vecGather c i, own)] : List (Instr × (Nat → Nat))),
      (∀ l < 64, s.laneOn c i l = true → p.2 l + 4 ≤ 2 ^ 22) →
      ∃ t, exec p.1 s = .next t ∧ s.lanesSet t c i (fun l => BitVec.ofNat 32 (s.ld (poolAt c (p.2 l)) 4))) ∧
    (∀ p ∈ ([(.vecStore c i, row), (.vecScatter c i, own)] : List (Instr × (Nat → Nat))),
      (∀ l < 64, s.laneOn c i l = true → p.2 l + 4 ≤ 2 ^ 22) →
      ∃ t, exec p.1 s = .next t ∧ (s.issued { t with mem := s.mem } c ((s.clu c).ip + 1)) ∧
        (t.clu c).vreg = (s.clu c).vreg ∧ (t.clu c).preg = (s.clu c).preg ∧
        (∀ l < 64, s.laneOn c i l = true → (∀ k < 64, l < k → s.laneOn c i k = true → p.2 k + 4 ≤ p.2 l ∨ p.2 l + 4 ≤ p.2 k) →
          t.ld (poolAt c (p.2 l)) 4 = s.vreg c i.sb l) ∧
        ∀ a, (∀ l < 64, s.laneOn c i l = true → a < poolAt c (p.2 l) ∨ poolAt c (p.2 l) + 4 ≤ a) →
          Mem.get t.mem a = Mem.get s.mem a) ∧
    (∀ p ∈ ([(.vecLoad c i, row), (.vecStore c i, row), (.vecGather c i, own), (.vecScatter c i, own)] :
        List (Instr × (Nat → Nat))),
      (∃ l < 64, s.laneOn c i l = true ∧ 2 ^ 22 < p.2 l + 4) →
      ∃ t, exec p.1 s = .next t ∧ s.reports t R.CLU_VEC_STATUS (cluU c) 2 ∧ t.mem = s.mem ∧ (t.clu c).kernel = none ∧
        (t.clu c).stopNext = true ∧ (t.clu c).vreg = (s.clu c).vreg ∧ (t.clu c).preg = (s.clu c).preg)

/-- Tier 2 (R215, R217, R220, R233, R455). Cross-lane operations, convert and draw on a working cluster: the reduction and the
scan combine the 64 lanes in the fixed tree; the sort, executed in every lane, writes a permutation of A in ascending order
of the sort key, and their lanes, stably, to the register that takes them (which one is open, log 103); a reserved reduction
or conversion reports code 1 and ends the kernel; another conversion writes `dst` only, of an element format without a
tensor or a draw the value in that format; a draw consumes one draw in each executing lane and none in another. Each of
these commands is shown to answer a next state with its own effect, under conditions on the state and the operands alone:
VEC_DRAW, VEC_CONVERT, VEC_TREE_REDUCTION, VEC_SCAN, VEC_SORT. -/
def Obligations.VecCrossLane : Prop :=
  ∀ (c : Clu) (i : VInst) (s : State), s.vecRuns c = true →
    let A := s.vreg c i.sa
    (∀ k < 3, i.imm.toNat % 4 = k → ∃ t, exec (.vecTreeReduction c i) s = .next t ∧
      s.lanesSet t c i (fun _ => BitVec.ofNat 32 (treeSum ([fAdd, fMinMax true, fMinMax false].getD k fAdd) A 0 6).v)) ∧
    (∃ t, exec (.vecScan c i) s = .next t ∧
      s.lanesSet t c i (fun l => BitVec.ofNat 32 ((prefixSum fAdd A (l + 1) 6 0 none).getD { v := A l }).v)) ∧
    (∃ t, exec (.vecSort c i) s = .next t ∧ s.issued t c ((s.clu c).ip + 1) ∧ (t.clu c).preg = (s.clu c).preg ∧
      (∀ r l : Nat, r < 32 → l < 64 → s.laneOn c i l = false ∨ (r ≠ i.dst.val ∧ (Config.sortIndex i.dst).map (· % 32) ≠ some r) →
        t.laneW c r l = s.laneW c r l) ∧
      ((∀ l < 64, s.laneOn c i l = true) →
        let key := fun l => sortKey (bit i.imm.toNat 0) (t.vreg c i.dst l)
        ((List.range 64).map (t.vreg c i.dst)).Perm ((List.range 64).map A) ∧ (∀ k l, k < l → l < 64 → key k ≤ key l) ∧
        ∀ r, Config.sortIndex i.dst = some r → r % 32 ≠ i.dst.val →
          ((List.range 64).map (t.vreg c (r % 32))).Perm (List.range 64) ∧
          (∀ l < 64, A (t.vreg c (r % 32) l) = t.vreg c i.dst l) ∧
          ∀ k l, k < l → l < 64 → key k = key l → t.vreg c (r % 32) k < t.vreg c (r % 32) l)) ∧
    (∀ p ∈ [(Instr.vecTreeReduction c i, i.imm.toNat % 4 == 3), (.vecConvert c i, cvReserved i.imm.toNat)], p.2 = true →
      ∃ t, exec p.1 s = .next t ∧ s.reports t R.CLU_VEC_STATUS (cluU c) 1 ∧ t.mem = s.mem ∧ (t.clu c).kernel = none ∧
        (t.clu c).stopNext = true ∧ (t.clu c).vreg = (s.clu c).vreg ∧ (t.clu c).preg = (s.clu c).preg) ∧
    (cvReserved i.imm.toNat = false → ∃ t, exec (.vecConvert c i) s = .next t ∧ (∀ d, d ≠ c → t.clu d = s.clu d) ∧
      (t.clu c).ip = (s.clu c).ip + 1 ∧ (t.clu c).preg = (s.clu c).preg ∧
      (∀ r l : Nat, r < 32 → l < 64 → r ≠ i.dst.val ∨ s.laneOn c i l = false → t.laneW c r l = s.laneW c r l) ∧
      (cv.tensor i.imm.toNat = none → t.mem = s.mem) ∧
      ∀ g, cv.tensor i.imm.toNat = none → cv.round i.imm.toNat = 0 → cv.dst i.imm.toNat = some g → g ≠ .a8 → g.isBlock = false →
        s.lanesSet t c i (fun l => BitVec.ofNat 32 (encodeElem g .rne (if g.needsScale then Config.convertTau i.imm else 0)
          (s.cvIn c i.imm.toNat l (A l)).1).1)) ∧
    ∃ t, exec (.vecDraw c i) s = .next t ∧ t.mem = s.mem ∧ (∀ d, d ≠ c → t.clu d = s.clu d) ∧
      (∀ l < 64, (t.clu c).lane l = if s.laneOn c i l = true
        then (((s.clu c).lane l).take (s.clu c).key (s.laneStream c l)).1 else (s.clu c).lane l) ∧
      ∀ l < 64, s.laneOn c i l = true →
        t.vreg c i.dst l = (((s.clu c).lane l).take (s.clu c).key (s.laneStream c l)).2 % 2 ^ 32

/-- Tier 2 (R213, R220, R238, R453, R455). Control flow and kernels: a taken branch moves the pointer by the signed offset from
the instruction itself, one not taken to the next; the end of a kernel ends it; a reserved opcode reports code 1, ends the
kernel and stops the cluster before its next pass; a kernel item starts at its first instruction, and lasting errors that
its reads found have their unit quarantined at its end; a lane generator with room in its queue computes one draw. Each of
these commands is shown to answer a next state with its own effect, under conditions on the state and the operands alone:
KERNEL, GENERATOR_PREFETCH, VEC_JUMP, BRANCH_ANY, BRANCH_NONE, END_OF_KERNEL, VEC_RESERVED_OPCODE. -/
def Obligations.VecControlFlow : Prop :=
  ∀ (c : Clu) (i : VInst) (s : State), s.vecRuns c = true →
    let ip := (s.clu c).ip
    let any := s.preg c i.pred ≠ 0
    (∀ p ∈ ([(.vecJump c i, ip + i.imm.toInt)] : List (Instr × Int)), ∃ t, exec p.1 s = .next t ∧ s.issued t c p.2 ∧
      (t.clu c).vreg = (s.clu c).vreg ∧ (t.clu c).preg = (s.clu c).preg) ∧
    (∀ p ∈ ([(.branchAny c i, any, ip + i.imm.toInt), (.branchAny c i, ¬any, ip + 1), (.branchNone c i, ¬any, ip + i.imm.toInt),
        (.branchNone c i, any, ip + 1)] : List (Instr × Prop × Int)), p.2.1 →
      ∃ t, exec p.1 s = .next t ∧ s.issued t c p.2.2 ∧ (t.clu c).vreg = (s.clu c).vreg ∧ (t.clu c).preg = (s.clu c).preg) ∧
    (∃ t, exec (.endOfKernel c i) s = .next t ∧
      t.clu c = { s.clu c with kernel := none, last := s.ns, ip := ip + 1 } ∧ (∀ d, d ≠ c → t.clu d = s.clu d) ∧ t.mem = s.mem) ∧
    (∀ opc : BitVec 8, vecOp opc.toNat = none → ∃ t, exec (.vecReservedOpcode c opc) s = .next t ∧
      s.reports t R.CLU_VEC_STATUS (cluU c) 1 ∧ (t.clu c).kernel = none ∧ (t.clu c).stopNext = true ∧ t.mem = s.mem ∧
      (t.clu c).vreg = (s.clu c).vreg ∧ (t.clu c).preg = (s.clu c).preg) ∧
    (∀ opc ∈ [0x00, 0x0F, 0x15, 0x17, 0x1F, 0x24, 0x27, 0x2E, 0x3B, 0x3F, 0x42, 0x49, 0x54, 0x5C, 0x63, 0x73, 0x7E, 0x80, 0xFF],
      vecOp opc = none) ∧
    (∀ (off : PoolOff) (count : Nat), s.cluGo c = true → (s.clu c).emptyHeat = false → (s.clu c).kernel = none →
      exec (.kernel c off count 0) s
        = .next (s.setClu c { s.clu c with kernel := some { off := off.toNat, count := count }, ip := 0 }).sramServe ∧
      (∀ (n : Nat) (f : Clu → VInst → State → State), 0 < count →
        let k := s.setClu c { s.clu c with kernel := some { off := off.toNat, count := count }, ip := 0 }
        vecOp (bits (s.ld (poolAt c off.toNat) 8) 63 56) = some f →
        exec (.kernel c off count (n + 1)) s
          = .next ((k.issue c (f c (vinstOf (s.ld (poolAt c off.toNat) 8)))).kernelRun c n).sramServe)) ∧
    (∀ lane : Fin 64, let g := (s.clu c).lane lane
      ∃ t, exec (.generatorPrefetch c lane) s = .next t ∧ s.onlyClu t c ∧ (∀ k, k ≠ lane.val → (t.clu c).lane k = (s.clu c).lane k) ∧
        (g.q.length < 4 → (t.clu c).lane lane = { g with n := (g.n + 1) % 2 ^ 64
                                                         q := g.q ++ [streamDraw (s.clu c).key (s.laneStream c lane) g.n] }) ∧
        (4 ≤ g.q.length → (t.clu c).lane lane = g))

/-- Tier 2 (R207, R209, R453; R194, R202, R205; R163, R203, R204, R207). SCT_CALL and SCOUT_CALL_ITEM on a working cluster: with
fewer than 8 calls queued the call joins the queue's end and nothing else changes; with 8, the call is dropped, SCT_STATUS
reports code 2 and no queue changes. SCOUT_ESTIMATE, SCOUT_TOP_K and SCOUT_THRESHOLD, no SRAM word being upset, with a call
of their kind at the head of the queue: the call is executed and remains at the head; an estimate call writes each sampled
estimate to its place and +0 to the others; a top-k call writes the k largest of each row in descending order, equal ones by
lower column, and fills up with 0xFFFFFFFF and +0; a threshold call sets the bit of each sampled output that is at least the
threshold; each writes no byte of memory but its results; a call with a correlated generator pair is reported (code 1) and
counted. SCOUT_RANGE, no SRAM word being upset, executes the range call at the head and writes no memory but the cluster's
statistics records; SCOUT_CALL_DONE removes an executed call and counts it, and a range call's estimate joins the merge with
its untrusted mark (the exponent of an estimate that overflowed is a free value, log 98) unless the merge has ended; a call
with a reserved descriptor is skipped and reported (code 3), and when it is a range call its tensor, before the merge, is
untrusted. Each of these commands is shown to answer a next state with its own effect, under conditions on the state and the
operands alone: SCT_CALL, SCOUT_CALL_ITEM, SCOUT_ESTIMATE, SCOUT_TOP_K, SCOUT_THRESHOLD, SCOUT_RANGE, SCOUT_CALL_DONE. -/
def Obligations.ScoutCalls : Prop :=
  (∀ (s : State) (c : Clu) (desc : BitVec 16) (off : PoolOff),
    ∀ p ∈ [(Instr.sctCall c desc, s.cluOn c, 64 * desc.toNat), (.scoutCallItem c off, s.cluGo c, off.toNat)], p.2.1 = true →
      ((s.clu c).calls.length < 8 →
        exec p.1 s = .next (s.setClu c { s.clu c with calls := (s.clu c).calls ++ [{ off := p.2.2, range := false }] })) ∧
      (8 ≤ (s.clu c).calls.length → ∃ t, exec p.1 s = .next t ∧ s.reports t R.SCT_STATUS (cluU c) 2 ∧ t.clus = s.clus ∧
        s.onlyEvent t [R.SCT_STATUS.addr (cluU c)])) ∧
  (∀ (s : State) (c : Clu) (k : ScoutCall) (ks : List ScoutCall), s.cluOn c = true → (s.clu c).calls = k :: ks →
    k.executed = false → s.sramQuiet →
    let d := s.ld (poolAt c k.off) 64
    let r := s.sctRun c d
    let stride := (sct.cols d + 255) / 256 * 32
    ∀ p ∈ [(Instr.scoutEstimate c, 0, 4 * sct.rows d * sct.cols d), (.scoutTopK c, 1, 8 * sct.rows d * sct.k d),
        (.scoutThreshold c, 2, sct.rows d * stride)],
      sctReserved d = false → sct.op d = p.2.1 → sct.dst d + p.2.2 ≤ 2 ^ 22 →
      ∃ t, exec p.1 s = .next t ∧
        t.clu c = { s.clu c with calls := { k with executed := true, est := sctMax r
                                                   untrusted := s.sctCorr c d || s.genLost c d || r.nonfinite || r.est.isEmpty
                                                    || sctMax r == 0 } :: ks } ∧
        (∀ e, e ≠ c → t.clu e = s.clu e) ∧ t.cores = s.cores ∧ t.tensors = s.tensors ∧
        (∀ a, (a < poolAt c (sct.dst d) ∨ poolAt c (sct.dst d) + p.2.2 ≤ a) → Mem.get t.mem a = Mem.get s.mem a) ∧
        (s.sctCorr c d = false → t.regs = s.regs) ∧
        (s.sctCorr c d = true → s.reports t R.SCT_STATUS (cluU c) 1 ∧
          t.get F.SCT_COUNT_corr (cluU c) = satInc (s.get F.SCT_COUNT_corr (cluU c)) 0xFFFF) ∧
        (p.2.1 = 0 → ∀ i < sct.rows d, ∀ j < sct.cols d,
          t.ld (poolAt c (sct.dst d + 4 * (i * sct.cols d + j))) 4 = ((r.est.find? (fun e => e.1 == (i, j))).map (·.2)).getD 0) ∧
        (p.2.1 = 1 → ∀ i < sct.rows d, ∃ l : List (Nat × Nat),
          l.Perm ((r.est.filter (fun e => e.1.1 == i)).map (fun e => (e.1.2, e.2))) ∧
          l.Pairwise (fun x y => fLt y.2 x.2 = true ∨ (fLt x.2 y.2 = false ∧ x.1 < y.1)) ∧
          ∀ n < sct.k d, t.ld (poolAt c (sct.dst d + 8 * (i * sct.k d + n))) 8 =
            (l.getD n (0xFFFFFFFF, 0)).1 + 2 ^ 32 * (l.getD n (0xFFFFFFFF, 0)).2) ∧
        (p.2.1 = 2 → ∀ i < sct.rows d, ∀ j < sct.cols d,
          bit (t.ld (poolAt c (sct.dst d + i * stride + j / 8)) 1) (j % 8) =
            r.est.any (fun e => e.1 == (i, j) && (fCmp e.2 (sct.thr d) == some .gt || fCmp e.2 (sct.thr d) == some .eq)))) ∧
  (∀ (s : State) (c : Clu) (k : ScoutCall) (ks : List ScoutCall), s.cluOn c = true → (s.clu c).calls = k :: ks →
    let d := s.ld (poolAt c k.off) 64
    let n := sct.tensor d
    let r := s.sctRun c d
    let e := if (fRead k.est).1.cls = .inf then (Config.free s.freeCtr : Int) else (fVal k.est).log2
    (k.executed = false → s.sramQuiet → sctReserved d = false → sct.op d = 3 → ∃ t, exec (.scoutRange c) s = .next t ∧
      (t.clu c).calls = { k with executed := true, est := sctMax r
                                 untrusted := s.sctCorr c d || s.genLost c d || r.nonfinite || r.est.isEmpty
                                  || sctMax r == 0 } :: ks ∧ t.tensors = s.tensors ∧ t.cores = s.cores ∧
      (∀ a, s.outsideStats c a → Mem.get t.mem a = Mem.get s.mem a) ∧ (s.staFind c n = none → t.mem = s.mem)) ∧
    (k.executed = true → ∃ t, exec (.scoutCallDone c) s = .next t ∧ t.clu c = { s.clu c with calls := ks } ∧
      (∀ e, e ≠ c → t.clu e = s.clu e) ∧ t.mem = s.mem ∧ t.cores = s.cores ∧
      t.get F.SCT_COUNT_calls (cluU c) = (s.get F.SCT_COUNT_calls (cluU c) + 1) % 65536 ∧
      (sct.op d ≠ 3 ∨ (s.tensor n).estReady = true → t.tensors = s.tensors) ∧
      (sct.op d = 3 → (s.tensor n).estReady = false → (t.tensor n).untrusted = ((s.tensor n).untrusted || k.untrusted) ∧
        (t.tensor n).est = (if k.est = 0 then (s.tensor n).est else
          some (match (s.tensor n).est with
            | some o => max o e
            | none => e)) ∧
        (∀ m, m ≠ n → t.tensor m = s.tensor m))) ∧
    (k.executed = false → sctReserved d = true → ∃ t, exec (.scoutCallDone c) s = .next t ∧
      t.clu c = { s.clu c with calls := ks } ∧ s.reports t R.SCT_STATUS (cluU c) 3 ∧ t.mem = s.mem ∧
      (k.range = true → (s.tensor n).estReady = false → (t.tensor n).untrusted = true) ∧ (k.range = false → sct.op d ≠ 3 → t.tensors = s.tensors)))

/-- Tier 2 (R271, R285, R262; R145, R268, R275, R278, R284, R285, R293). CPY_SUBMIT and COPY_LIST_ITEM put a list at the end of
the queue while fewer than 8 are queued; with 8, a steward's list is dropped and reported (code 9) and the sequencer's item
waits; CPY_RESUME lets a stopped list run again and does nothing while none is stopped. A copy list stops before a
descriptor that is invalid (code 1) or whose place fails its check (codes 2 to 4), after a detected error that recurs (code
7), and at an index out of range (code 5): it keeps its place in the queue. A quarantined logical place is first tried once
more, without a report. A detected error that its retry clears is counted and reported (code 6) and the descriptor
completes. A descriptor that reads a row held for a verdict waits. Each of these commands is shown to answer a next state
with its own effect, under conditions on the state and the operands alone: CPY_SUBMIT, COPY_LIST_ITEM, CPY_RESUME. -/
def Obligations.CopyQueues : Prop :=
  (∀ (s : State) (c : Clu) (list : BitVec 16), s.cluOn c = true →
    let off := 64 * list.toNat % 2 ^ 22
    ((s.clu c).copies.length < 8 →
      exec (.cpySubmit c list) s = .next (s.setClu c { s.clu c with copies := (s.clu c).copies ++ [off] }) ∧
      (s.cluGo c = true → ∃ t, exec (.copyListItem c list) s = .next t ∧
        t.clu c = { s.clu c with copies := (s.clu c).copies ++ [off] } ∧ (∀ e, e ≠ c → t.clu e = s.clu e) ∧
        slFind t.waits (cluWaiter c 0) = none ∧ t.mem = s.mem)) ∧
    (8 ≤ (s.clu c).copies.length →
      (∃ t, exec (.cpySubmit c list) s = .next t ∧ s.reports t R.CPY_STATUS (cluU c) 9 ∧
        s.onlyEvent t [R.CPY_STATUS.addr (cluU c)]) ∧
      (s.cluGo c = true → ∃ t, exec (.copyListItem c list) s = .next t ∧ t = { s with waits := t.waits } ∧
        (slFind t.waits (cluWaiter c 0)).isSome = true)) ∧
    ((s.clu c).copyStopped = true →
      exec (.cpyResume c) s = .next (s.setClu c { s.clu c with copyStopped := false })) ∧
    ((s.clu c).copyStopped = false → exec (.cpyResume c) s = .next s)) ∧
  (∀ (s : State) (c : Clu) (d : Nat), s.cluOn c = true → s.copyAt c = some d →
    let halted := { s.clu c with copyStopped := true, copyRetry := false }
    (∀ p ∈ [Instr.copyLinear c .none, .copyStrided c .none, .copyTranspose c .none, .copyGather c .none,
        .copyScatter c .none, .copyFill c .none], cpyInvalid d (s.clu c).copyIdx = true →
      ∃ t, exec p s = .next t ∧ s.reports t R.CPY_STATUS (cluU c) 1 ∧ t.mem = s.mem ∧
        t.clu c = { s.clu c with copyStopped := true }) ∧
    (∀ (e : PlaceErr) (err : CopyErr), cpyInvalid d (s.clu c).copyIdx = false → cpy.op d = 1 → s.cpyPrep c d = .error e →
      (e.why = .quarantined ∧ e.logical = true ∧ (s.clu c).copyRetry = false →
        exec (.copyStrided c err) s = .next (s.setClu c { s.clu c with copyRetry := true })) ∧
      (e.why ≠ .quarantined ∨ e.logical = false ∨ (s.clu c).copyRetry = true → ∃ t, exec (.copyStrided c err) s = .next t ∧
        s.reports t R.CPY_STATUS (cluU c) (match e.why with | .quarantined => 2 | .inactive => 3 | .range => 4) ∧
        t.mem = s.mem ∧ t.clu c = halted)) ∧
    (∀ k : CopyRun, cpy.op d = 0 → s.copyReady c d k → (∃ a ∈ k.ends d, (s.copyRoute c a).2.2 = true) →
      (∃ t, exec (.copyLinear c { upsets := [.ring true], rows := 0 }) s = .next t ∧ t.get F.CPY_STATUS_code (cluU c) = 7 ∧
        t.get F.CPY_ERR_CNT_lasting (cluU c) = satInc (s.get F.CPY_ERR_CNT_lasting (cluU c)) 0x3FF ∧
        t.clu c = halted ∧ t.mem = s.mem) ∧
      (k.converts d = false → ∃ t, exec (.copyLinear c { upsets := [.ring false], rows := 0 }) s = .next t ∧
        t.get F.CPY_STATUS_code (cluU c) = 6 ∧
        t.get F.CPY_ERR_CNT_transient (cluU c) = satInc (s.get F.CPY_ERR_CNT_transient (cluU c)) 0x7FF ∧
        s.copyNext t c d ∧ ∀ v, exec (.copyLinear c .none) s = .next v → t.mem = v.mem)) ∧
    (∀ k : CopyRun, cpy.op d = 3 → cpyInvalid d (s.clu c).copyIdx = false → s.cpyPrep c d = .ok k →
      (k.stop = true → s.copyInService d k → (s.clu c).copyRetry = false → k.sf = k.df →
        ∃ t, exec (.copyGather c .none) s = .next t ∧ s.reports t R.CPY_STATUS (cluU c) 5 ∧
          t.clu c = { halted with copyOld := (t.clu c).copyOld }) ∧
      (¬s.copyFree d k → ∃ t, exec (.copyGather c .none) s = .next t ∧ t = { s with waits := t.waits } ∧
        (slFind t.waits (cluWaiter c 1)).isSome = true)))

/-- Tier 2 (R271, R273, R276, R278, R279). Each of the six copies, with a valid descriptor of its kind at hand whose places are
in service, of any formats: the list goes on, or ends after its last descriptor, and no byte outside the destination rows
changes, but where it converts those of the cluster's statistics records. Where the formats are equal and stored element by
element, the destination is not split, its rows do not overlap, and no earlier descriptor may still run beside it: each
destination element takes the bits of the source element that R273 names as they were before the copy (a fill: the low bits
of `fill`; a scatter: of the latest row that names it). Each of these commands is shown to answer a next state with its own
effect, under conditions on the state and the operands alone: COPY_LINEAR, COPY_STRIDED, COPY_TRANSPOSE, COPY_GATHER,
COPY_SCATTER, COPY_FILL. -/
def Obligations.CopyMovesElements : Prop :=
  ∀ (s : State) (c : Clu) (op d : Nat) (k : CopyRun), s.cluOn c = true → s.copyAt c = some d → cpy.op d = op →
    s.copyReady c d k →
    ∀ p ∈ [(Instr.copyLinear c .none, 0), (.copyStrided c .none, 1), (.copyTranspose c .none, 2), (.copyGather c .none, 3),
        (.copyScatter c .none, 4), (.copyFill c .none, 5)], p.2 = op →
      let dst := k.dsts.getD 0 0
      ∃ t, exec p.1 s = .next t ∧ s.copyNext t c d ∧ t.cores = s.cores ∧ t.tensors = s.tensors ∧
        (∀ a, (∀ m ∈ k.moves, ∀ q ∈ k.dstSpans d m, a < q.1 ∨ q.1 + q.2 ≤ a) → k.converts d = false ∨ s.outsideStats c a →
          Mem.get t.mem a = Mem.get s.mem a) ∧
        (k.sf = k.df → k.df.isBlock = false → k.df ≠ .a8 → cpy.split d = 0 → s.copyAlone c d →
          (op = 0 ∨ rowLen k.df (cpy.dCols d) ≤ cpy.dstStride d) →
          (op = 0 → ∀ j < cpy.rows d * cpy.cols d, t.rawElem k.df dst j = s.rawElem k.sf k.src j) ∧
          (op = 2 → ∀ r < cpy.cols d, ∀ e < cpy.rows d,
            t.rawElem k.df (dst + r * cpy.dstStride d) e = s.rawElem k.sf (k.src + e * cpy.srcStride d) r) ∧
          (op = 5 → ∀ r < cpy.rows d, ∀ e < cpy.cols d,
            t.rawElem k.df (dst + r * cpy.dstStride d) e = cpy.fill d % 2 ^ k.df.width) ∧
          (op = 1 ∨ op = 3 ∨ op = 4 → ∀ (i : Nat) (m : Nat × Nat), k.moves[i]? = some m →
            (∀ j m', k.moves[j]? = some m' → i < j → m'.2 ≠ m.2) → ∀ e < cpy.cols d,
              t.rawElem k.df (dst + m.2 * cpy.dstStride d) e = s.rawElem k.sf (k.src + m.1 * cpy.srcStride d) e))

/-- Tier 2 (R286, R289, R290). HBM_REFRESH keeps every content; HBM_RECAL_DUE of a channel whose interval has elapsed,
HBM_TEMP_RECAL after a change of 5 degrees or more since its last recalibration or its training, and RECAL_NOW recalibrate a
channel in service: its interval and temperature start anew; an attempt that passed on its second try is reported (code 3);
two failures quarantine the channel. Before its interval has elapsed, or after a smaller change, nothing happens; in a
freeze or in Blocks the recalibration is kept for the release or the wake. Each of these commands is shown to answer a next
state with its own effect, under conditions on the state and the operands alone: HBM_REFRESH, HBM_RECAL_DUE, HBM_TEMP_RECAL,
RECAL_NOW. -/
def Obligations.HbmRecalibration : Prop :=
  (∀ (h : Stack) (chan : Fin 32) (bank : Nat) (s : State), exec (.hbmRefresh h chan bank) s = .next s) ∧
  ∀ (h : Stack) (chan : Fin 32) (temp : Int) (s : State),
    let key := h.val * 32 + chan
    let due := ∀ r, s.recalLast h chan = some r → r.1 + s.get F.HUB_HBM_CTRL_interval_ms h * 256000000 ≤ s.pacer.time
    let moved := ∃ r, s.recalLast h chan = some r ∧ 5 ≤ (temp - r.2).natAbs
    (∀ p : Nat → Instr,
      ((p = (fun f => .hbmRecalDue h chan temp f) ∧ due) ∨
       (p = (fun f => .recalNow h temp f) ∧ s.get F.HUB_HBM_CTRL_chan h = chan ∧ s.served .hbm h 0 = true) ∨
       (p = (fun f => .hbmTempRecal h chan temp f) ∧ moved)) →
      (s.live = true → s.domOn (.hbm h) = true → s.quarIs 7 (h.val * 256 + chan) = false →
        exec (p 0) s = .next { s with recals := slSet s.recals key (s.pacer.time, temp) } ∧
        (∃ t, exec (p 1) s = .next t ∧ s.reports t R.HUB_HBM_STATUS h 3 ∧ t.quarIs 7 (h.val * 256 + chan) = false ∧
          t.recals = slSet s.recals key (s.pacer.time, temp)) ∧
        (∀ f, 2 ≤ f → ∃ t, exec (p f) s = .next t ∧ t.get F.HUB_HBM_STATUS_code h = 4 ∧
          t.quarIs 7 (h.val * 256 + chan) = true ∧ t.flt.degraded = true)) ∧
      (s.frozen = true ∨ s.asleep = true → ∀ f,
        exec (p f) s = .next { s with recalWait := slSet s.recalWait key (temp, f) })) ∧
    (∀ f, (¬due → exec (.hbmRecalDue h chan temp f) s = .next s) ∧
      (¬moved → exec (.hbmTempRecal h chan temp f) s = .next s))

/-- Tier 2 (R308, R309, R453). RLY_SEND and SEND_ITEM put a send at the end of its queue while fewer than 8 are queued; with 8 a
steward's send is dropped and reported (code 0x0D) and the sequencer's item waits. SEND_START drops an invalid send, one
whose source lies in a quarantined unit too (code 0x0B), and one without a usable route (0x0C), starts none beyond 4 in
flight, and starts a valid one where every read succeeds (no upset waits, no channel is out of service); SEND_COMPLETE
removes a send whose flits are all acknowledged and counts it. Each of these commands is shown to answer a next state with
its own effect, under conditions on the state and the operands alone: RLY_SEND, SEND_ITEM, SEND_START, SEND_COMPLETE. -/
def Obligations.SendsQueueAndComplete : Prop :=
  ∀ (s : State) (c : Clu), s.cluOn c = true →
    (∀ desc : BitVec 16, let off := 64 * desc.toNat % 2 ^ 22
      ((s.clu c).sends.length < 8 →
        exec (.rlySend c desc) s = .next (s.setClu c { s.clu c with sends := (s.clu c).sends ++ [{ off := off }] })) ∧
      (8 ≤ (s.clu c).sends.length → ∃ t, exec (.rlySend c desc) s = .next t ∧
        s.reports t R.RLY_SEND_STATUS (cluU c) 0x0D ∧ s.onlyEvent t [R.RLY_SEND_STATUS.addr (cluU c)])) ∧
    (∀ off : PoolOff, s.cluGo c = true →
      ((s.clu c).sends.length < 8 → ∃ t, exec (.sendItem c off) s = .next t ∧
        t.clu c = { s.clu c with sends := (s.clu c).sends ++ [{ off := off.toNat }] } ∧ (∀ e, e ≠ c → t.clu e = s.clu e) ∧
        t.mem = s.mem) ∧
      (8 ≤ (s.clu c).sends.length → ∃ t, exec (.sendItem c off) s = .next t ∧ t = { s with waits := t.waits } ∧
        (slFind t.waits (cluWaiter c 0)).isSome = true)) ∧
    (∀ k : Send, (s.clu c).sends.find? (fun k => !k.started) = some k →
      let d := s.ld (poolAt c k.off) 64
      let full := 4 ≤ (s.clu c).sends.countP (fun k => k.started)
      let dropped := fun (code : Nat) => ∃ t, exec (.sendStart c) s = .next t ∧
        t.clu c = { s.clu c with sends := (s.clu c).sends.erase k } ∧ s.reports t R.RLY_SEND_STATUS (cluU c) code ∧
        t.mem = s.mem ∧ t.links = s.links
      (full → exec (.sendStart c) s = .next s) ∧
      (¬full → sndInvalid d = true → dropped 0x0B) ∧
      (¬full → sndInvalid d = false → s.sndSource d = none → dropped 0x0B) ∧
      (∀ src, ¬full → sndInvalid d = false → s.sndSource d = some src →
        (s.sndNoRoute d = true → dropped 0x0C) ∧
        (s.sndNoRoute d = false → s.regionHeld src (src + snd.bytes d) = true → ∃ t, exec (.sendStart c) s = .next t ∧
          t = { s with waits := t.waits } ∧ (slFind t.waits (cluWaiter c 1)).isSome = true) ∧
        (s.sndNoRoute d = false → s.regionHeld src (src + snd.bytes d) = false → s.hbmQuiet → s.sramQuiet → ∃ t, exec (.sendStart c) s = .next t ∧
          (∀ e, e ≠ c → t.clu e = s.clu e) ∧ t.cores = s.cores ∧ (snd.lossy d = 0 → t.mem = s.mem) ∧
          ((∀ q ∈ (s.clu c).sends, q.started = true → q.off ≠ k.off) → ∃ m : Nat, (t.clu c).sends = setFirst k
            { k with started := true, link := hopOf (mem.route (s.grpMember (snd.group d) (snd.rank d))) 0,
                     desc := d, next := m } (s.clu c).sends)))) ∧
    (∀ k : Send, (s.clu c).sends.find? (s.sndAcked c) = some k →
      exec (.sendComplete c) s
        = .next (s.setClu c { s.clu c with sends := (s.clu c).sends.erase k, sendsDone := (s.clu c).sendsDone + 1 }))

/-- Tier 3 (R312). Lossless coding loses nothing: for every payload of whole FP32, BF16 or FP16 elements the coded form decodes
to the payload, and the decoder takes exactly the coded bytes, whatever follows them. -/
def Obligations.PayloadCodingLossless : Prop :=
  ∀ (f : Fmt) (els : List Nat) (after : List Byte), f.codable = true → (∀ v ∈ els, v < 2 ^ f.width) →
    let bs := els.flatMap (toBytes (f.width / 8))
    decodePayload f els.length els.length (codePayload f bs ++ after) = some (bs, (codePayload f bs).length)

/-- Tier 2 (R304; R295, R297, R299, R301). A packet head and its payload read back as the packet, for every field value of its
width. Every flit the link logic builds has 256 bytes, its frame 268, and the frame is good at its receiver: the decoder
gives the flit back, whose header, payload and number stand where R297 puts them. -/
def Obligations.PacketsAndFlitsBuilt : Prop :=
  (∀ p : Pkt, p.kind < 2 ^ 8 → p.group < 2 ^ 8 → p.flags < 2 ^ 8 → p.hops < 2 ^ 8 → p.epoch < 2 ^ 32 → p.srcBib < 2 ^ 24 →
    p.window < 2 ^ 8 → p.srcRank < 2 ^ 16 → p.dstRank < 2 ^ 16 → p.route < 2 ^ 48 → p.tensor < 2 ^ 16 → p.dstOff < 2 ^ 40 →
    p.len < 2 ^ 16 → p.rowBase < 2 ^ 24 → p.colBase < 2 ^ 24 → p.colsM1 < 2 ^ 24 → p.elem0 < 2 ^ 32 →
    p.head.length = 48 ∧ Pkt.ofBytes (p.head ++ p.data) = p) ∧
  (∀ (kind vc fseq ack bvc n : Nat) (payload : List Byte), kind ≤ 9 → vc < 4 → fseq < 4096 → ack < 4096 → bvc < 4 → n < 64 →
    let f := mkFlit (n * 2 ^ 34 + bvc * 2 ^ 32 + ack * 2 ^ 20 + fseq * 2 ^ 8 + vc * 16 + kind) payload
    f.length = 256 ∧ (mkFrame f).length = 268 ∧ flitBytes { frame := mkFrame f } = f ∧
      flitGood { frame := mkFrame f } = true ∧ (f.drop 8).take 244 = padTo 244 payload ∧
      bits (leNat (f.take 8)) 3 0 = kind ∧ bits (leNat (f.take 8)) 19 8 = fseq)

/-- Tier 2 (R297, R299, R301, R306, R332). A good flit received on an UP link on which nothing waits to be sent: IDLE_FLIT and
BATON_FLIT release the flits acknowledged and add the batons returned; a HEAD_FLIT with the sequence number expected starts
its packet here when no hop is left, a BODY_FLIT continues it, and the next number is expected; behind a packet that waits
for its epoch either waits; one with another number is discarded. Each of these commands is shown to answer a next state
with its own effect, under conditions on the state and the operands alone: IDLE_FLIT, HEAD_FLIT, BODY_FLIT, BATON_FLIT. -/
def Obligations.FlitsReceived : Prop :=
  ∀ (s : State) (l : Link) (f : Flit), s.linkUp l = true → s.live = true → flitGood f = true → s.linkIdle l →
    let h := leNat ((flitBytes f).take 8)
    let x := s.lnk l
    let p := ((flitBytes f).drop 8).take 244
    let vc := bits h 5 4
    let rx := fun (t : State) =>
      (t.lnk l).replay = ackList (bits h 31 20) x.replay ∧
      (t.lnk l).held = x.held.set (bits h 33 32) (x.held.getD (bits h 33 32) 0 + bits h 39 34) ∧
      (t.lnk l).rxFrame = (x.rxFrame + 1) % 2 ^ 32 ∧ t.mem = s.mem ∧ t.cores = s.cores ∧ t.clus = s.clus ∧
      ∀ k, k ≠ l.val → t.lnk k = s.lnk k
    (∀ q ∈ [(Instr.idleFlit l f, 0), (.batonFlit l f, 4)], bits h 3 0 = q.2 →
      ∃ t, exec q.1 s = .next t ∧ rx t ∧ (t.lnk l).rxSeq = x.rxSeq ∧ (t.lnk l).inbox = x.inbox ∧ (t.lnk l).asm = x.asm) ∧
    (∀ q ∈ [(Instr.headFlit l f, 1), (.bodyFlit l f, 2)], bits h 3 0 = q.2 → bits h 19 8 ≠ x.rxSeq →
      ∃ t, exec q.1 s = .next t ∧ rx t ∧ (t.lnk l).rxSeq = x.rxSeq ∧ (t.lnk l).inbox = x.inbox ∧ (t.lnk l).asm = x.asm) ∧
    (bits h 3 0 = 1 → bits h 19 8 = x.rxSeq → (Pkt.ofBytes p).rlen ≤ (Pkt.ofBytes p).ptr → x.bad = none → s.vcOpen l vc →
      ∃ t, exec (.headFlit l f) s = .next t ∧ rx t ∧ (t.lnk l).rxSeq = (x.rxSeq + 1) % 4096 ∧ (t.lnk l).ackDue = true ∧
        (packetDone p = true → (t.lnk l).inbox = x.inbox ++ [(vc, p)]) ∧
        (packetDone p = false → (t.lnk l).inbox = x.inbox ∧ slFind (t.lnk l).asm vc = some (.deliver p))) ∧
    (∀ b, bits h 3 0 = 2 → bits h 19 8 = x.rxSeq → slFind x.asm vc = some (.deliver b) → x.bad = none → s.vcOpen l vc →
      ∃ t, exec (.bodyFlit l f) s = .next t ∧ rx t ∧ (t.lnk l).rxSeq = (x.rxSeq + 1) % 4096 ∧ (t.lnk l).ackDue = true ∧
        (packetDone (b ++ p) = true → (t.lnk l).inbox = x.inbox ++ [(vc, b ++ p)] ∧ slFind (t.lnk l).asm vc = none) ∧
        (packetDone (b ++ p) = false → (t.lnk l).inbox = x.inbox ∧ slFind (t.lnk l).asm vc = some (.deliver (b ++ p)))) ∧
    (∀ q ∈ [(Instr.headFlit l f, 1), (.bodyFlit l f, 2)], bits h 3 0 = q.2 → bits h 19 8 = x.rxSeq → x.bad = none →
      s.vcHeld l vc = true → ∃ t, exec q.1 s = .next t ∧ rx t ∧ (t.lnk l).rxSeq = (x.rxSeq + 1) % 4096 ∧
        (t.lnk l).inbox = x.inbox ∧ (t.lnk l).asm = x.asm ∧ (t.lnk l).parked = x.parked ++ [(vc, q.2, p)])

/-- Tier 2 (R298, R299, R305, R314, R315, R320, R321, R322, R504; R299, R303, R320, R322). A bad flit of any kind is discarded
and nakked; a head flit whose next hop is not UP is dropped and reported (code 0x0A). Control flits on an UP link on which
nothing waits to be sent: a NAK replays the unacknowledged flits from the one it names; a time message that answers no
exchange is answered, one that does ends it; a heartbeat ends the count of misses; a freeze flit with an id not seen freezes
the module; a planned swap 17 to 64 frames ahead is noted and acknowledged three times, another is the peer's emergency
request; a swap acknowledgement confirms the swap asked for. While the module stands still none is accepted. Timers of an UP
link: a replay time-out sends the unacknowledged flits again and counts a retry; a stalled baton is reported (code 8); a
heartbeat, at a multiple of `hb_us` (R417), and a time exchange send one flit; the third missed heartbeat is reported (code
7) and each further one counted. Each of these commands is shown to answer a next state with its own effect, under
conditions on the state and the operands alone: NAK_FLIT, TIME_FLIT, HEARTBEAT_FLIT, FREEZE_FLIT, SWAP_FLIT, SWAP_ACK_FLIT,
REPLAY_TIMEOUT, TIME_EXCHANGE_DUE, HEARTBEAT_SEND, HEARTBEAT_MISS, BATON_STALL. -/
def Obligations.ControlFlitsAndTimers : Prop :=
  (∀ (s : State) (l : Link) (f : Flit), s.linkUp l = true →
    let h := leNat ((flitBytes f).take 8)
    let x := s.lnk l
    let p := ((flitBytes f).drop 8).take 244
    let quiet := s.live = true ∧ flitGood f = true ∧ f.frame.length = 268 ∧ s.linkIdle l
    let fly := fun (b : List Byte) => Emit.flit l x.tx.act (mkFrame b)
    let all := [(Instr.idleFlit l f), .headFlit l f, .bodyFlit l f, .nakFlit l f, .batonFlit l f, .timeFlit l f,
      .heartbeatFlit l f, .freezeFlit l f, .swapFlit l f, .swapAckFlit l f]
    (∀ q ∈ all, s.live = true → flitGood f = false → x.bad = none → s.host.scanMode = 0 →
      ∃ t, exec q s = .next t ∧ (t.lnk l).bad = some (x.rxSeq, s.ns) ∧ (t.lnk l).rxSeq = x.rxSeq ∧ (t.lnk l).inbox = x.inbox ∧
        t.mem = s.mem ∧ (∃ b, s.sent t [fly b] ∧ bits (leNat (b.take 8)) 3 0 = 3 ∧
          leNat ((b.drop 8).take 2) = x.rxSeq % 65536)) ∧
    (∀ q ∈ all, s.live = false → ∃ t, exec q s = .next t ∧ t = { s with links := t.links } ∧
      t.lnk l = { x with missed := (t.lnk l).missed }) ∧
    (quiet → bits h 3 0 = 1 → bits h 19 8 = x.rxSeq → (Pkt.ofBytes p).ptr < (Pkt.ofBytes p).rlen →
      s.linkUp (hopOf (Pkt.ofBytes p).route (Pkt.ofBytes p).ptr) = false → x.bad = none → s.vcOpen l (bits h 5 4) →
      ∃ t, exec (.headFlit l f) s = .next t ∧ s.reports t R.RLY_STATUS l 0x0A ∧ slFind (t.lnk l).asm (bits h 5 4) = some .drop ∧
        t.get F.RLY_DROP_bib l = (Pkt.ofBytes p).srcBib ∧ (t.lnk l).inbox = x.inbox) ∧
    (quiet → bits h 3 0 = 3 → s.host.scanMode = 0 → ∃ t, exec (.nakFlit l f) s = .next t ∧ t.mem = s.mem ∧
      (t.lnk l).replay = ackList (bits h 31 20) x.replay ∧ ∃ bs : List (List Byte), s.sent t (bs.map fly) ∧
        bs.map (fun b => bits (leNat (b.take 8)) 19 8)
          = ((t.lnk l).replay.dropWhile (fun q => q.1 != leNat (p.take 2) % 4096)).map (fun q => q.1 % 4096)) ∧
    (quiet → bits h 3 0 = 5 → x.exch = none → s.host.scanMode = 0 → ∃ t, exec (.timeFlit l f) s = .next t ∧ t.mem = s.mem ∧
      ∃ b, s.sent t [fly b] ∧ bits (leNat (b.take 8)) 3 0 = 5 ∧ (b.drop 8).take 12 = p.take 12 ∧
        leNat ((b.drop 20).take 8) = s.pacer.time % 2 ^ 64 ∧ leNat ((b.drop 28).take 8) = s.pacer.time % 2 ^ 64) ∧
    (quiet → bits h 3 0 = 5 → x.exch = some (leNat (p.take 4), leNat ((p.drop 4).take 8)) → leNat ((p.drop 12).take 8) ≠ 0 →
      ∃ t, exec (.timeFlit l f) s = .next t ∧ t.mem = s.mem ∧ (t.lnk l).exch = none ∧
        t.get F.RLY_RTT_rtt_last l = rttNs { t1 := leNat ((p.drop 4).take 8), t2 := leNat ((p.drop 12).take 8)
                                             t3 := leNat ((p.drop 20).take 8), t4 := s.pacer.time }) ∧
    (quiet → bits h 3 0 = 6 → ∃ t, exec (.heartbeatFlit l f) s = .next t ∧ t.get F.RLY_HB_missed l = 0 ∧ t.mem = s.mem ∧
      (t.lnk l).hbSuspended = (leNat ((p.drop 3).take 1) == 2)) ∧
    (quiet → bits h 3 0 = 7 → let id := leNat (p.take 2)
      (id ∉ s.frz.seen → ∃ t, exec (.freezeFlit l f) s = .next t ∧ t.frozen = true ∧ id ∈ t.frz.seen ∧
        t.get F.TRC_FRZ_STATE_id 0 = id ∧ t.mem = s.mem) ∧
      (id ∈ s.frz.seen → ∃ t, exec (.freezeFlit l f) s = .next t ∧ t.frozen = false ∧ t.frz = s.frz)) ∧
    (quiet → bits h 3 0 = 8 → s.ctlNew l 8 p → s.host.scanMode = 0 →
      let w : Swap := { out := leNat (p.take 1), inn := leNat ((p.drop 1).take 1), frame := leNat ((p.drop 2).take 4), acked := true }
      let d := (w.frame + 2 ^ 32 - (x.rxFrame + 1) % 2 ^ 32) % 2 ^ 32
      (17 ≤ d → d ≤ 64 → ∃ t, exec (.swapFlit l f) s = .next t ∧ (t.lnk l).rx.swap = some w ∧
        ∃ a b c, s.sent t [fly a, fly b, fly c] ∧
          ∀ y ∈ [a, b, c], bits (leNat (y.take 8)) 3 0 = 9 ∧ (y.drop 8).take 6 = p.take 6) ∧
      (¬(17 ≤ d ∧ d ≤ 64) → ∃ t, exec (.swapFlit l f) s = .next t ∧ t.mem = s.mem ∧
        (t.lnk l).tx.swap = some { w with emergency := true })) ∧
    (quiet → bits h 3 0 = 9 → s.ctlNew l 9 p → ∀ w, x.tx.swap = some w → swapBytes w = p.take 6 →
      ∃ t, exec (.swapAckFlit l f) s = .next t ∧ (t.lnk l).tx.swap = some { w with acked := true } ∧ t.mem = s.mem)) ∧
  (∀ (s : State) (l : Link), s.live = true → s.linkUp l = true →
    let x := s.lnk l
    let fly := fun (b : List Byte) => Emit.flit l x.tx.act (mkFrame b)
    (x.replay ≠ [] → ∃ t, exec (.replayTimeout l) s = .next t ∧ (t.lnk l).replay = x.replay ∧ t.mem = s.mem ∧ t.clus = s.clus ∧
      t.get F.RLY_ERR_CNT_retry l = satInc (s.get F.RLY_ERR_CNT_retry l) 0xFFF ∧
      (s.host.scanMode = 0 → ∃ bs : List (List Byte), s.sent t (bs.map fly) ∧
        bs.map (fun b => bits (leNat (b.take 8)) 19 8) = x.replay.map (fun q => q.1 % 4096))) ∧
    (∀ vc : Fin 4, (x.queue.any fun f => f.vc == vc.val) = true → x.held.getD vc 0 = 0 → ∃ t, exec (.batonStall l vc) s = .next t ∧
      s.reports t R.RLY_STATUS l 8 ∧ t.links = s.links ∧ t.mem = s.mem ∧ (slFind t.waits (linkWaiter l vc)).isSome = true) ∧
    (s.atMultiple (s.get F.RLY_CTRL_hb_us l) = false → exec (.heartbeatSend l) s = .next s) ∧
    (s.host.scanMode = 0 → s.atMultiple (s.get F.RLY_CTRL_hb_us l) = true → ∃ t, exec (.heartbeatSend l) s = .next t ∧ t.regs = s.regs ∧ t.mem = s.mem ∧
      ∃ b, s.sent t [fly b] ∧ bits (leNat (b.take 8)) 3 0 = 6 ∧ leNat ((b.drop 8).take 3) = s.bib ∧
        leNat ((b.drop 11).take 1) = b2n s.flt.degraded) ∧
    (s.host.scanMode = 0 → s.get F.RLY_CTRL_time_ms l ≠ 0 → ∃ t, exec (.timeExchangeDue l) s = .next t ∧ t.regs = s.regs ∧
      t.mem = s.mem ∧ (t.lnk l).msgNo = (x.msgNo + 1) % 2 ^ 32 ∧
      (t.lnk l).exch = some ((x.msgNo + 1) % 2 ^ 32, s.pacer.time % 2 ^ 64) ∧
      ∃ b, s.sent t [fly b] ∧ bits (leNat (b.take 8)) 3 0 = 5) ∧
    (x.hbSuspended = false → (s.get F.RLY_HB_missed l = 0 → ∃ t, exec (.heartbeatMiss l) s = .next t ∧
        t.get F.RLY_HB_missed l = 3 ∧ s.reports t R.RLY_STATUS l 7 ∧ t.links = s.links ∧ t.mem = s.mem) ∧
      (s.get F.RLY_HB_missed l ≠ 0 → ∃ t, exec (.heartbeatMiss l) s = .next t ∧ t.links = s.links ∧
        t.get F.RLY_HB_missed l = satInc (s.get F.RLY_HB_missed l) 0xFF ∧ s.onlyRegs t [R.RLY_HB.addr l])))

/-- Tier 2 (R314 to R317). Lanes: SWAP_NOW and LANE_RETRAIN_DUE ask for a swap 64 frames ahead of an active transmit lane while
the spare is trained and no swap runs; an unanswered request is repeated once and then fails (code 0x10); at the switch
frame the lanes exchange and the lane out is retrained; a retrained lane is the spare again, a second failure quarantines
it; a lock loss on an active lane asks for an emergency swap 16 frames ahead; without a spare, or with the spare taken by
the swap of another lane (R24, R28), it retires the link, as does the switch to a spare that was lost. Each of these
commands is shown to answer a next state with its own effect, under conditions on the state and the operands alone:
SWAP_ACK_TIMEOUT, LANE_SWITCH_FRAME, LANE_LOCK_LOSS, LANE_RETRAIN_DONE, LANE_RETRAIN_DUE, SWAP_NOW. -/
def Obligations.LanesAndSwaps : Prop :=
  ∀ (s : State) (l : Link), s.live = true →
    let x := s.lnk l
    let spare := s.get F.RLY_STATE_tx_spare l
    (∀ (p : Instr) (out : Nat), (p = .swapNow l ∧ s.served .link l 0 = true ∧ out = s.get F.RLY_CTRL_swap_lane l ∨
        p = .laneRetrainDue l ∧ s.get F.RLY_CTRL_retrain_s l ≠ 0 ∧ out = (x.tx.act.find? fun k => decide (x.tx.last < k)).getD (x.tx.act.headD 0)) →
      s.linkUp l = true → s.get F.RLY_STATE_tx_spare_avail l = 1 → x.tx.swap = none → x.tx.retrain = none → out ∈ x.tx.act →
      ∃ t, exec p s = .next t ∧ t.regs = s.regs ∧ t.mem = s.mem ∧ (t.lnk l).tx.last = out ∧ (t.lnk l).tx.act = x.tx.act ∧
        (t.lnk l).tx.swap = some { out := out, inn := spare, frame := (x.txFrame + 64) % 2 ^ 32, tries := 1 }) ∧
    (∀ w, x.tx.swap = some w → w.acked = false →
      (w.tries ≤ 1 → ∃ t, exec (.swapAckTimeout l) s = .next t ∧ t.regs = s.regs ∧
        (t.lnk l).tx.swap = some { out := w.out, inn := spare, frame := (x.txFrame + 64) % 2 ^ 32, tries := 2 }) ∧
      (2 ≤ w.tries → ∃ t, exec (.swapAckTimeout l) s = .next t ∧ s.reports t R.RLY_STATUS l 0x10 ∧ t.mem = s.mem ∧
        t.lnk l = { x with tx := { x.tx with swap := none } })) ∧
    (∀ rx w, (if rx = true then x.rx else x.tx).swap = some w → w.acked = true → s.get (spareAvail rx) l = 0 → s.linkUp l = true →
      ∃ t, exec (.laneSwitchFrame l rx) s = .next t ∧ t.get F.RLY_STATE_state l = 5 ∧ t.get F.RLY_STATUS_code l = 6) ∧
    (∀ rx w, (if rx = true then x.rx else x.tx).swap = some w → w.acked = true → w.out < 8 → s.get (spareAvail rx) l = 1 →
      ∃ t, exec (.laneSwitchFrame l rx) s = .next t ∧ t.mem = s.mem ∧ t.get (spareAvail rx) l = 0 ∧ t.get (spareLane rx) l = w.out ∧
        (if rx = true then (t.lnk l).rx else (t.lnk l).tx) = { (if rx = true then x.rx else x.tx) with
          act := insLane w.inn ((if rx = true then x.rx else x.tx).act.filter (· != w.out))
          retrain := if s.quarIs 5 (laneUnit l rx w.out) = true then none else some (w.out, 0), swap := none } ∧
        (rx = true → w.emergency = true → s.reports t R.RLY_STATUS l 4)) ∧
    (∀ rx lane n, (if rx = true then x.rx else x.tx).retrain = some (lane, n) →
      (∃ t, exec (.laneRetrainDone l rx true) s = .next t ∧ t.get (spareAvail rx) l = 1 ∧
        (if rx = true then (t.lnk l).rx else (t.lnk l).tx).retrain = none) ∧
      (n = 0 → ∃ t, exec (.laneRetrainDone l rx false) s = .next t ∧ t.regs = s.regs ∧
        (if rx = true then (t.lnk l).rx else (t.lnk l).tx).retrain = some (lane, 1)) ∧
      (n ≠ 0 → lane ∉ (if rx = true then x.rx else x.tx).act → ∃ t, exec (.laneRetrainDone l rx false) s = .next t ∧ t.get (spareAvail rx) l = 0 ∧
        t.get F.RLY_STATUS_code l = 5 ∧ t.quarIs 5 (l.val * 256 + b2n rx * 128 + lane) = true)) ∧
    (∀ lane : Fin 5, s.linkUp l = true →
      (lane.val ∈ x.rx.act → s.get F.RLY_STATE_rx_spare_avail l = 1 → x.rx.swap = none → ∃ t, exec (.laneLockLoss l lane) s = .next t ∧
        t.regs = s.regs ∧ (t.lnk l).rx.swap = some { out := lane, inn := s.get F.RLY_STATE_rx_spare l
                                                     frame := (x.rxFrame + 16) % 2 ^ 32, acked := true, emergency := true }) ∧
      (lane.val ∈ x.rx.act → (∀ w, x.rx.swap = some w → w.out ≠ lane.val) →
        s.get F.RLY_STATE_rx_spare_avail l = 0 ∨ x.rx.swap ≠ none → ∃ t, exec (.laneLockLoss l lane) s = .next t ∧
        t.get F.RLY_STATE_state l = 5 ∧ t.get F.RLY_STATUS_code l = 6) ∧
      (∀ w, lane.val ∈ x.rx.act → x.rx.swap = some w → w.out = lane.val → exec (.laneLockLoss l lane) s = .next s) ∧
      (∀ w, lane.val ∉ x.rx.act → x.rx.swap = some w → w.emergency = true → ∃ t, exec (.laneLockLoss l lane) s = .next t ∧
        t.get F.RLY_STATE_state l = 5 ∧ t.get F.RLY_STATUS_code l = 6) ∧
      (lane.val ∉ x.rx.act → (∀ w, x.rx.swap = some w → w.emergency = false) → ∃ t, exec (.laneLockLoss l lane) s = .next t ∧ t.get F.RLY_STATE_rx_spare_avail l = 0 ∧
        (t.lnk l).rx.retrain = some (lane.val, 0) ∧ s.onlyRegs { t with links := s.links } [R.RLY_STATE.addr l]))

/-- Tier 2 (R317 to R320, R356, R364). Link states: enabling a DOWN link starts training (without a valid bib it stays DOWN),
disabling one that is not retired returns it to DOWN; a detected signal starts the attempt; an attempt with at least 4 good
lanes in each direction, none of them quarantined, goes to ALIGN, with the spare available where all 5 passed; the first
failed attempt is retried, the second retires the link; in ALIGN a time message is answered; an exchange with the peer
expected brings the link UP with the peer's batons, and one with another peer is reported (code 2); a link under
requalification has passed when it comes UP, and failed when it retires or is disabled; a retirement ends in RETIRED and
drops what was queued. Each of these commands is shown to answer a next state with its own effect, under conditions on the
state and the operands alone: TIME_FLIT, LINK_RETIRE, LINK_ENABLE, PEER_SIGNAL_DETECT, TRAIN_ATTEMPT_END, TRAIN_RETRY,
ALIGN_DONE. -/
def Obligations.LinkStates : Prop :=
  ∀ (s : State) (l : Link),
    let x := s.lnk l
    let st := s.get F.RLY_STATE_state l
    (s.live = true → s.domOn (.link l) = true →
      (st = 0 → ∃ t, exec (.linkEnable l true) s = .next t ∧ t.get F.RLY_CTRL_enable l = 1 ∧
        t.get F.RLY_STATE_state l = (if s.get F.HUB_ID_BIB_bib_valid 0 = 1 then 1 else 0) ∧
        s.onlyRegs t [R.RLY_STATE.addr l, R.RLY_CTRL.addr l]) ∧
      (st ≠ 5 → x.requal = true → ∃ t, exec (.linkEnable l false) s = .next t ∧ t.get F.RLY_STATE_state l = 5 ∧ s.fltSays t 6 l 7) ∧
      (st ≠ 5 → x.requal = false → ∃ t, exec (.linkEnable l false) s = .next t ∧ t.get F.RLY_STATE_state l = 0 ∧ t.get F.RLY_CTRL_enable l = 0 ∧
        t.lnk l = { aligned := x.aligned, alignNs := x.alignNs } ∧ s.regsBut t [R.RLY_STATE.addr l, R.RLY_CTRL.addr l])) ∧
    (s.live = true → st = 1 →
      (x.training = false → x.trainTries = 0 → exec (.peerSignalDetect l) s = .next (s.setLnk l { x with training := true })) ∧
      (x.training = false → x.trainTries = 1 → exec (.trainRetry l) s = .next (s.setLnk l { x with training := true })) ∧
      (∀ tg rg : List (Fin 5), x.training = true →
        let nt := ((tg.map Fin.val).filter fun k => !s.quarIs 5 (laneUnit l false k)).eraseDups.length
        let nr := ((rg.map Fin.val).filter fun k => !s.quarIs 5 (laneUnit l true k)).eraseDups.length
        (4 ≤ nt → 4 ≤ nr → ∃ t, exec (.trainAttemptEnd l tg rg) s = .next t ∧ t.get F.RLY_STATE_state l = 2 ∧
          (t.lnk l).tx.act.length = 4 ∧ (t.lnk l).rx.act.length = 4 ∧ (∀ k ∈ (t.lnk l).tx.act, k ∈ tg.map Fin.val ∧ s.quarIs 5 (laneUnit l false k) = false) ∧
          (∀ k ∈ (t.lnk l).rx.act, k ∈ rg.map Fin.val ∧ s.quarIs 5 (laneUnit l true k) = false) ∧ t.get F.RLY_STATE_tx_spare l ∉ (t.lnk l).tx.act ∧
          (t.get F.RLY_STATE_tx_spare_avail l = 1 ↔ nt = 5) ∧ (t.get F.RLY_STATE_rx_spare_avail l = 1 ↔ nr = 5) ∧
          (s.host.scanMode = 0 → s.sent t [.align l s.bib l]) ∧
          s.regsBut t [R.RLY_STATE.addr l]) ∧
        (¬(4 ≤ nt ∧ 4 ≤ nr) → x.trainTries = 0 → exec (.trainAttemptEnd l tg rg) s
          = .next (s.setLnk l { x with training := false, trainTries := 1 })) ∧
        (¬(4 ≤ nt ∧ 4 ≤ nr) → x.trainTries ≠ 0 → ∃ t, exec (.trainAttemptEnd l tg rg) s = .next t ∧
          t.get F.RLY_STATE_state l = 5 ∧ t.get F.RLY_STATUS_code l = 1 ∧ (x.requal = true → s.fltSays t 6 l 7)))) ∧
    (s.live = true → st = 2 → s.host.scanMode = 0 → ∀ f : Flit, flitGood f = true → f.frame.length = 268 →
      let p := (flitBytes f).drop 8
      bits (leNat ((flitBytes f).take 8)) 3 0 = 5 → leNat ((p.drop 12).take 16) = 0 →
      ∃ t b, exec (.timeFlit l f) s = .next t ∧ t.regs = s.regs ∧ s.sent t [.flit l x.tx.act (mkFrame b)] ∧
        bits (leNat (b.take 8)) 3 0 = 5 ∧ (b.drop 8).take 12 = p.take 12 ∧
        leNat ((b.drop 20).take 8) = s.pacer.time % 2 ^ 64 ∧ leNat ((b.drop 28).take 8) = s.pacer.time % 2 ^ 64) ∧
    (s.live = true → st = 2 → ∀ peer : AlignPeer,
      let ok := s.get F.RLY_PEER_EXPECT_any l = 1 ∨
        (s.get F.RLY_PEER_EXPECT_link l = peer.link.toNat ∧ s.get F.RLY_PEER_EXPECT_bib l = peer.bib.toNat)
      ∀ e es, peer.exch = e :: es → es.length = 15 →
      ∃ t, exec (.alignDone l peer) s = .next t ∧ t.get F.RLY_PEER_link l = peer.link.toNat ∧
        t.get F.RLY_PEER_bib l = peer.bib.toNat ∧
        (¬ok → s.reports t R.RLY_STATUS l 2 ∧ t.get F.RLY_STATE_state l = 2 ∧ t.links = s.links) ∧
        (ok → t.get F.RLY_STATE_state l = 3 ∧ t.get F.RLY_HB_missed l = 0 ∧ (t.lnk l).aligned = true ∧
          (t.lnk l).alignNs = s.ns ∧ t.get F.RLY_RTT_rtt_ns l = rttNs (bestExch e es) ∧
          t.get64 R.RLY_OFFSET_LO R.RLY_OFFSET_HI l = unsx 64 (exchOff (bestExch e es)) ∧
          (t.lnk l).requal = false ∧ (x.requal = true → s.fltSays t 6 l 6) ∧
          (x.queue = [] → (t.lnk l).held = (List.range 4).map (fun v => 8 * (peer.batons.toNat / 2 ^ (8 * v) % 256))))) ∧
    (s.served .link l 0 = true → st ≠ 5 → ∃ t, exec (.linkRetire l) s = .next t ∧ t.get F.RLY_STATE_state l = 5 ∧
      t.get F.RLY_STATUS_code l = 6 ∧ (t.lnk l).queue = [] ∧ (t.lnk l).replay = [] ∧ t.mem = s.mem)

/-- Tier 2 (R309, R311, R331, R336, R337, R341, R348). The oldest packet of a channel, when it is of the command's kind: from a
foreign or stale sender it is taken out and counted; of a later epoch it is held. Accepted, a subtree sum or a slice joins
the inputs of its segment, unless that segment is combined or given up; a data packet lands in its window, where no upset
waits and no channel is out of service, and the window's count grows by its length, and it writes no other byte, or is
reported when the window is not valid or lies in a quarantined channel (code 0x0E) or is too small (0x0F); a result is
written to the segment's destination. Each of these commands is shown to answer a next state with its own effect, under
conditions on the state and the operands alone: DATA_PACKET, REDUCE_UP, RESULT_DOWN, GATHER_UP, GATHER_DOWN. -/
def Obligations.PacketsReach : Prop :=
  ∀ (s : State) (l : Link) (vc : Fin 4) (b : List Byte),
    let p := Pkt.ofBytes b
    let kinds := [(Instr.dataPacket l vc, 1), (.reduceUp l vc, 2), (.resultDown l vc, 3), (.gatherUp l vc, 4), (.gatherDown l vc, 5)]
    (∀ q ∈ kinds, s.packetIs l vc q.2 b →
      (s.epochCheck p = .held → exec q.1 s = .next s) ∧
      (s.epochCheck p = .foreign → ∃ t, exec q.1 s = .next t ∧ s.reports t R.GRP_STATUS 0 3 ∧ t.mem = s.mem ∧
        t.get F.GRP_STALE_CNT_foreign 0 = satInc (s.get F.GRP_STALE_CNT_foreign 0) 0xFFFF ∧
        (t.lnk l).inbox = (s.lnk l).inbox.erase (vc.val, b)) ∧
      (s.epochCheck p = .stale → ∃ t, exec q.1 s = .next t ∧ t.mem = s.mem ∧
        t.get F.GRP_STALE_CNT_stale 0 = satInc (s.get F.GRP_STALE_CNT_stale 0) 0xFFFF ∧
        (t.lnk l).inbox = (s.lnk l).inbox.erase (vc.val, b) ∧ s.regsBut t [R.GRP_STALE_CNT.addr 0])) ∧
    (∀ q ∈ [(Instr.reduceUp l vc, 2), (.gatherUp l vc, 4)], s.packetIs l vc q.2 b → s.epochCheck p = .accepted → s.segOver p = true →
      ∃ t, exec q.1 s = .next t ∧ t.mem = s.mem ∧ t.red = s.red ∧ t.regs = s.regs ∧ t.waits = s.waits) ∧
    (∀ q ∈ [(Instr.reduceUp l vc, 2), (.gatherUp l vc, 4)], s.packetIs l vc q.2 b → s.epochCheck p = .accepted → s.segOver p = false →
      ∃ t, exec q.1 s = .next t ∧ t.mem = s.mem ∧ t.red.segs = s.red.segs ∧
        (slFind s.waits (redWaiter p.group p.tensor) = none → t.regs = s.regs) ∧
        t.red.inp = s.red.inp ++ [{ group := p.group, seg := p.tensor, rank := p.srcRank, elem0 := p.elem0
                                    data := p.data.take p.len }]) ∧
    (s.packetIs l vc 1 b → s.epochCheck p = .accepted →
      let a := s.landAt p.window
      let ok := bit (s.ldH (a + 24) 1) 0 = true ∧ bits (s.ldH (a + 24) 1) 7 2 = 0 ∧ s.ldH (a + 25) 7 = 0
      (¬ok → ∃ t, exec (.dataPacket l vc) s = .next t ∧ s.reports t R.RLY_LAND_STATUS 0 0x0E ∧ t.mem = s.mem) ∧
      (ok → s.ldH (a + 8) 8 < p.dstOff + p.len → ∃ t, exec (.dataPacket l vc) s = .next t ∧
        s.reports t R.RLY_LAND_STATUS 0 0x0F ∧ t.mem = s.mem) ∧
      (∀ q, ok → p.dstOff + p.len ≤ s.ldH (a + 8) 8 → placeReserved (s.ldH a 8) = false →
        s.resolve (s.ldH a 8) (p.dstOff + p.len) = .ok q → q < 2 ^ 41 → s.hbmBad q (q + p.dstOff + p.len) = true →
        ∃ t, exec (.dataPacket l vc) s = .next t ∧ s.reports t R.RLY_LAND_STATUS 0 0x0E ∧ t.mem = s.mem) ∧
      (∀ q, ok → p.dstOff + p.len ≤ s.ldH (a + 8) 8 → placeReserved (s.ldH a 8) = false →
        s.resolve (s.ldH a 8) (p.dstOff + p.len) = .ok q → s.hbmQuiet → s.sramQuiet →
        let w := q + p.dstOff
        let n := (payloadOf p).length
        let cnt := (a + 16) % 2 ^ 41
        (w + n ≤ cnt ∨ cnt + 8 ≤ w) → ∃ t, exec (.dataPacket l vc) s = .next t ∧ t.regs = s.regs ∧
          t.ldBytes w n = payloadOf p ∧ t.ld cnt 8 = (s.ld cnt 8 + p.len) % 2 ^ 64 ∧
          slFind t.landBib p.window = some p.srcBib ∧
          ∀ x, (x < w ∨ w + n ≤ x) → (x < cnt ∨ cnt + 8 ≤ x) → Mem.get t.mem x = Mem.get s.mem x)) ∧
    (∀ q ∈ [(Instr.resultDown l vc, 3), (.gatherDown l vc, 5)], s.packetIs l vc q.2 b → s.epochCheck p = .accepted →
      ∀ (k : Seg) (src dst : Nat), s.red.segs[p.tensor]? = some k → k.io = .places src dst → s.red.phase ≠ 0 →
        k.group = p.group → k.up = true → k.op ≠ 2 → k.got < s.segTotal k →
        (let m := Mem.write s.mem (dst + redSize k.op * p.elem0) (p.data.take p.len)
         k.got + (p.data.take p.len).length / redSize k.op < State.segTotal { s with mem := m } k) →
        (∀ i, s.red.stop = some i → p.tensor < i) →
        ∃ t, exec q.1 s = .next t ∧
          t.ldBytes (dst + redSize k.op * p.elem0) (p.data.take p.len).length = p.data.take p.len ∧
          t.red.segs = s.red.segs.set p.tensor { k with got := k.got + (p.data.take p.len).length / redSize k.op } ∧
          s.memBut t (dst + redSize k.op * p.elem0) (p.data.take p.len).length)

/-- Tier 2 (R366, R367, R371, R435). Beats and probes: at a multiple of `beat_us` (R417) a member's beat goes to every tree
neighbour; a neighbour that missed 3 beats is counted and reported (code 9), and so is each further miss; a beat ends the
count, suspends it for 100 ms, or confirms a failure at the judge; the judge of a suspicion probes the suspect; a probe is
answered; a reply clears the suspicion or confirms the failure; an unanswered probe is repeated once, then confirms it. A
packet that fails the checks of R371 is counted as foreign. Each of these commands is shown to answer a next state with its
own effect, under conditions on the state and the operands alone: BEAT_SEND, BEAT_MISS, BEAT, SUSPECT, PROBE, PROBE_REPLY,
PROBE_TIMEOUT. -/
def Obligations.BeatsAndProbes : Prop :=
  ∀ (s : State) (g : Group) (l : Link) (vc : Fin 4) (b : List Byte),
    let p := Pkt.ofBytes b
    let key := mbrKey p.group p.srcRank
    let hop := fun r => hopOf (mem.route (s.grpMember g r)) 0
    (s.atMultiple (s.get F.GRP_MBR_CFG_beat_us 0) = false → exec (.beatSend g) s = .next s) ∧
    (s.live = true → s.grpValid g = true → s.atMultiple (s.get F.GRP_MBR_CFG_beat_us 0) = true → ∃ t, exec (.beatSend g) s = .next t ∧ t.mem = s.mem ∧ t.mbr = s.mbr ∧
      ∀ k : Link, t.txCount k = s.txCount k + ((s.neighbours g).filter (fun r =>
        mem.rlen (s.grpMember g r) % 8 != 0 && s.linkUp (hop r) && hop r == k.val)).length) ∧
    (∀ nb : Nat, s.live = true → s.grpValid g = true → nb ∈ s.neighbours g → (s.nbr g nb).suspended ≤ s.ns →
      ∃ t, exec (.beatMiss g nb) s = .next t ∧ s.reports t R.GRP_STATUS 0 9 ∧ t.get F.GRP_STATUS_group 0 = g.val ∧
        (t.nbr g nb).missed = (if (s.nbr g nb).missed < 3 then 3 else min 255 ((s.nbr g nb).missed + 1)) ∧ t.mem = s.mem) ∧
    (s.memberIs l vc 0x10 b → beatOk p = true →
      (p.f 0 1 = 0 → ∃ t, exec (.beat l vc) s = .next t ∧ t.nbr p.group p.srcRank = { last := s.ns } ∧ t.mem = s.mem ∧
        t.regs = s.regs ∧ t.mbr.confirmed = s.mbr.confirmed) ∧
      (p.f 0 1 = 2 → ∃ t, exec (.beat l vc) s = .next t ∧
        t.nbr p.group p.srcRank = { last := s.ns, suspended := s.ns + 100000000 } ∧ t.mem = s.mem ∧ t.regs = s.regs) ∧
      (p.f 0 1 = 1 → s.judgeOf p.group p.srcRank = s.grpSelf p.group → ∃ t, exec (.beat l vc) s = .next t ∧
        key ∈ t.mbr.confirmed ∧ t.mem = s.mem ∧ t.regs = s.regs)) ∧
    (s.memberIs l vc 0x11 b → p.f 6 2 = 0 → let r := p.f 0 2
      s.judgeOf p.group r = s.grpSelf p.group → mem.bib (s.grpMember p.group r) = p.f 2 3 →
      slFind s.mbr.probes (mbrKey p.group r) = none → mbrKey p.group r ∉ s.mbr.confirmed → r ∈ s.liveRanks p.group →
      r ≠ s.grpSelf p.group → ∃ t, exec (.suspect l vc) s = .next t ∧ t.mem = s.mem ∧
        t.mbr.probeNo = (s.mbr.probeNo + 1) % 2 ^ 32 ∧
        slFind t.mbr.probes (mbrKey p.group r) = some ((s.mbr.probeNo + 1) % 2 ^ 32, 1)) ∧
    (s.memberIs l vc 0x12 b → p.f 5 3 = 0 → p.f 4 1 = 1 ∨ p.f 4 1 = 2 → ∃ t, exec (.probe l vc) s = .next t ∧ t.mem = s.mem ∧
      t.mbr = s.mbr ∧ (let e := s.grpMember p.group p.srcRank
        mem.rlen e % 8 ≠ 0 → s.linkUp (hopOf (mem.route e) 0) = true →
          t.txCount (hopOf (mem.route e) 0) = s.txCount (hopOf (mem.route e) 0) + 1)) ∧
    (s.memberIs l vc 0x13 b → p.f 4 1 ≤ 2 → p.f 5 3 = 0 → ∀ a, slFind s.mbr.probes key = some (p.f 0 4, a) →
      ∃ t, exec (.probeReply l vc) s = .next t ∧ slFind t.mbr.probes key = none ∧ t.mem = s.mem ∧ t.regs = s.regs ∧
        (p.f 4 1 ≠ 1 → t.mbr.confirmed = s.mbr.confirmed) ∧ (p.f 4 1 = 1 → key ∈ t.mbr.confirmed)) ∧
    (∀ r n a : Nat, s.live = true → slFind s.mbr.probes (mbrKey g r) = some (n, a) →
      (a = 1 → ∃ t, exec (.probeTimeout g r) s = .next t ∧ t.mem = s.mem ∧
        slFind t.mbr.probes (mbrKey g r) = some ((s.mbr.probeNo + 1) % 2 ^ 32, 2)) ∧
      (a ≠ 1 → ∃ t, exec (.probeTimeout g r) s = .next t ∧ t = { s with mbr := t.mbr } ∧ mbrKey g r ∈ t.mbr.confirmed ∧
        slFind t.mbr.probes (mbrKey g r) = none)) ∧
    (∀ q ∈ [(Instr.beat l vc, 0x10), (.suspect l vc, 0x11), (.probe l vc, 0x12), (.probeReply l vc, 0x13), (.decree l vc, 0x14)],
      s.packetIs l vc q.2 b → Pkt.reservedSet b = true ∨ p.plainHead = false ∨ s.bookFind p.srcBib = none →
      ∃ t, exec q.1 s = .next t ∧ s.reports t R.GRP_STATUS 0 3 ∧ t.mbr = s.mbr ∧ t.mem = s.mem ∧
        t.get F.GRP_STALE_CNT_foreign 0 = satInc (s.get F.GRP_STALE_CNT_foreign 0) 0xFFFF)

/-- Tier 2 (R333, R338, R367, R368, R371). An advance of the selected group takes the next epoch and member array when they are
pending, later and valid (the header is said of a module with no list running, whose results could be written anywhere), and
drops the received inputs of the group; else it is refused (code 2) and the pending mark cleared. The end of a batch window
with failures issues one decree, adopted here too; without one it does nothing. A decree is kept until whole; one that
contradicts the first of its epoch, adopted or refused, is reported (code 0x0B) and ends this member's votes; one for a
group that is not valid and that does not name this module is foreign (R371); one of an epoch not later than the group's is
dropped; one that names this rank to another takes the group out (code 0x0D); one with a member the route book does not hold
is reported (code 0x0C) and kept as the first of its epoch; any other is adopted, and so is one that names this module. Each
of these commands is shown to answer a next state with its own effect, under conditions on the state and the operands alone:
GRP_ADVANCE, DECREE_BATCH_END, DECREE. -/
def Obligations.AdvanceAndDecrees : Prop :=
  ∀ (s : State) (l : Link) (vc : Fin 4) (b : List Byte),
    let p := Pkt.ofBytes b
    (s.served .groups 0 0 = true → let g := s.get F.GRP_SEL_group 0
      let fl := s.grpF g 15 1
      let next := s.grpF g 4 4
      let good := bit fl 1 = true ∧ s.grpEpoch g < next ∧ next ≠ 0xFFFFFFFF ∧ s.grpOk g (s.grpF g 24 8) = true
      (good → ∃ t, exec .grpAdvance s = .next t ∧ (∀ q ∈ t.red.inp, q.group ≠ g) ∧ (s.red.phase = 0 →
        t.grpEpoch g = next ∧ t.grpMem g = s.grpF g 24 8 ∧ bit (t.grpF g 15 1) 1 = false)) ∧
      (¬good → ∃ t, exec .grpAdvance s = .next t ∧ t.grpEpoch g = s.grpEpoch g ∧ bit (t.grpF g 15 1) 1 = false ∧
        s.reports t R.GRP_STATUS 0 2 ∧ s.memBut t ((s.grpAt g + 15) % 2 ^ 41) 1)) ∧
    (∀ g : Group, let failed := sortOn id ((s.mbr.confirmed.filter (fun k => k / 65536 == g.val)).map (fun k => k % 65536))
      (failed = [] → exec (.decreeBatchEnd g) s = .next s) ∧
      (failed ≠ [] → s.live = true → s.grpValid g = true → slFind s.mbr.adopted g = none → slFind s.mbr.refused g = none →
        let ents := s.assign g failed []
        (∀ q ∈ ents, q.2 ≠ some s.bib ∧ q.1 ≠ s.grpSelf g ∧ ∀ x, q.2 = some x → (s.bookFind x).isSome = true) →
        ∃ t, exec (.decreeBatchEnd g) s = .next t ∧ (∀ k ∈ t.mbr.confirmed, k / 65536 ≠ g.val) ∧
          slFind t.mbr.adopted g = some { group := g, epoch := s.grpEpoch g + 1, base := s.grpEpoch g, total := ents.length
                                          ents := ents })) ∧
    (s.memberIs l vc 0x14 b → decreeOk p = true →
      let d : Decree := { group := p.group, epoch := p.f 0 4, base := p.f 4 4, total := p.f 8 4, ents := decreeEnts p }
      let g := p.group
      (∀ x ∈ s.mbr.parts, ¬(x.group = g ∧ x.epoch = d.epoch ∧ x.total = d.total)) →
      (d.ents.length < d.total → ∃ t, exec (.decree l vc) s = .next t ∧ t.mbr.parts = s.mbr.parts ++ [d] ∧ t.mem = s.mem ∧
        t.regs = s.regs) ∧
      (d.total ≤ d.ents.length →
        (∀ a, slFind s.mbr.adopted g = some a ∨ slFind s.mbr.refused g = some a → a.epoch = d.epoch → a.ents ≠ d.ents →
          s.grpValid g = true ∨ (∃ q ∈ d.ents, q.2 = some s.bib) → ∃ t, exec (.decree l vc) s = .next t ∧
          g ∈ t.mbr.noVote ∧ s.reports t R.GRP_STATUS 0 0x0B ∧ t.mem = s.mem) ∧
        (s.grpValid g = false → (∀ q ∈ d.ents, q.2 ≠ some s.bib) → d.total ≤ 1918 → ∃ t, exec (.decree l vc) s = .next t ∧
          s.reports t R.GRP_STATUS 0 3 ∧ t.mbr = s.mbr ∧ t.mem = s.mem ∧
          t.get F.GRP_STALE_CNT_foreign 0 = satInc (s.get F.GRP_STALE_CNT_foreign 0) 0xFFFF) ∧
        (slFind s.mbr.adopted g = none → slFind s.mbr.refused g = none → s.grpValid g = true →
          (d.epoch ≤ s.grpEpoch g → ∃ t, exec (.decree l vc) s = .next t ∧ t.mbr = s.mbr ∧ t.mem = s.mem ∧ t.regs = s.regs) ∧
          (s.grpEpoch g < d.epoch → (∀ q ∈ d.ents, q.2 ≠ some s.bib) →
            (s.grpSelf g ∈ d.ents.map (·.1) → ∃ t, exec (.decree l vc) s = .next t ∧ t.grpValid g = false ∧
              t.get F.GRP_STATUS_code 0 = 0x0D ∧ s.memBut t ((s.grpAt g + 15) % 2 ^ 41) 1) ∧
            (s.grpSelf g ∉ d.ents.map (·.1) → (∃ q ∈ d.ents, ∃ x, q.2 = some x ∧ s.bookFind x = none) →
              ∃ t, exec (.decree l vc) s = .next t ∧ s.reports t R.GRP_STATUS 0 0x0C ∧ t.mem = s.mem ∧
                t.mbr = { s.mbr with refused := slSet s.mbr.refused g d }) ∧
            (s.grpSelf g ∉ d.ents.map (·.1) → (∀ q ∈ d.ents, ∀ x, q.2 = some x → (s.bookFind x).isSome = true) →
              ∃ t, exec (.decree l vc) s = .next t ∧ slFind t.mbr.adopted g = some d ∧ g ∉ t.mbr.noVote))) ∧
        (slFind s.mbr.adopted g = none → slFind s.mbr.refused g = none → (s.grpValid g = true → s.grpEpoch g < d.epoch) → (∃ q ∈ d.ents, q.2 = some s.bib) →
          (∀ q ∈ d.ents, ∀ x, q.2 = some x → x = s.bib ∨ (s.bookFind x).isSome = true) →
            ∃ t, exec (.decree l vc) s = .next t ∧ slFind t.mbr.adopted g = some d ∧ g ∉ t.mbr.noVote)))

/-- Tier 2 (R258, R388, R390, R392, R393, R395, R396, R405). SNP_NOW makes the next commit a snapshot lap. A transfer reads the
next chunk, or takes what was read of it before, digests it and fails a copy whose first hop is down; where its read fails
the run fails; a run whose copies are all settled ends. An acknowledgement that matches advances its copy, a mismatch sends
the chunk again once, and a second of the same chunk fails the copy; the word on the manifest completes the copy or fails
it. A ward's chunk is written to its slot and nowhere else and recorded; a manifest that does not fit leaves the slot
unfinished; from any other sender a chunk is refused (code 5) and a manifest is dropped. Each of these commands is shown to
answer a next state with its own effect, under conditions on the state and the operands alone: CHUNK_TO_BUDDY, CHUNK_ACK,
MANIFEST_TO_BUDDY, SNAPSHOT_TRANSFER, SNP_NOW, MANIFEST_ACKNOWLEDGEMENT. -/
def Obligations.SnapshotCopies : Prop :=
  ∀ (s : State) (l : Link) (vc : Fin 4) (b : List Byte),
    let p := Pkt.ofBytes b
    let k := p.f 8 4
    (s.served .snap 0 0 = true → exec .snpNow s = .next { s with snp := { s.snp with now := true } }) ∧
    (∀ r, s.snp.run = some r → s.live = true → r.next < r.n →
      (slFind r.sent r.next = none → (s.runMeet r r.next).2 = true → (∀ c ∈ r.copies, c.complete = false) →
        ∃ t, exec .snapshotTransfer s = .next t ∧ t.snp.run = none ∧ s.reports t R.SNP_STATUS 0 3) ∧
      ∀ bs, slFind r.sent r.next = some bs ∨ (slFind r.sent r.next = none ∧ s.hbmQuiet ∧ bs = s.runChunk r r.next) →
      let d := chunkDigest (s.runH r) r.next bs
      let copies := r.copies.map (fun c => { c with ok := c.ok && (c.complete || s.snpRoute c.bib) })
      let run := { r with next := r.next + 1, digests := r.digests ++ [d], copies := copies, sent := slSet r.sent r.next bs }
      ((copies.any fun c => c.ok && !c.complete) = true → ∃ t, exec .snapshotTransfer s = .next t ∧
        s.snpOnly t { s.snp with run := some run }) ∧
      ((∀ c ∈ copies, c.ok = false) → (∀ c ∈ copies, c.complete = false) → ∃ t, exec .snapshotTransfer s = .next t ∧
        s.snpOnly t { s.snp with run := none } ∧ s.reports t R.SNP_STATUS 0 3)) ∧
    (∀ r i c, s.snpIs l vc 0x19 b → s.ackOk p = true → s.copyOf p = some (r, i, c) →
      (k < r.next → k ≠ 0xFFFFFFFF →
        (p.f 12 1 = 0 → k ∉ c.acks → c.acks.length + 1 ≠ r.n → ∃ t, exec (.chunkAck l vc) s = .next t ∧
          let r' := { r with copies := r.copies.set i { c with acks := c.acks ++ [k] } }
          s.snpOnly t { s.snp with run := (State.sentDrop { s with snp := { s.snp with run := some r' } } k).snp.run }) ∧
        (p.f 12 1 = 1 → k ∉ c.resent → ∃ t, exec (.chunkAck l vc) s = .next t ∧
          s.snpOnly t { s.snp with run := some { r with copies := r.copies.set i { c with resent := c.resent ++ [k] } } }) ∧
        (p.f 12 1 = 1 → k ∈ c.resent → ((r.copies.set i { c with ok := false }).any fun c => c.ok && !c.complete) = true →
          ∃ t, exec (.chunkAck l vc) s = .next t ∧
            s.snpOnly t { s.snp with run := some { r with copies := r.copies.set i { c with ok := false } } })) ∧
      (k = 0xFFFFFFFF → c.manifest = true →
        let c' := if p.f 12 1 = 0 then { c with complete := true } else { c with ok := false }
        (((r.copies.set i c').any fun c => c.ok && !c.complete) = true → ∃ t,
          exec (.manifestAcknowledgement l vc) s = .next t ∧
            s.snpOnly t { s.snp with run := some { r with copies := r.copies.set i c' } }) ∧
        (((r.copies.set i c').any fun c => c.ok && !c.complete) = false →
          let n := ((r.copies.set i c').filter fun c => c.complete).length
          ∃ t, exec (.manifestAcknowledgement l vc) s = .next t ∧ t.snp.run = none ∧ t.mem = s.mem ∧
            s.reports t R.SNP_STATUS 0 (if n = 2 then 1 else if n = 1 then 2 else 3) ∧
            (n = 2 → t.get F.SNP_LAST_lap 0 = r.lap % 2 ^ 32)))) ∧
    (s.snpIs l vc 0x18 b → chunkHdrOk p 0 = true →
      (s.wardOf p.srcBib = none → ∃ t, exec (.chunkToBuddy l vc) s = .next t ∧ s.reports t R.SNP_STATUS 0 5 ∧
        s.snpOnly t s.snp) ∧
      (∀ w, s.wardOf p.srcBib = some w → (s.ward w).2.1 = false →
        let j := s.slotFor w (p.f 0 8)
        let x := if (s.slot w j).st = 1 ∧ (s.slot w j).lap = p.f 0 8 then s.slot w j else { lap := p.f 0 8, st := 1 }
        let got := (p.data.take p.len).drop 88
        let digest := ((p.data.take p.len).drop 24).take 64
        let a := s.slotBase w j + 2 ^ 23 + k * 2 ^ 26
        (p.f 20 1 = 3 → k < s.slotChunks → ∃ t, exec (.chunkToBuddy l vc) s = .next t ∧ t.ldBytes a got.length = got ∧
          s.memBut t a got.length ∧ t.slot w j = { x with chunks := slSet x.chunks k got.length, digests := slSet x.digests k digest } ∧
          t.freeCtr = s.freeCtr + 1 ∧ t.snp.run = s.snp.run ∧ t.lap = s.lap) ∧
        (p.f 20 1 = 1 → ∃ t, exec (.chunkToBuddy l vc) s = .next t ∧ t.slot w j = x ∧ t.mem = s.mem ∧
          slFind t.snp.rxBuf w = some (digest, got)))) ∧
    (s.snpIs l vc 0x1A b →
      (s.wardOf p.srcBib = none → ∃ t, exec (.manifestToBuddy l vc) s = .next t ∧ t.rd R.SNP_STATUS 0 = s.rd R.SNP_STATUS 0 ∧
        s.snpOnly t s.snp) ∧
      (∀ w, s.wardOf p.srcBib = some w → (s.ward w).2.1 = false →
        let j := s.slotFor w (p.f 0 8)
        let m := (p.data.take p.len).drop 16
        let x := { s.slot w j with manifest := m }
        (s.slot w j).st = 1 → (s.slot w j).lap = p.f 0 8 → p.f 12 4 = 0 → k ≤ 2 ^ 23 →
        (m.length < k → ∃ t, exec (.manifestToBuddy l vc) s = .next t ∧ t.slot w j = x ∧ t.mem = s.mem) ∧
        (k ≤ m.length → ∃ t, exec (.manifestToBuddy l vc) s = .next t ∧ t.ldBytes (s.slotBase w j) m.length = m ∧
          s.memBut t (s.slotBase w j) m.length ∧ (at_ m 0 4 ≠ 1 ∨ at_ m 4 3 ≠ p.srcBib ∨ at_ m 8 8 ≠ p.f 0 8 → t.slot w j = x))))

/-- Tier 2 (R394, R397, R398, R405). A restore that is written disarms the start timer, ends snapshot, fills and the lap, and,
without a local copy, asks the first source, or ends (code 8) when no route leads to either; one written while a restore
runs changes nothing. A vault holder answers a fetch only for a complete slot of that writer and lap. A reply gathers the
manifest; one that fits starts the chunks, one that does not ends the restore when no source is left (code 8); a chunk that
fails its digest at the last source ends it too (code 9). Each of these commands is shown to answer a next state with its
own effect, under conditions on the state and the operands alone: RESTORE_FETCH_REQUEST, RESTORE_FETCH_REPLY, SNP_RESTORE. -/
def Obligations.RestoreFetches : Prop :=
  ∀ (s : State) (l : Link) (vc : Fin 4) (b : List Byte),
    let p := Pkt.ofBytes b
    let d := s.ldBytes ((s.get F.SNP_RESTORE_HI_desc_hi 0 * 2 ^ 32 + s.get F.SNP_RESTORE_LO_desc 0 * 64) % 2 ^ 41) 64
    ((s.snp.restore).isSome = true → exec .snpRestore s = .next s) ∧
    (s.snp.restore = none → s.served .snap 0 0 = true → rst.local_ d = 0 → s.snpRoute (rst.src d 1) = false → s.snpRoute (rst.src d 2) = false →
      ∃ t, exec .snpRestore s = .next t ∧ t.snp.restore = none ∧ s.reports t R.SNP_STATUS 0 8 ∧ t.get F.PCR_SPT_CTRL_arm 0 = 0 ∧
        t.mem = s.mem) ∧
    (s.snp.restore = none → s.served .snap 0 0 = true → rst.local_ d = 0 → s.snpRoute (rst.src d 1) = true → ∃ t, exec .snpRestore s = .next t ∧
      t.snp.restore = some { desc := d, src := 1, srcs := [2] } ∧ t.snp.run = none ∧ t.snp.own = none ∧ t.snp.serve = [] ∧
      t.get F.PCR_SPT_CTRL_arm 0 = 0 ∧ t.pacer.lapDue = none ∧ t.mem = s.mem ∧
      (s.lap.step ≠ 0 → ∀ c ∈ s.allClus, (t.clu c).abandoned = true)) ∧
    (s.snpIs l vc 0x1C b → s.hbmQuiet → p.f 11 1 = 0 → ∃ t, exec (.restoreFetchRequest l vc) s = .next t ∧ s.snpOnly t s.snp ∧
      ∀ w j e, s.wardOf (p.f 8 3) = some w → ([0, 1, 2].find? fun j => (s.slot w j).st == 2 && (s.slot w j).lap == p.f 0 8) = some j →
        s.bookFind p.srcBib = some e → mem.rlen e % 8 ≠ 0 → s.linkUp (hopOf (mem.route e) 0) = true →
        (p.f 12 4 = 0xFFFFFFFF ∧ (s.slot w j).manifest ≠ []) ∨ (p.f 12 4 ≠ 0xFFFFFFFF ∧ (slFind (s.slot w j).chunks (p.f 12 4)).isSome = true) →
        s.txCount (hopOf (mem.route e) 0) < t.txCount (hopOf (mem.route e) 0)) ∧
    (∀ r, s.snpIs l vc 0x1D b → s.snp.restore = some r → r.src ≠ 0 → p.srcBib = rst.src r.desc r.src → p.f 3 1 = 0 →
      p.f 0 3 = rst.bib r.desc → p.f 4 8 = rst.lap r.desc →
      (r.manifest = none →
        let bs := (p.data.take p.len).drop 20
        let m := if p.f 16 4 = 0 then bs else r.buf ++ bs
        (m.length < p.f 12 4 → ∃ t, exec (.restoreFetchReply l vc) s = .next t ∧
          s.snpOnly t { s.snp with restore := some { r with buf := m } }) ∧
        (p.f 12 4 ≤ m.length → s.manifestFits r.desc m = true → r.chunk < at_ m 40 4 → s.snpRoute (rst.src r.desc r.src) = true → ∃ t,
          exec (.restoreFetchReply l vc) s = .next t ∧
          s.snpOnly t { s.snp with restore := some { r with manifest := some m, buf := [], home := r.src, rest := r.srcs } }) ∧
        (p.f 12 4 ≤ m.length → s.manifestFits r.desc m = false → r.srcs = [] → ∃ t,
          exec (.restoreFetchReply l vc) s = .next t ∧ s.snpOnly t { s.snp with restore := none } ∧
          s.reports t R.SNP_STATUS 0 8)) ∧
      (∀ m, r.manifest = some m → p.f 12 4 = r.chunk → chunkHdrOk p 4 = true → p.f 24 1 = 3 →
        let buf := ((p.data.take p.len).drop 28).drop 64
        let good := chunkDigest (m.take 48) r.chunk buf = manifestDigest m r.chunk ∧ buf.length = chunkLen m r.chunk
        (¬good → r.srcs = [] → ∃ t, exec (.restoreFetchReply l vc) s = .next t ∧
          s.snpOnly t { s.snp with restore := none } ∧ s.reports t R.SNP_STATUS 0 9) ∧
        (good → r.chunk + 1 < at_ m 40 4 → r.home ≠ 0 → s.snpRoute (rst.src r.desc r.home) = true → ∃ t, exec (.restoreFetchReply l vc) s = .next t ∧
          s.snpOnly t { s.snp with restore := some { r with got := r.got ++ buf, chunk := r.chunk + 1, buf := [], src := r.home,
                                                            srcs := r.rest } })))

/-- Tier 2 (R400 to R404). A whole lap cut of a predecessor is kept as its newest; a spare keeps the cut of its rank, and asks
for the lap that the cut tells it when it has no other. A fill request between a commit verdict and the next start hurdle
waits, any other is served from the first chunk wanted. A chunk that matches its digest is accepted, one that matches under
an earlier request comes to nothing, any other is asked for once more, and a second failure without another holder ends the
fill as a rollback (code 0x10). An acknowledgement lets the next chunk follow, or sends the chunk again once. A fill done
marks the fill and ends its service. Each of these commands is shown to answer a next state with its own effect, under
conditions on the state and the operands alone: LAP_CUT, FILL_REQUEST, FILL_CHUNK, FILL_ACK, FILL_DONE. -/
def Obligations.FillTraffic : Prop :=
  ∀ (s : State) (l : Link) (vc : Fin 4) (b : List Byte),
    let p := Pkt.ofBytes b
    (s.fillIs l vc 0x1B b → p.f 10 2 = 0 → p.f 20 4 = 0 → p.f 16 4 = 0 →
      let cut := (p.data.take p.len).drop 24
      p.f 12 4 ≤ cut.length →
      (s.snp.own = none → p.srcRank = p.f 8 2 → ∃ t, exec (.lapCut l vc) s = .next t ∧ t.mem = s.mem ∧ t.regs = s.regs ∧
        (slGet [] t.snp.cuts (p.f 8 2)).head? = some (p.f 0 8, cut) ∧ (slGet [] t.snp.cuts (p.f 8 2)).length ≤ 2) ∧
      (∀ f, s.snp.own = some f → f.rank = p.f 8 2 →
        let cuts := f.cut.filter (fun x => x.1 != p.f 0 8) ++ [(p.f 0 8, cut)]
        let lap := (p.f 0 8 + 1) % 2 ^ 64
        let fits := f.next ≠ 0 ∨ (f.lap = lap ∧ f.pos = at_ cut 8 8) ∨ ∃ x ∈ cuts, (x.1 + 1) % 2 ^ 64 = f.lap
        (fits → ∃ t, exec (.lapCut l vc) s = .next t ∧ t.mem = s.mem ∧ t.regs = s.regs ∧ t.snp.own = some { f with cut := cuts }) ∧
        (¬fits → ∃ t g, exec (.lapCut l vc) s = .next t ∧ t.mem = s.mem ∧ t.snp.own = some g ∧ g.lap = lap ∧ g.pos = at_ cut 8 8 ∧
          g.cut = cuts ∧ g.holder = f.holder))) ∧
    (s.fillIs l vc 0x20 b → p.f 0 4 = 1 → p.f 7 1 = 0 → p.f 30 2 = 0 → p.f 36 4 = 0 → p.len = 48 →
      let req := p.data.take 48
      (s.fillHeld = true → ∃ t, exec (.fillRequest l vc) s = .next t ∧ t.regs = s.regs ∧
        s.snpOnly t { s.snp with late := s.snp.late ++ [(p.srcRank, req)] }) ∧
      (s.fillHeld = false → s.hbmQuiet → ∃ t, exec (.fillRequest l vc) s = .next t ∧
        let v : FillServe := { rank := at_ req 28 2, spare := mem.bib (s.grpMember s.dp p.srcRank), spareRank := p.srcRank
                               req := req, chunk := at_ req 32 4 }
        s.snpOnly t { s.snp with serve := (s.snp.serve.filter fun x => x.rank != v.rank) ++ [v] })) ∧
    (∀ f, s.fillIs l vc 0x21 b → s.snp.own = some f → p.f 6 2 = 0 → p.f 21 3 = 0 → p.f 0 4 = f.epoch → p.f 4 2 = f.rank →
      p.srcRank = f.holder → p.f 8 4 = f.next →
      let body := (p.data.take p.len).drop 24
      let buf := body.drop 64
      let good := chunkDigest f.req f.next buf = body.take 64 ∧ buf.length = p.f 12 4
      (p.f 20 1 = 1 → ∃ t, exec (.fillChunk l vc) s = .next t ∧ t.regs = s.regs ∧
        s.snpOnly t { s.snp with own := some { f with digest := body.take 64, buf := buf } }) ∧
      (p.f 20 1 = 3 → good → f.next + 1 < s.fillN → ∃ t, exec (.fillChunk l vc) s = .next t ∧
        s.snpOnly t { s.snp with own := some { f with next := f.next + 1, stream := f.stream ++ buf, buf := [], digest := []
                                                      resent := false } }) ∧
      let old := ∃ h ∈ f.olds, chunkDigest h f.next buf = body.take 64
      (p.f 20 1 = 3 → ¬good → old → ∃ t, exec (.fillChunk l vc) s = .next t ∧ t.regs = s.regs ∧
        s.snpOnly t { s.snp with own := some { f with buf := [], digest := [] } }) ∧
      (p.f 20 1 = 3 → ¬good → ¬old → f.resent = false → ∃ t, exec (.fillChunk l vc) s = .next t ∧
        s.snpOnly t { s.snp with own := some { f with buf := [], digest := [], resent := true } }) ∧
      (p.f 20 1 = 3 → ¬good → ¬old → f.resent = true → s.holders f.rank = [f.holder] → ∃ t, exec (.fillChunk l vc) s = .next t ∧
        t.snp.own = none ∧ s.reports t R.SNP_STATUS 0 0x10 ∧ t.mem = s.mem)) ∧
    (∀ v, s.fillIs l vc 0x22 b → s.hbmQuiet → p.f 6 2 = 0 → p.f 13 3 = 0 →
      (s.snp.serve.find? fun v => v.rank == p.f 4 2 && v.spareRank == p.srcRank && v.chunk == p.f 8 4) = some v →
      let rest := s.snp.serve.filter (· != v)
      (p.f 12 1 = 0 → v.chunk + 1 < s.fillN → ∃ t, exec (.fillAck l vc) s = .next t ∧
        s.snpOnly t { s.snp with serve := rest ++ [{ v with chunk := v.chunk + 1, resent := false }] }) ∧
      ((p.f 12 1 = 0 ∧ s.fillN ≤ v.chunk + 1) ∨ (p.f 12 1 = 1 ∧ v.resent = true) → ∃ t, exec (.fillAck l vc) s = .next t ∧
        s.snpOnly t { s.snp with serve := rest }) ∧
      (p.f 12 1 = 1 → v.resent = false → ∃ t, exec (.fillAck l vc) s = .next t ∧
        s.snpOnly t { s.snp with serve := rest ++ [{ v with resent := true }] })) ∧
    (s.fillIs l vc 0x23 b → p.f 6 1 ≤ 1 → p.f 7 1 = 0 → p.f 14 2 = 0 → ∃ t, exec (.fillDone l vc) s = .next t ∧ t.mem = s.mem ∧
      (∀ f ∈ t.snp.fills, f.rank = p.f 4 2 → f.epoch = p.f 0 4 → f.done = true) ∧
      (∀ v ∈ t.snp.serve, v.rank ≠ p.f 4 2) ∧
      (s.snp.own = none → (∀ f ∈ s.snp.fills, f.done = true ∨ f.spare ≠ s.bib) → p.f 6 1 = 1 → s.reports t R.SNP_STATUS 0 0x10))

/-- Tier 2 (R28, R29, R356, R357, R360 to R363, R365, R374, R380). FAULT_QUARANTINE of a unit: a reserved value is refused (code
0x0A), a unit whose procedure runs is left alone (code 0x0B), neither changing the remap table; a link becomes RETIRED;
every other unit is in quarantine afterwards. An active core gives its position to the lowest-numbered good, unused core of
its cluster; an active cluster to the lowest-numbered good, unused cluster of its die, and its own domain goes off; where
the die holds a position, the mapping in effect stays until the next start hurdle, and the unit is to be refilled. A
steward's active sources are pending again. An HBM channel degrades the module. A column that is the excluded one takes away
the spare; another one is excluded next while the spare is available and no other column waits for it, and else its core is
retired. A die whose position the alternate can take waits for the takeover; without one the module is degraded; an
alternate without a position loses its role. While a takeover runs in the quadrant, the spare of another die's core or
cluster waits for its end. Each of these commands is shown to answer a next state with its own effect, under conditions on
the state and the operands alone: FAULT_QUARANTINE. -/
def Obligations.QuarantineRemaps : Prop :=
  ∀ (s : State) (k : BitVec 4) (w : BitVec 24), s.served .fault 0 0 = true →
    let kind := k.toNat
    let u := w.toNat
    let core := unitCore u
    let clu := unitClu u
    let cores := s.mapped.activeCores core.clu
    let clus := s.mapped.activeClus clu.die
    (fltUnitOk kind u = false → ∃ t, exec (.faultQuarantine k w) s = .next t ∧ s.fltSays t kind u 0x0A ∧ s.onlyEvent t fltAddrs) ∧
    (fltUnitOk kind u = true → s.fltBusy kind u = true →
      ∃ t, exec (.faultQuarantine k w) s = .next t ∧ s.fltSays t kind u 0x0B ∧ s.onlyEvent t fltAddrs) ∧
    (fltUnitOk kind u = true → s.fltBusy kind u = false → ∃ t, exec (.faultQuarantine k w) s = .next t ∧
      (kind = 6 → t.get F.RLY_STATE_state (bits u 5 0) = 5) ∧
      (kind ≠ 6 → t.quarIs kind u = true) ∧
      (∀ x ∈ s.flt.quar, x ∈ t.flt.quar) ∧ (5 ≤ kind → t.mem = s.mem) ∧
      (kind = 2 → s.quarIs 2 u = false → s.flt.alt ≠ some core.clu.die.val → s.takeoverNear core.clu.die = true →
        t.flt.coreMap = s.flt.coreMap ∧ t.flt.coreNext = s.flt.coreNext ∧
        t.flt.queued = s.flt.queued ++ [(s.ns, 2 * 2 ^ 24 + coreUnit core)]) ∧
      (kind = 3 → s.quarIs 3 u = false → s.flt.alt ≠ some clu.die.val → s.takeoverNear clu.die = true →
        t.flt.cluMap = s.flt.cluMap ∧ t.flt.cluNext = s.flt.cluNext ∧
        t.flt.queued = s.flt.queued ++ [(s.ns, 3 * 2 ^ 24 + cluUnit clu)]) ∧
      (kind = 2 → s.quarIs 2 u = false → s.flt.takeovers = [] → core.core.val ∈ cores → ∀ n < 52, n ∉ cores →
        s.quarIs 2 (coreUnit (coreNo core.clu n)) = false →
        (∀ m < n, m ∈ cores ∨ s.quarIs 2 (coreUnit (coreNo core.clu m)) = true) →
        t.mapped.activeCores core.clu = replaceN core.core n cores ∧ t.mem = s.mem ∧ t.flt.dirty = true ∧
        (s.holdsPos core.clu = true → t.activeCores core.clu = s.activeCores core.clu ∧ (t.clu core.clu).refillPend = true ∧
          2 * 2 ^ 24 + coreUnit (coreNo core.clu n) ∈ t.flt.mapDue)) ∧
      (kind = 3 → s.quarIs 3 u = false → s.flt.takeovers = [] → clu.cl.val ∈ clus → ∀ n < 105, n ∉ clus →
        s.quarIs 3 (cluUnit (cluNo clu.die n)) = false →
        (∀ m < n, m ∈ clus ∨ s.quarIs 3 (cluUnit (cluNo clu.die m)) = true) →
        t.mapped.activeClus clu.die = replaceN clu.cl n clus ∧ t.dom (.cluster clu) = .off ∧ t.flt.dirty = true ∧
        (clu.die.val ∈ s.flt.dieMap → t.activeClus clu.die = s.activeClus clu.die ∧ t.dom (.cluster (cluNo clu.die n)) = .on ∧
          (t.clu (cluNo clu.die n)).refillPend = true ∧ 3 * 2 ^ 24 + cluUnit (cluNo clu.die n) ∈ t.flt.mapDue)) ∧
      (kind = 4 → s.quarIs 4 u = false → clu.die.val ∉ s.flt.dieMap → s.flt.alt = some clu.die.val → t.flt.alt = none ∧
        t.flt.takeovers = s.flt.takeovers) ∧
      (kind = 4 → s.quarIs 4 u = false → clu.die.val ∈ s.flt.dieMap → s.flt.alt ≠ some clu.die.val → t.flt.dieMap = s.flt.dieMap ∧
        (s.altFor clu.die = true → t.flt.takeovers = s.flt.takeovers ++ [clu.die.val]) ∧
        (s.altFor clu.die = false → t.flt.takeovers = s.flt.takeovers ∧ t.flt.degraded = true)) ∧
      (kind = 7 → s.quarIs 7 u = false → t.flt.degraded = true) ∧
      (kind = 9 → s.quarIs 9 u = false → t.stack u = [] ∧ ∀ p ∈ s.stack u, p.1 < 4096 → t.srcPend p.1 = true) ∧
      (kind = 1 → let c := coreU core
        let ex := s.get F.CORE_COLMAP_retired_col c
        let next := s.get F.CORE_COLMAP_retired_col_next c
        let col := bits u 5 0
        let free := s.flag F.CORE_COLMAP_spare_avail c = true ∧
          (next = ex ∨ next = col ∨ s.quarIs 1 (unitOf core.clu.die core.clu.cl core.core next) = false)
        (col = ex → t.get F.CORE_COLMAP_spare_avail c = 0) ∧
        (col ≠ ex → free → t.get F.CORE_COLMAP_retired_col_next c = col ∧ t.flt.coreMap = s.flt.coreMap) ∧
        (col ≠ ex → ¬free → t.quarIs 2 (coreUnit core) = true)))

/-- Tier 2 (R102, R360, R364, R374, R378, R380). FAULT_REQUALIFY: a unit that is not out of service is left alone; one that
passes leaves quarantine (a die becomes the alternate, a lane's spare and an excluded column's spare are back) and code 6 is
reported; one that fails stays, the failure is logged and code 7 reported; a retired link trains anew, and what comes of it
decides (LinkStates). FAULT_TEST reports the outcome and changes no unit. A column or a core with a column found lasting
fails, a cluster with more than 2 such cores, a die with more than 5 such clusters. Each of these commands is shown to
answer a next state with its own effect, under conditions on the state and the operands alone: FAULT_REQUALIFY, FAULT_TEST. -/
def Obligations.RequalifyAndTest : Prop :=
  ∀ (s : State) (k : BitVec 4) (w : BitVec 24) (found : UnitFound), s.served .fault 0 0 = true →
    let kind := k.toNat
    let u := w.toNat
    let bad := found.cols.filter fun p => colIn kind u (p.core, p.col)
    let good := found.passes = true ∧ colsPass kind ((bad.filter fun p => p.last).map fun p => p.core) = true
    fltUnitOk kind u = true → s.fltBusy kind u = false →
    (∃ t, exec (.faultTest k w found) s = .next t ∧ s.fltSays t kind u (if good then 6 else 7) ∧ t.flt = s.flt ∧
      t.mem = s.mem ∧ (bad = [] → s.onlyEvent t fltAddrs)) ∧
    (s.unitOut kind u = false → exec (.faultRequalify k w found) s = .next s) ∧
    (kind = 6 → s.unitOut kind u = true → ∃ t, exec (.faultRequalify k w found) s = .next t ∧
      t.get F.RLY_STATE_state (bits u 5 0) = 1 ∧ (t.lnk (bits u 5 0)).requal = true ∧
      s.onlyRegs { t with links := s.links } [R.RLY_STATE.addr (bits u 5 0)]) ∧
    (kind ≠ 6 → s.unitOut kind u = true → ¬good →
      ∃ t, exec (.faultRequalify k w found) s = .next t ∧ s.fltSays t kind u 7 ∧ t.flt = s.flt ∧ t.mem = s.mem ∧
        (bad = [] → Mem.wf s.flash = true → s.logged t kind u 5 0 ∧
          s.onlyEvent { t with flash := s.flash } (R.HUB_FLT_LOG_HEAD.addr 0 :: fltAddrs))) ∧
    (kind ≠ 6 → s.unitOut kind u = true → good →
      ∃ t, exec (.faultRequalify k w found) s = .next t ∧ s.fltSays t kind u 6 ∧ t.unitOut kind u = false ∧
        t.mem = s.mem ∧ t.flt.dirty = true ∧ (∀ x, x ≠ kind * 2 ^ 24 + u → (x ∈ t.flt.quar ↔ x ∈ s.flt.quar)) ∧
        (bad = [] → Mem.wf s.flash = true → s.logged t kind u 4 0) ∧
        (kind = 4 → t.flt.alt = some (bits u 23 19)) ∧ (kind ≠ 4 → t.flt.alt = s.flt.alt) ∧
        (kind = 5 → t.get (if bit u 7 then F.RLY_STATE_rx_spare_avail else F.RLY_STATE_tx_spare_avail) (bits u 13 8) = 1) ∧
        (kind = 1 → s.get F.CORE_COLMAP_retired_col (coreU (unitCore u)) = bits u 5 0 →
          t.get F.CORE_COLMAP_spare_avail (coreU (unitCore u)) = 1))

/-- Tier 2 (R17, R358, R359, R362, R363, R376, R377). TAKEOVER: the alternate, when it can and no step on it fails (which is a
free value), gets the oldest retired die's position and the retired die becomes the alternate; else the position stays and
the module is degraded (said where no other fault waits for the takeover, or another takeover follows). REFILL, after which
the unit's refresh runs again, ends the refill of a remapped cluster; the governor area comes back from the mirror (shown
for a cluster without scale and scout tables and a store that holds no section). REMAP_PERSIST writes the table in effect
over the copy with the lower generation, while the clocks run. Each of these commands is shown to answer a next state with
its own effect, under conditions on the state and the operands alone: REFILL, TAKEOVER, REMAP_PERSIST. -/
def Obligations.TakeoverRefillPersist : Prop :=
  ∀ s : State,
    (∀ d rest, s.live = true → d ≤ 16 → s.flt.takeovers = d :: rest →
      let s' := { s with freeCtr := s.freeCtr + 1 }
      let moved (t : State) : Prop := t.flt.takeovers = rest ∧ (∀ a, s.flt.alt = some a → t.flt.dieMap = replaceN d a s.flt.dieMap) ∧
        t.flt.alt = some d ∧ t.get F.HUB_FLT_STATUS_code 0 = 4 ∧ t.get F.HUB_FLT_UNIT_unit 0 = unitOf d 0 0 0
      let failed (t : State) : Prop := t.flt.takeovers = rest ∧ t.flt.dieMap = s.flt.dieMap ∧ t.flt.alt = s.flt.alt ∧
        t.flt.degraded = true ∧ s'.onlyEvent { t with flt := s.flt } fltAddrs
      exec .takeover s = .next (s'.takeover (Config.free s.freeCtr % 2 == 1)) ∧ (s.flt.queued = [] ∨ rest ≠ [] →
      (s.altFor d = true → s.flt.alt.isSome = true → moved (s'.takeover false)) ∧
      (∀ fails, fails = true ∨ s.altFor d = false → failed (s'.takeover fails)))) ∧
    (∀ c : Clu, s.live = true → (s.clu c).refillPend = true → (s.mapped.logClu c).isSome = true →
      ∃ t, exec (.refill c) s = .next t ∧ (t.clu c).refillPend = false ∧ (t.clu c).refreshPend = true ∧ t.flt = s.flt ∧
        (∀ a, Mem.wf s.mem = true → s.img.store = [] → s.mapped.mirrorAt c = some a → s.get F.CLU_SCALE_CFG_entries (cluU c) = 0 →
          s.get F.SCT_CFG_entries (cluU c) = 0 →
          let n := 64 * s.get F.GOV_CFG_layers (cluU c) + 16 * s.get F.GOV_CFG_rules (cluU c)
          let g := poolAt c (s.get F.GOV_CFG_base (cluU c) * 4096)
          t.ldBytes g n = s.ldBytes (a % 2 ^ 41) n ∧ s.memBut t g n)) ∧
    (s.live = true → s.flt.dirty = true → ∃ t, exec .remapPersist s = .next t ∧ t = { s with flt := t.flt } ∧ t.flt.dirty = false ∧
      t.flt.toRemapTable = s.flt.toRemapTable ∧
      let g := max s.flt.copy0.gen s.flt.copy1.gen + 1
      let good (x : RemapCopy) : Prop := x.gen = g ∧ x.tab.dieMap = s.flt.dieMap ∧ x.tab.coreMap = s.flt.coreMap ∧
        x.tab.cluMap = s.flt.cluMap ∧ ∀ q ∈ s.flt.quar, q / 2 ^ 24 ≠ 6 → q / 2 ^ 24 ≠ 9 → q ∈ x.tab.quar
      (s.flt.copy0.gen ≤ s.flt.copy1.gen → good t.flt.copy0 ∧ t.flt.copy1 = s.flt.copy1) ∧
      (s.flt.copy1.gen < s.flt.copy0.gen → good t.flt.copy1 ∧ t.flt.copy0 = s.flt.copy0)) ∧
    (s.live = false ∨ s.flt.dirty = false → exec .remapPersist s = .next s)

/-- Tier 2 (R410, R411, R412; R409, R412, R415, R416, R435, R438, R450). SYNC_MARK: when site time is LOCKED and the code of the
last mark gave this mark's time, the error is formed and shown: with a load due and no run the counter is loaded; behind by
more than 1 ms it steps forward (code 4); else it slews, and ahead by more than 1 ms that is reported (code 5). A code that
fails its CRC is discarded and reported (code 6); the first good one leads from FREE to ACQUIRE; the second of two
consecutive ones leads to LOCKED (code 1). MARK_MISSING reports the second missing mark in a row (code 2); SYNC_CLK_LOSS
enters HOLDOVER (code 3), SYNC_CLK_RETURN returns to LOCKED; PCR_RESYNC is refused during a run (code 9) and else loads at
the next mark. Before stage 0x01 nothing runs. SPLIT_TIMER_ARM: SPT0 to SPT2 ignore it (code 7); another timer is armed
under a granted claim, of class 3 when it is a freeze source, and takes a target that is not reserved; without a claim it is
not armed. SPLIT_TIMER_FIRE does nothing before the compare value; then the action is delivered, or waits while the clocks
stand; a one-shot disarms; a periodic timer's compare value goes to the first instant in the future on its grid, and the
periods passed over count in `missed`. That the empty step is a tick of site time is the model's choice (log 5): it adds 4
ns, or 1/256 ns less or more while an error is slewed (said of a module in which no restore, Judge command, image load or
application, Blocks entry or wake is under way). Each of these commands is shown to answer a next state with its own effect,
under conditions on the state and the operands alone: SYNC_MARK, MARK_MISSING, SYNC_CLK_LOSS, SYNC_CLK_RETURN, PCR_RESYNC,
SPLIT_TIMER_ARM, SPLIT_TIMER_FIRE. -/
def Obligations.SiteTime : Prop :=
  ((∀ (s : State) (code : BitVec 80) (tdc : Fin 64) (m v : Nat), s.stage ≠ 0 → s.pacer.markS = some m →
    s.get F.PCR_STATE_lock 0 = 2 → codeS code.toNat = some v → v ≠ 0 → s.pacer.lastS = some (v - 1) →
    s.pacer.time < 2 ^ 72 →
    let x : Int := ((s.pacer.time + 16 * tdc.val : Nat) : Int) - ((m * 256000000000 + (s.rd R.PCR_DELAY 0).toNat : Nat) : Int)
    let load := s.pacer.loadNext && !s.inRun
    ∃ t, exec (.syncMark code tdc) s = .next t ∧ t.get F.PCR_MARK_ERR_err 0 = clamp32 x ∧ t.get F.PCR_STATE_missed_marks 0 = 0 ∧
      t.pacer.markS = some v ∧ t.pacer.loadNext = false ∧ t.mem = s.mem ∧
      (load = true ∨ x < -256000000 → t.pacer.time = (s.pacer.time - x).toNat % 2 ^ 72 ∧ t.pacer.slew = 0) ∧
      (load = false → -256000000 ≤ x → t.pacer.time = s.pacer.time ∧ t.pacer.slew = x) ∧
      (load = false → x < -256000000 → s.reports t R.PCR_STATUS 0 4) ∧
      (load = false → 256000000 < x → s.reports t R.PCR_STATUS 0 5) ∧
      (load = true ∨ (-256000000 ≤ x ∧ x ≤ 256000000) → t.rd R.PCR_STATUS 0 = s.rd R.PCR_STATUS 0)) ∧
  (∀ (s : State) (code : BitVec 80) (tdc : Fin 64), s.stage ≠ 0 → s.pacer.markS = none →
    (codeS code.toNat = none → ∃ t, exec (.syncMark code tdc) s = .next t ∧ s.reports t R.PCR_STATUS 0 6 ∧
      t.pacer.time = s.pacer.time ∧ t.get F.PCR_STATE_lock 0 = s.get F.PCR_STATE_lock 0 ∧ t.pacer.lastS = none) ∧
    (∀ v, codeS code.toNat = some v → s.get F.PCR_STATE_lock 0 = 0 → s.pacer.lastS = none →
      ∃ t, exec (.syncMark code tdc) s = .next t ∧ t.get F.PCR_STATE_lock 0 = 1 ∧ t.pacer.lastS = some v ∧
        t.pacer.time = s.pacer.time ∧ t.rd R.PCR_STATUS 0 = s.rd R.PCR_STATUS 0) ∧
    (∀ v, codeS code.toNat = some v → s.get F.PCR_STATE_lock 0 = 1 → v ≠ 0 → s.pacer.lastS = some (v - 1) →
      1 ≤ s.pacer.goodCodes → ∃ t, exec (.syncMark code tdc) s = .next t ∧ t.get F.PCR_STATE_lock 0 = 2 ∧
        s.reports t R.PCR_STATUS 0 1 ∧ t.pacer.time = s.pacer.time)) ∧
  (∀ s : State, s.stage = 0 → ∀ c ∈ [Instr.markMissing, .syncClkLoss, .syncClkReturn], exec c s = .next s) ∧
  (∀ s : State, s.stage ≠ 0 → let n := satInc (s.get F.PCR_STATE_missed_marks 0) 0xFF
    ∃ t, exec .markMissing s = .next t ∧ t.get F.PCR_STATE_missed_marks 0 = n ∧ t.pacer = { s.pacer with markS := none } ∧
      (n = 2 → s.reports t R.PCR_STATUS 0 2) ∧
      (n ≠ 2 → s.onlyRegs { t with pacer := s.pacer } [R.PCR_STATE.addr 0])) ∧
  (∀ s : State, s.stage ≠ 0 → (s.get F.PCR_STATE_lock 0 = 3 → exec .syncClkLoss s = .next s) ∧
    (s.get F.PCR_STATE_lock 0 ≠ 3 → exec .syncClkReturn s = .next s ∧ ∃ t, exec .syncClkLoss s = .next t ∧
      t.get F.PCR_STATE_lock 0 = 3 ∧ s.reports t R.PCR_STATUS 0 3 ∧ s.onlyEvent t [R.PCR_STATE.addr 0, R.PCR_STATUS.addr 0]) ∧
    (s.get F.PCR_STATE_lock 0 = 3 → ∃ t, exec .syncClkReturn s = .next t ∧ t.get F.PCR_STATE_lock 0 = 2 ∧
      s.reports t R.PCR_STATUS 0 1 ∧ s.onlyEvent t [R.PCR_STATE.addr 0, R.PCR_STATUS.addr 0])) ∧
  (∀ s : State, s.stage ≠ 0 → (s.lap.lam ≠ 0 ∨ s.lap.step ≠ 0 → ∃ t, exec .pcrResync s = .next t ∧ s.reports t R.PCR_STATUS 0 9 ∧
      s.onlyEvent t [R.PCR_STATUS.addr 0]) ∧
    (s.lap.lam = 0 → s.lap.step = 0 → exec .pcrResync s = .next { s with pacer := { s.pacer with loadNext := true } }))) ∧
  ((∀ (s : State) (n : Fin 32) (v : Word), s.stage ≠ 0 → let u := n.val
    (u < 3 → ∃ t, exec (.splitTimerArm n v) s = .next t ∧ s.reports t R.PCR_STATUS 0 7 ∧ t.get F.PCR_STATUS_timer 0 = u ∧
      s.onlyEvent t [R.PCR_STATUS.addr 0]) ∧
    let tgt := if bits v.toNat 7 4 = 0 ∨ bits v.toNat 7 4 = 4 then bits v.toNat 7 4 else s.get F.PCR_SPT_CTRL_target u
    let claimed := ∃ k ∈ s.claims, k.granted = true ∧ k.res = 2 ∧ k.id = u ∧ (tgt ≠ 4 ∨ k.cls = 3)
    (3 ≤ u → bit v.toNat 0 = true → claimed → ∃ t, exec (.splitTimerArm n v) s = .next t ∧
      t.get F.PCR_SPT_CTRL_arm u = 1 ∧ t.get F.PCR_SPT_CTRL_periodic u =
        (if s.get F.PCR_SPT_PERIOD_period u = 0 then s.get F.PCR_SPT_CTRL_periodic u else bits v.toNat 1 1) ∧
      t.get F.PCR_SPT_CTRL_irq u = bits v.toNat 2 2 ∧ t.get F.PCR_SPT_CTRL_missed u = s.get F.PCR_SPT_CTRL_missed u ∧
      t.get F.PCR_SPT_CTRL_target u = tgt ∧
      s.onlyRegs t [R.PCR_SPT_CTRL.addr u]) ∧
    (3 ≤ u → bit v.toNat 0 = true → ¬claimed → s.get F.PCR_SPT_CTRL_arm u = 0 →
      ∃ t, exec (.splitTimerArm n v) s = .next t ∧ t.get F.PCR_SPT_CTRL_arm u = 0 ∧ s.reports t R.IMG_STATUS 0 0x12 ∧
        s.onlyEvent t [R.PCR_SPT_CTRL.addr u, R.IMG_STATUS.addr 0])) ∧
  (∀ (s : State) (n : Fin 32), let u := n.val
    let cmp := s.get64 R.PCR_SPT_CMP_LO R.PCR_SPT_CMP_HI u
    let g := s.get F.PCR_SPT_CTRL_target u
    let per := s.get F.PCR_SPT_PERIOD_period u
    let again := s.get F.PCR_SPT_CTRL_periodic u = 1 ∧ per ≠ 0
    (s.get F.PCR_SPT_CTRL_arm u = 0 ∨ s.ns < cmp → exec (.splitTimerFire n) s = .next s) ∧
    (s.get F.PCR_SPT_CTRL_arm u = 1 → cmp ≤ s.ns → ∃ t, exec (.splitTimerFire n) s = .next t ∧ t.mem = s.mem ∧
      t.pacer.time = s.pacer.time ∧ (g = 4 → t.frozen = true) ∧ (g = 3 → t.pacer.planDue = true) ∧
      (s.live = true → (g = 1 → t.pacer.lapDue = some cmp) ∧ (g = 1 ∨ g = 2 → t.pacer.scanDue = true) ∧
        (s.get F.PCR_SPT_CTRL_irq u = 1 → s.get F.HUB_INT_SRC_prio (2240 + u) ≠ 0 → t.srcPend (2240 + u) = true)) ∧
      (s.live = false → u < 3 → u ∈ s.pacer.acts → t.pacer.acts = s.pacer.acts) ∧
      (s.live = false → u ∉ s.pacer.acts ∨ 3 ≤ u → u < 3 ∨ (s.pacer.acts.filter (3 ≤ ·)).length < 16 →
        t.pacer.acts = s.pacer.acts ++ [u]) ∧
      (¬again → t.get F.PCR_SPT_CTRL_arm u = 0 ∧ t.get64 R.PCR_SPT_CMP_LO R.PCR_SPT_CMP_HI u = cmp) ∧
      (again → t.get F.PCR_SPT_CTRL_arm u = 1 ∧ ∃ k, s.ns < cmp + (k + 1) * per ∧ cmp + k * per ≤ s.ns ∧
        t.get64 R.PCR_SPT_CMP_LO R.PCR_SPT_CMP_HI u = (cmp + (k + 1) * per) % 2 ^ 64 ∧
        t.get F.PCR_SPT_CTRL_missed u = satAdd (s.get F.PCR_SPT_CTRL_missed u) k 0xFF ∧
        (k ≠ 0 → t.get F.PCR_STATUS_code 0 = 8 ∧ t.get F.PCR_STATUS_timer 0 = u)))) ∧
  (∀ s : State, s.pending = [] → (s.stage = 0 → step s = .next s) ∧
    (s.stage ≠ 0 → s.snp.restore = none → s.jdg.run = none → s.img.loading = none → s.img.waiting = none ∨ s.img.applying = false →
      s.img.sect = none → s.pwr ≠ 3 → s.pwr ≠ 5 → s.pacer.sink = none → ∃ t, step s = .next t ∧ t.flash = s.flash ∧ t.lap = s.lap ∧
      (s.pacer.slew = 0 → t.pacer = { s.pacer with time := (s.pacer.time + 1024) % 2 ^ 72 }) ∧
      (0 < s.pacer.slew → t.pacer = { s.pacer with time := (s.pacer.time + 1023) % 2 ^ 72, slew := s.pacer.slew - 1 }) ∧
      (s.pacer.slew < 0 → t.pacer = { s.pacer with time := (s.pacer.time + 1025) % 2 ^ 72, slew := s.pacer.slew + 1 }))))

/-- Tier 2 (R418, R419, R420, R428, R436, R585, R595). What the supply monitor does at each crossing, while power is applied: a
sag throttles to factor 4, is counted and reported (code 1); it ends above `sag_dv` and the hysteresis; an undervoltage
begins the ride (code 2), or ends a wake in Blocks for supply; a ride ends without loss above 40.0 V and the hysteresis
(code 3), and a cap write that waited is taken; a swell is reported (code 6); above 64.0 V the module rides, below 62.0 V
the input stage is back; the ripple is shown, and reported above its limit (code 7); SUPPLY_PHASE gives the period when it
is in range, and no period is 0 and reported (code 0x0A), as is its loss. The lowest bus voltage is kept for the record of
R421. Each of these commands is shown to answer a next state with its own effect, under conditions on the state and the
operands alone: SUPPLY_SAG, SAG_END, UNDERVOLTAGE, RIDE_RECOVER, SUPPLY_SWELL, ABSOLUTE_MAXIMUM, RIPPLE_MEASURE,
SUPPLY_PHASE_EDGE, PHASE_LOSS. -/
def Obligations.SupplyCrossings : Prop :=
  ∀ (s : State) (mv : Nat), s.stage ≠ 0 → mv < 65536 →
    let low := if s.pwr ≤ 1 then mv else min (s.pacer.lowMv.getD mv) mv
    let same := fun (t : State) => { t with pacer := s.pacer }
    (s.pwr = 0 → mv < s.sagMv → ∃ t, exec (.supplySag mv) s = .next t ∧ t.pwr = 1 ∧ t.get F.PWR_MEAS_bus_mv 0 = mv ∧
      t.get F.PWR_STATE_stretch 0 = max 5 (s.get F.PWR_STATE_stretch 0) ∧ s.reports t R.PWR_STATUS 0 1 ∧ s.onlyEvent (same t) pwrAddrs ∧
      t.pacer = { s.pacer with lowMv := some low, drawn := none } ∧
      t.get F.PWR_EVENTS_sags 0 = satInc (s.get F.PWR_EVENTS_sags 0) 0xFF ∧
      t.get F.PWR_EVENTS_exempt 0 = satInc (s.get F.PWR_EVENTS_exempt 0) 0xFF) ∧
    (s.pwr = 1 → s.sagMv + 500 < mv → ∃ t, exec (.sagEnd mv) s = .next t ∧ t.pwr = 0 ∧ t.get F.PWR_MEAS_bus_mv 0 = mv ∧
      t.get F.PWR_STATE_stretch 0 = s.get F.PWR_STATE_stretch 0 ∧ s.onlyRegs (same t) [R.PWR_STATE.addr 0, R.PWR_MEAS.addr 0] ∧
      t.pacer = { s.pacer with lowMv := some low }) ∧
    (mv < 40000 →
      (s.pwr ≤ 1 → ∃ t, exec (.undervoltage mv) s = .next t ∧ t.pwr = 2 ∧ t.get F.PWR_MEAS_bus_mv 0 = mv ∧
        t.get F.PWR_STATE_stretch 0 = max 5 (s.get F.PWR_STATE_stretch 0) ∧ s.reports t R.PWR_STATUS 0 2 ∧ s.onlyEvent (same t) pwrAddrs ∧
        t.pacer = { s.pacer with lowMv := some low, drawn := none } ∧
        t.get F.PWR_EVENTS_rides 0 = satInc (s.get F.PWR_EVENTS_rides 0) 0xFF ∧
        t.get F.PWR_EVENTS_exempt 0 = satInc (s.get F.PWR_EVENTS_exempt 0) 0xFF) ∧
      (s.pwr = 5 → ∃ t, exec (.undervoltage mv) s = .next t ∧ t.pwr = 4 ∧ t.get F.PWR_STATE_cause 0 = 2 ∧
        t.pacer = { s.pacer with lowMv := some low } ∧ s.onlyRegs (same t) [R.PWR_STATE.addr 0, R.PWR_MEAS.addr 0])) ∧
    (s.pwr = 2 → s.pacer.overMax = false → 40500 < mv → ∃ t, exec (.rideRecover mv) s = .next t ∧
      t.pwr = (if mv ≤ s.sagMv + 500 then 1 else 0) ∧ s.reports t R.PWR_STATUS 0 3 ∧ t.pacer.capHeld = none ∧ t.mem = s.mem ∧
      t.clus = s.clus ∧ (s.pacer.capHeld = none → s.onlyEvent (same t) pwrAddrs) ∧
      (∀ w, s.pacer.capHeld = some w → t.pacer.cap.v1 = 10000000 * t.get F.PWR_CAP_cap_w 0 ∧
        s.onlyEvent (same t) (R.PWR_CAP.addr 0 :: pwrAddrs))) ∧
    (60000 < mv → ∃ t, exec (.supplySwell mv) s = .next t ∧ t.get F.PWR_MEAS_bus_mv 0 = mv ∧ t.pwr = s.pwr ∧
      s.reports t R.PWR_STATUS 0 6 ∧ t.pacer = { s.pacer with lowMv := some low } ∧ s.onlyEvent (same t) [R.PWR_MEAS.addr 0, R.PWR_STATUS.addr 0]) ∧
    (64000 < mv → s.pacer.overMax = false → ∃ t, exec (.absoluteMaximum mv) s = .next t ∧ t.pacer.overMax = true ∧
      (s.pwr ≤ 1 → t.pwr = 2 ∧ s.reports t R.PWR_STATUS 0 2) ∧ (2 ≤ s.pwr → t.pwr = s.pwr)) ∧
    (mv < 62000 → s.pacer.overMax = true → ∃ t, exec (.absoluteMaximum mv) s = .next t ∧ t.pacer.overMax = false ∧
      (s.pwr = 2 → 40500 < mv → t.pwr ≤ 1 ∧ s.reports t R.PWR_STATUS 0 3) ∧ (s.pwr ≠ 2 ∨ mv ≤ 40500 → t.pwr = s.pwr)) ∧
    (s.pacer.period = 0 → exec (.rippleMeasure mv) s = .next s) ∧
    (s.pacer.period ≠ 0 → ∃ t, exec (.rippleMeasure mv) s = .next t ∧ t.get F.PWR_RIPPLE_ripple_mv 0 = mv ∧
      (s.get F.PWR_RIPPLE_ripple_lim_mv 0 < mv → s.reports t R.PWR_STATUS 0 7) ∧
      (mv ≤ s.get F.PWR_RIPPLE_ripple_lim_mv 0 → s.onlyRegs t [R.PWR_RIPPLE.addr 0])) ∧
    (∃ t, exec .supplyPhaseEdge s = .next t ∧ t.pacer.edge = some s.ns ∧
      (s.pacer.edge = none → t = { s with pacer := { s.pacer with edge := some s.ns } }) ∧
      (∀ e, s.pacer.edge = some e → 14300000 ≤ s.ns - e → s.ns - e ≤ 25000000 →
        t.pacer.period = s.ns - e ∧ t.get F.PWR_PHASE_period_us 0 = (s.ns - e) / 1000 ∧
          s.onlyRegs (same t) [R.PWR_PHASE.addr 0]) ∧
      (∀ e, s.pacer.edge = some e → s.ns - e < 14300000 ∨ 25000000 < s.ns - e → t.pacer.period = 0 ∧
        t.get F.PWR_PHASE_period_us 0 = 0 ∧ s.reports t R.PWR_STATUS 0 0x0A ∧
          s.onlyEvent (same t) [R.PWR_PHASE.addr 0, R.PWR_STATUS.addr 0])) ∧
    (∃ t, exec .phaseLoss s = .next t ∧ t.pacer = { s.pacer with edge := none, period := 0 } ∧ t.get F.PWR_PHASE_period_us 0 = 0 ∧
      s.reports t R.PWR_STATUS 0 0x0A ∧ s.onlyEvent (same t) [R.PWR_PHASE.addr 0, R.PWR_STATUS.addr 0])

/-- Tier 2 (R420, R421, R431, R433, R434, R436, R580). BLOCKS from stage 0x0F begins an entry at once with the draw at or below
650 W, else when the draw has had time to fall to it along the ramp, ballast withheld; RIDE_END with the bus at or above
36.0 V there begins one at once; WAKE with the cause "command" and SUPPLY_WAKE with the cause "supply" begin a wake, and a
WAKE with another cause or outside Blocks does nothing. An entry and a wake complete with the tick that follows (log 48), in
Blocks and in RUN. A collapse (COLLAPSE in Blocks, RIDE_END below 36.0 V) and THERMAL_TRIP write their record and lose all
volatile state; a ride that ends before stage 0x0F restarts bring-up. Each of these commands is shown to answer a next state
with its own effect, under conditions on the state and the operands alone: RIDE_END, COLLAPSE, THERMAL_TRIP, BLOCKS, WAKE,
SUPPLY_WAKE. -/
def Obligations.BlocksAndLoss : Prop :=
  ∀ (s : State) (mv : Nat), mv < 65536 →
    let draw := s.get F.PWR_MEAS_power_w 0
    (s.stage = 0x0F → s.pwr ≤ 2 → s.pacer.sink = none →
      (draw ≤ 650 ∨ s.rho = 0 → ∃ t, exec .blocks s = .next t ∧ s.entering t 1) ∧
      (650 < draw → s.rho ≠ 0 → exec .blocks s = .next { s with pacer := { s.pacer with
        ballast := false, sink := some (s.ns + 1000000 * (draw - 650) / s.rho) } })) ∧
    (s.stage ≠ 0x0F ∨ 3 ≤ s.pwr ∨ s.pacer.sink ≠ none → exec .blocks s = .next s) ∧
    (s.pending = [] → s.stage ≠ 0 → s.pwr = 3 ∨ s.pwr = 5 → ∃ t, step s = .next t ∧ t.pwr = (if s.pwr = 3 then 4 else 0)) ∧
    (s.pwr = 3 → s.inBlocks s.pwrTick (s.get F.PWR_STATE_cause 0) ∧ s.reports s.pwrTick R.PWR_STATUS 0 4 ∧
      s.pwrTick.pacer.stacksRest = true) ∧
    (s.pwr = 5 → s.woke s.pwrTick ∧ s.pwrTick.pacer.stacksRest = false ∧ s.pwrTick.pacer.drawn = some (650, s.ns)) ∧
    (∀ x, s.pwr ≤ 2 → s.pacer.sink = some x → (x ≤ s.ns → s.entering s.pwrTick 1) ∧ (s.ns < x → s.pwrTick = s)) ∧
    (s.pwr = 4 → s.get F.PWR_STATE_cause 0 = 1 → ∃ t, exec .wake s = .next t ∧ t.pwr = 5 ∧ s.onlyRegs t [R.PWR_STATE.addr 0]) ∧
    (s.pwr ≠ 4 ∨ s.get F.PWR_STATE_cause 0 ≠ 1 → exec .wake s = .next s) ∧
    (s.pwr = 4 → s.get F.PWR_STATE_cause 0 = 2 → s.pacer.overMax = false → s.sagMv < mv →
      ∃ t, exec (.supplyWake mv) s = .next t ∧ t.pwr = 5 ∧ t.get F.PWR_MEAS_bus_mv 0 = mv ∧
        s.onlyRegs { t with pacer := s.pacer } [R.PWR_STATE.addr 0, R.PWR_MEAS.addr 0]) ∧
    (s.pwr = 2 → s.stage = 0x0F → 36000 ≤ mv → ∃ t, exec (.rideEnd mv) s = .next t ∧ s.entering t 2 ∧ t.pacer.capHeld = none ∧
      t.get F.PWR_EVENTS_exempt 0 = satInc (s.get F.PWR_EVENTS_exempt 0) 0xFF) ∧
    (s.pwr = 2 → s.stage ≠ 0x0F → 36000 ≤ mv → ∃ t, exec (.rideEnd mv) s = .next t ∧ t.stage = 1 ∧ t.pwr = 0 ∧ t.mem = [] ∧
      t.doms = [] ∧ t.pacer.time = s.pacer.time ∧ t.pacer.waitBus = true ∧ t.flash = s.flash) ∧
    (Mem.wf s.flash = true → let low := min mv (s.pacer.lowMv.getD mv)
      (s.pwr = 2 → mv < 36000 → ∃ t, exec (.rideEnd mv) s = .next t ∧ s.logged t 0x0A low 3 0x0E ∧ s.wiped t 2) ∧
      ((s.pwr = 3 ∨ s.pwr = 4) → mv < 36000 ∨ s.pacer.overMax = true →
        ∃ t, exec (.collapse mv) s = .next t ∧ s.logged t 0x0A low 3 0x0E ∧ s.wiped t 2) ∧
      (110 ≤ mv → ∃ t, exec (.thermalTrip mv) s = .next t ∧ s.logged t 0x0A mv 3 0x0D ∧ s.wiped t 3 ∧
        t.pacer.thermtrip = true)) ∧
    (mv < 110 → exec (.thermalTrip mv) s = .next s)

/-- Tier 2 (R23, R423 to R426, R429, R430, R432, R436, R488). CAP_CONTROL shows the draw and moves the factor up or holds it
above what the cap and the ramp admit, down or holds it at or below; which one is a free value. Factor 8 that does not
suffice for the cap is reported once a lap (code 8); ballast is called for below what the floor and the ramp ask, and a draw
it does not hold is reported once a lap (code 9) and exempt. Without that call BALLAST_PASS does nothing; under it it moves
nothing but the ballast counters of a waiting cluster's cores, all by one free number. PWR_CAP_WRITE takes a valid cap,
which falls along the ramp from the measured draw and rises at once, and waits during a ride; a floor on its way goes on
from its level. POWER_PLAN_STEP starts the floor of the due entry along the ramp and arms SPT2 for the next.
THERMAL_THROTTLE lowers the effective cap by 100 W, not below 1,200 W, and restores it 2 degrees below the limit.
DOMAIN_SWITCH sets the state of the domain; a cluster that goes off loses its pool, one that comes on loads registers only;
a spare or quarantined unit is not powered. Each of these commands is shown to answer a next state with its own effect,
under conditions on the state and the operands alone: CAP_CONTROL, BALLAST_PASS, PWR_CAP_WRITE, POWER_PLAN_STEP,
THERMAL_THROTTLE, DOMAIN_SWITCH. -/
def Obligations.CapPlanDomains : Prop :=
  (∀ (s : State) (power : Nat), s.asleep = true ∨ s.stage = 0 → exec (.capControl power) s = .next s) ∧
  (∀ (s : State) (power : Nat), s.asleep = false → s.stage ≠ 0 → power < 65536 → let f := s.get F.PWR_STATE_stretch 0
    f ≤ 6 → ∃ t, exec (.capControl power) s = .next t ∧ t.get F.PWR_MEAS_power_w 0 = power ∧ t.freeCtr = s.freeCtr + 1 ∧
      t.pwr = s.pwr ∧ t.mem = s.mem ∧
      (s.drawMost < power → f ≤ t.get F.PWR_STATE_stretch 0 ∧ t.get F.PWR_STATE_stretch 0 ≤ 6) ∧
      (power ≤ s.drawMost → t.get F.PWR_STATE_stretch 0 ≤ f) ∧ t.pacer.ballast = decide (power < s.drawLeast) ∧
      let low := power + 100 < s.drawLeast ∧ 9 ∉ s.pacer.said
      let high := s.capEff < power ∧ f = 6 ∧ 8 ∉ s.pacer.said
      (high → ¬low → s.reports t R.PWR_STATUS 0 8 ∧ 8 ∈ t.pacer.said) ∧
      (low → ¬high → s.reports t R.PWR_STATUS 0 9 ∧ 9 ∈ t.pacer.said ∧ t.pacer.drawn = none ∧
        t.get F.PWR_EVENTS_exempt 0 = satInc (s.get F.PWR_EVENTS_exempt 0) 0xFF) ∧
      (¬low → ¬high → t.rd R.PWR_STATUS 0 = s.rd R.PWR_STATUS 0) ∧
      (¬low → t.pacer.drawn = some (power, s.ns) ∧
        t.pacer.sink = if power ≤ 650 then s.pacer.sink.map (fun _ => 0) else s.pacer.sink)) ∧
  (∀ (s : State) (c : Clu), s.pacer.ballast = false → exec (.ballastPass c) s = .next s) ∧
  (∀ (s : State) (c : Clu), s.pacer.ballast = true → s.cluOn c = true → (slFind s.waits (cluWaiter c 0)).isSome = true → (s.activeCores c).Nodup →
    (∀ n ∈ s.activeCores c, n < 52) → let ctr := fun n => coreBase (coreU (coreNo c n)) + 0x40 + 48
    ∃ t k, exec (.ballastPass c) s = .next t ∧ t = { s with regs := t.regs, freeCtr := s.freeCtr + 1 } ∧
      s.regsBut t ((s.activeCores c).flatMap (fun n => [ctr n, ctr n + 4])) ∧
      ∀ n ∈ s.activeCores c, t.perfAt (ctr n) = (s.perfAt (ctr n) + k) % 2 ^ 64) ∧
  (∀ (s : State) (v : Word), s.stage ≠ 0 → let w := bits v.toNat 8 0
    let p := bits v.toNat 23 16
    120 ≤ w → w ≤ 500 → 1 ≤ p → p ≤ 200 →
    (s.pwr ≠ 2 → ∃ t, exec (.pwrCapWrite v) s = .next t ∧ t.get F.PWR_CAP_cap_w 0 = w ∧ t.get F.PWR_CAP_ramp 0 = p ∧
      t.pacer = { s.pacer with
        cap := { t0 := s.ns, v0 := max (min s.capNow (1000000 * s.get F.PWR_MEAS_power_w 0)) (10000000 * w), v1 := 10000000 * w }
        floor := { t0 := s.ns, v0 := s.pacer.floor.at s.rho s.ns, v1 := s.pacer.floor.v1 } } ∧
      s.onlyRegs { t with pacer := s.pacer } [R.PWR_CAP.addr 0]) ∧
    (s.pwr = 2 → ∃ t x, exec (.pwrCapWrite v) s = .next t ∧ t = { s with pacer := { s.pacer with capHeld := some x } } ∧
      bits x.toNat 8 0 = w ∧ bits x.toNat 23 16 = p)) ∧
  (∀ (s : State) (o w : Nat) (l : List (Nat × Nat)), s.pacer.planDue = true → s.asleep = false → s.pacer.plan = (o, w) :: l →
    (∀ q, l.head? = some q → s.ns < q.1) →
    ∃ t, exec .powerPlanStep s = .next t ∧ t.pacer.plan = l ∧ t.pacer.planDue = false ∧ t.mem = s.mem ∧
      t.pacer.floor = { t0 := s.ns, v0 := s.pacer.floor.at s.rho s.ns, v1 := 1000000 * w } ∧
      t.get F.PCR_SPT_CTRL_arm 2 = (if l = [] then 0 else 1) ∧ (l ≠ [] → t.get F.PCR_SPT_CTRL_target 2 = 3)) ∧
  (∀ (s : State) (x : Nat), s.stage ≠ 0 → let lim := s.get F.PWR_THERM_t_throttle 0
    ∃ t, exec (.thermalThrottle x) s = .next t ∧ t.get F.PWR_THERM_t_max 0 = min x 255 ∧ t.mem = s.mem ∧
      (lim < x → t.pacer.therm = some (max 1200 (s.pacer.therm.getD (s.capNow / 1000000) - 100)) ∧
        (0x0C ∉ s.pacer.said → s.reports t R.PWR_STATUS 0 0x0C)) ∧
      (x + 2 < lim → t.pacer.therm = none) ∧
      (x ≤ lim → lim ≤ x + 2 → s.onlyRegs t [R.PWR_THERM.addr 0])) ∧
  (∀ (s : State) (d : Dom) (m : DomState), s.stage ≠ 0 →
    (m ≠ .off → s.domMay d = false → exec (.domainSwitch d m) s = .next s) ∧
    (m = .off ∨ s.domMay d = true → ∃ t, exec (.domainSwitch d m) s = .next t ∧ t.dom d = m ∧ (∀ e, e ≠ d → t.dom e = s.dom e) ∧
      (m ≠ .off → t = { s with doms := t.doms, regs := t.regs, perf := t.perf }) ∧
      (m ≠ .off → (∀ c, d ≠ .cluster c) ∨ s.dom d ≠ .off → t.regs = s.regs) ∧
      (m = .off → s.dom d ≠ .off → ∀ c, d = .cluster c → t.clu c = {} ∧ ∀ x < 2 ^ 22, Mem.get t.mem (poolAt c x) = 0)))

/-- Tier 2 (R444 to R447, R449, R458, R572). IMG_LOAD is refused before stage 0x0F, while an image waits and while one is
verified (code 0x0F); else verification begins and ends at the next tick (log 53): an image that fails a check is reported
with the check's code and changes nothing else, one whose read fails as one that fails its digest; one that passes has its
sections in the store and waits. IMG_DISCARD drops an image that waits and has not begun to take effect. IMG_APPLY does
nothing without one; it is refused when the region has no die (code 0x10), waits while a takeover or a lap runs, or a
cluster of the region, and else the region stalls; with the tick after its last section the image is in effect: its sections
are in effect in the store, no cluster stalls, a module image gives its identity, and code 2 is reported. Each of these
commands is shown to answer a next state with its own effect, under conditions on the state and the operands alone:
IMG_LOAD, IMG_APPLY, IMG_DISCARD. -/
def Obligations.ImagesLoadAndApply : Prop :=
  ∀ s : State, s.live = true →
    let up := s.served .images 0 0 = true
    (up → s.stage ≠ 0x0F ∨ s.img.waiting ≠ none ∨ s.img.loading ≠ none → ∃ t, exec .imgLoad s = .next t ∧
      s.reports t R.IMG_STATUS 0 0x0F ∧ s.onlyEvent t [R.IMG_STATUS.addr 0]) ∧
    (up → s.stage = 0x0F → s.img.waiting = none → s.img.loading = none → ∃ t, exec .imgLoad s = .next t ∧
      t.img = { s.img with loading := some s.imgSrc } ∧ t.get F.IMG_STATE_state 0 = 1 ∧ t.get F.IMG_STATE_section 0 = 0 ∧
      s.onlyRegs { t with img := s.img } [R.IMG_STATE.addr 0]) ∧
    (∀ a, s.img.loading = some a → s.jdg.run = none →
      ((s.hbmMeet a (max 256 (s.ldH (a + 16) 8))).2 = true → s.reports s.imgTick R.IMG_STATUS 0 7 ∧
        s.imgTick.img = { s.img with loading := none }) ∧
      (s.hbmQuiet →
        (∀ c i, s.imgCheck a = some (c, i) → s.reports s.imgTick R.IMG_STATUS 0 c ∧
          s.imgTick.get F.IMG_STATUS_index 0 = i % 65536 ∧ s.imgTick.img = { s.img with loading := none } ∧
          s.imgTick.get F.IMG_STATE_state 0 = 0 ∧
          s.onlyEvent { s.imgTick with img := s.img } [R.IMG_STATUS.addr 0, R.IMG_STATE.addr 0]) ∧
        (s.ldH a 4 ≠ 0x49534C4B → s.reports s.imgTick R.IMG_STATUS 0 3) ∧
        (s.imgFormat a = true → s.ldH (a + 12) 1 ≠ 0xA1 → s.reports s.imgTick R.IMG_STATUS 0 4) ∧
        (s.imgCheck a = none → s.reports s.imgTick R.IMG_STATUS 0 1 ∧ s.imgTick.get F.IMG_STATE_state 0 = 2 ∧
          ∃ l, s.storeFit (s.imgRead a) = some l ∧
            s.imgTick.img = { s.img with loading := none, waiting := some { s.imgRead a with sects := l }, applying := false }))) ∧
    (s.img.waiting = none → exec .imgDiscard s = .next s ∧ exec .imgApply s = .next s) ∧
    (∀ m, up → s.img.waiting = some m → s.img.sect ≠ none → exec .imgDiscard s = .next s ∧
      exec .imgApply s = .next { s with img := { s.img with applying := true } }) ∧
    (∀ m, up → s.img.waiting = some m → s.img.sect = none →
      (∃ t, exec .imgDiscard s = .next t ∧ t.img = { s.img with waiting := none, applying := false } ∧
        t.get F.IMG_STATE_state 0 = 0 ∧ s.onlyRegs { t with img := s.img } [R.IMG_STATE.addr 0]) ∧
      (s.regionAbsent m = true → ∃ t, exec .imgApply s = .next t ∧ s.reports t R.IMG_STATUS 0 0x10 ∧
        t.img = { s.img with applying := false } ∧ s.onlyEvent { t with img := s.img } [R.IMG_STATUS.addr 0]) ∧
      (s.regionAbsent m = false → s.regionBusy m = true ∨ (m.scope = 1 ∧ s.lap.step ≠ 0) ∨
          (m.scope ≠ 1 ∧ s.regionIdle m.region = false) →
        exec .imgApply s = .next { s with img := { s.img with applying := true } }) ∧
      (s.regionAbsent m = false → s.regionBusy m = false →
        (m.scope = 1 ∧ s.lap.step = 0) ∨ (m.scope ≠ 1 ∧ s.regionIdle m.region = true) →
        ∃ t, exec .imgApply s = .next t ∧ t.img = { s.img with applying := true, sect := some 0, hit := false } ∧ t.mem = s.mem ∧
          t.get F.IMG_STATE_state 0 = 3 ∧ t.get F.IMG_STATE_section 0 = 0 ∧
          (∀ c ∈ s.regionClus m.region, t.clu c = { s.clu c with stalled := true }))) ∧
    (∀ m k, s.img.loading = none → s.img.waiting = some m → s.img.sect = some k → s.img.hit = false → m.sects.length ≤ k →
      let t := s.imgTick
      t.img.waiting = none ∧ t.img.applying = false ∧ t.img.sect = none ∧ t.get F.IMG_STATUS_code 0 = 2 ∧
      t.get F.IMG_STATE_state 0 = 0 ∧ (∀ e ∈ m.sects, (m.region, e) ∈ t.img.store) ∧ (∀ p ∈ t.clus, p.2.stalled = false) ∧
      (m.scope = 1 → t.img.digest = m.digest ∧ t.get64 R.IMG_ID_LO R.IMG_ID_HI 0 = m.id % 2 ^ 64) ∧
      (m.scope ≠ 1 → t.img.digest = s.img.digest))

/-- Tier 2 (R450, R451, R452). CLAIM_REQUEST of an on-demand claim and CLAIM_WINDOW_OPEN of a window claim from its instant on:
the claim is granted when no granted claim of the same or a higher class touches its resource, and every holder of a lower
class then loses it and waits; else the claim waits. CLAIM_RELEASE gives the claim up, and the one claim that waits for its
resource alone is granted. Before its instant a window does not open, and a claim "always" is not released. Each of these
commands is shown to answer a next state with its own effect, under conditions on the state and the operands alone:
CLAIM_REQUEST, CLAIM_WINDOW_OPEN, CLAIM_RELEASE. -/
def Obligations.ClaimsByClass : Prop :=
  ∀ (s : State) (i : Nat) (k : Claim), s.claims[i]? = some k →
    (∀ q ∈ [(Instr.claimRequest i, 2), (.claimWindowOpen i, 1)], k.whenN = q.2 → (q.2 = 1 → s.lap.b + 1000 * k.startUs ≤ s.ns) →
      (k.granted = true ∨ k.waiting = true → exec q.1 s = .next s) ∧
      (k.granted = false → k.waiting = false →
        ((∀ p ∈ s.claimHolders k, k.cls < p.1.cls) → ∃ t, exec q.1 s = .next t ∧
          t.claims[i]? = some { k with granted := true, waiting := false, rearm := false, lost := false } ∧
          (∀ p ∈ s.claimHolders k, ∃ h, t.claims[p.2]? = some h ∧ h.granted = false ∧ h.waiting = true ∧ h.reqAt = s.ns ∧ h.lost = true) ∧
          (s.claimHolders k = [] → t.mem = s.mem ∧ ∀ j, j ≠ i → t.claims[j]? = s.claims[j]?) ∧
          (s.claimHolders k ≠ [] → t.get F.IMG_STATUS_code 0 = 0x11)) ∧
        ((∃ p ∈ s.claimHolders k, p.1.cls ≤ k.cls) → ∃ t, exec q.1 s = .next t ∧
          t = { s with claims := s.claims.set i { k with waiting := true, reqAt := s.ns }, waits := t.waits } ∧
          (slFind t.waits (claimWaiter i)).isSome = true))) ∧
    (k.whenN = 1 → s.ns < s.lap.b + 1000 * k.startUs → exec (.claimWindowOpen i) s = .next s) ∧
    (k.whenN = 0 → exec (.claimRelease i) s = .next s) ∧
    (k.whenN = 2 ∨ (k.whenN = 1 ∧ s.lap.b + 1000 * k.endUs ≤ s.ns) → k.granted = true → k.waiting = false →
      ∃ t, exec (.claimRelease i) s = .next t ∧
        t.claims[i]? = some { k with granted := false, waiting := false, rearm := false, lost := false } ∧
        ((∀ c ∈ s.claims, c.waiting = false) → t = { s with claims := t.claims } ∧ ∀ j, j ≠ i → t.claims[j]? = s.claims[j]?) ∧
        (∀ j w, s.claims[j]? = some w → w.waiting = true → w.granted = false → s.claimHolders w = [(k, i)] →
          (∀ (x : Nat) (y : Claim), s.claims[x]? = some y → y.waiting = true → x = j) →
          t.mem = s.mem ∧ t.claims[j]? = some { w with granted := true, waiting := false, rearm := false, lost := false }))

/-- Tier 2 (R487, R489, R491, R492, R494, R495, R496, R497, R498, R500, R501). WAIT_END ends the waiter's open wait: its time
without stopped clocks is counted, and it is recorded, with the producer known then, unless it was short. SYNC_TIMEOUT of a
wait that has lasted beyond `timeout_us`, stopped clocks not counted, records it once and abandons the cluster when `to_act`
is 1. TRACE_TRIGGER acts when trigger 0 is enabled, and freezes when its bit of `freeze_on` is set. TRACE_ENABLE refuses a
region that R497 does not allow (code 0x0D) or that no claim of class 4 covers, and else starts an empty trace with its
header in place. PERF_CLEAR sets the performance counters to 0 and no other register. Each of these commands is shown to
answer a next state with its own effect, under conditions on the state and the operands alone: WAIT_END, SYNC_TIMEOUT,
TRACE_TRIGGER, TRACE_ENABLE, PERF_CLEAR. -/
def Obligations.TraceRecordsWaits : Prop :=
  (∀ (s : State) (w : Waiter) (x : Wait), s.live = true → slFind s.waits (waiterCode w) = some x → let k := waiterCode w
    let n := s.ns - x.tStart
    let q := s.traceQuad (bits k 27 23)
    ∀ c, waiterClu k = some c → let lo := cluBase (cluU c) + 0x340
      let short := n < s.get F.CLU_TRC_CFG_min_ns (cluU c)
      ∃ t, exec (.waitEnd w) s = .next t ∧ slFind t.waits k = none ∧ (∀ j, j ≠ k → slFind t.waits j = slFind s.waits j) ∧
        t.mem = s.mem ∧ t.clus = s.clus ∧ t.perfAt (lo + 40) = (s.perfAt (lo + 40) + (n - x.stopped)) % 2 ^ 64 ∧
        (short → t.perfAt (lo + 56) = (s.perfAt (lo + 56) + 1) % 2 ^ 64 ∧ t.traces = s.traces) ∧
        (¬short → t.perfAt (lo + 48) = if s.trcTakes q then (s.perfAt (lo + 48) + 1) % 2 ^ 64 else s.perfAt (lo + 48)) ∧
        (¬short → s.flag F.TRC_Q_MODE_en q = true → (s.tru q).queue.length < 4096 →
            (t.tru q).queue = (s.tru q).queue ++ [{ x with bib := s.waitBib x }.toRec k s.ns false (s.clu c).abandoned])) ∧
  (∀ (s : State) (w : Waiter) (x : Wait) (c : Clu), s.live = true → slFind s.waits (waiterCode w) = some x →
    waiterClu (waiterCode w) = some c → s.waitsOf (waiterCode w) = [waiterCode w] → let us := s.get F.CLU_TRC_CFG_timeout_us (cluU c)
    let lim := x.tStart + x.stopped + 1000 * us
    (x.timedOut = true ∨ us = 0 ∨ s.ns ≤ lim → exec (.syncTimeout w) s = .next s) ∧
    (x.timedOut = false → us ≠ 0 → lim < s.ns → s.flag F.TRC_Q_MODE_en (s.traceQuad c.die) = false ∨ (s.tru (s.traceQuad c.die)).queue.length < 4090 →
      ∃ t, exec (.syncTimeout w) s = .next t ∧ t.mem = s.mem ∧
      (bit (s.get F.TRC_TRIG_CFG_en 0) 1 = false → t.get F.TRC_STATUS_code 0 = 5) ∧
      (s.get F.CLU_TRC_CFG_to_act (cluU c) ≠ 1 → (slFind t.waits (waiterCode w)).map (fun y => y.timedOut) = some true ∧
        t.clus = s.clus) ∧
      (s.get F.CLU_TRC_CFG_to_act (cluU c) = 1 → (t.clu c).abandoned = true ∧ t.get F.CLU_SEQ_STATUS_stop (cluU c) = 9))) ∧
  (∀ s : State, let on := s.get F.TRC_TRIG_CFG_en 0
    let frz := bit (s.get F.TRC_TRIG_CFG_freeze_on 0) 0
    (bit on 0 = false → exec .traceTrigger s = .next s) ∧
    (s.served .trace 0 0 = true → bit on 0 = true → ∃ t, exec .traceTrigger s = .next t ∧ t.mem = s.mem ∧
      t.get64 R.TRC_TRIG_TIME_LO R.TRC_TRIG_TIME_HI 0 = s.ns % 2 ^ 64 ∧
      (∀ q < 4, s.flag F.TRC_Q_MODE_en q = true → s.get F.TRC_Q_MODE_mode q ≠ 2 ∨ s.flag F.TRC_Q_MODE_stopped q = false →
        t.flag F.TRC_Q_MODE_triggered q = true) ∧
      (∀ q < 4, s.flag F.TRC_Q_MODE_en q = false → t.rd R.TRC_Q_MODE q = s.rd R.TRC_Q_MODE q) ∧
      (frz = true → t.frozen = true) ∧ (frz = false → t.frozen = s.frozen ∧ t.get F.TRC_STATUS_code 0 = 1))) ∧
  (∀ (s : State) (q : Fin 4), s.served .traceQ q 0 = true → let size := s.get F.TRC_Q_SIZE_size_mib q
    let post := s.get F.TRC_Q_POST_post_mib q
    let good := 64 ≤ size ∧ size ≤ 65536 ∧ post ≠ 0 ∧ post < size ∧ s.get F.TRC_Q_MODE_mode q ≠ 3 ∧ s.trcBase q + size * 2 ^ 20 ≤ 2 ^ 41
    let may := s.claimHeld 3 4 0 (s.trcBase q) (size * 2 ^ 20)
    (¬good → ∃ t, exec (.traceEnable q) s = .next t ∧ t.get F.TRC_Q_MODE_en q = 0 ∧ s.reports t R.TRC_STATUS 0 0x0D ∧
      t.traces = s.traces ∧ s.onlyEvent t [R.TRC_Q_MODE.addr q, R.TRC_STATUS.addr 0]) ∧
    (good → may = false → ∃ t, exec (.traceEnable q) s = .next t ∧ t.get F.TRC_Q_MODE_en q = 0 ∧ s.reports t R.IMG_STATUS 0 0x12 ∧
      t.traces = s.traces ∧ s.onlyEvent t [R.TRC_Q_MODE.addr q, R.IMG_STATUS.addr 0]) ∧
    (good → may = true → s.memOk → ∃ t, exec (.traceEnable q) s = .next t ∧ t.get F.TRC_Q_MODE_en q = 1 ∧
      t.flag F.TRC_Q_MODE_triggered q = false ∧ t.flag F.TRC_Q_MODE_stopped q = false ∧ t.flag F.TRC_Q_MODE_wrapped q = false ∧
      t.get F.TRC_Q_MODE_mode q = s.get F.TRC_Q_MODE_mode q ∧ t.get F.TRC_Q_NEXT_next q = 0 ∧ t.get F.TRC_Q_LOST_lost q = 0 ∧
      t.tru q = { tEnable := s.ns } ∧ t.ld (s.trcBase q) 4 = 0x43525454 ∧ s.memBut t (s.trcBase q) 4096)) ∧
  (∀ s : State, s.served .trace 0 0 = true → ∃ t, exec .perfClear s = .next t ∧ t = { s with regs := t.regs, perf := t.perf } ∧ t.perf.since = s.runNs ∧
    t.perf.read = [] ∧ t.perf.start = s.perf.start ∧ t.perf.stop = s.perf.stop ∧
    ∀ d a, slGet d t.regs a = if isPerf a = true then d else slGet d s.regs a)

/-- Tier 2 (R504 to R508, R509, R512, R514 to R516, R436). FREEZE and FREEZE_N_FALL stop the functional clocks at once, or join
a freeze as a source; a scan-out starts when `armed` finds its region claimed and a level that fits. FREEZE_RELEASE ends the
hold; FREEZE_END restarts the clocks at factor 8 once released and with no scan-out running (here with no recalibration
held), and does nothing before. SCAN_OUT_DONE and ABORT_SCAN end the scan-out: its header is in place, `aborted` shows how
it ended, and nothing outside the region that the level needs is written. Each of these commands is shown to answer a next
state with its own effect, under conditions on the state and the operands alone: FREEZE_N_FALL, FREEZE, FREEZE_RELEASE,
FREEZE_END, SCAN_OUT_DONE, ABORT_SCAN. -/
def Obligations.FreezeAndScan : Prop :=
  (∀ s : State, s.stage = 0 → exec .freezeNFall s = .next s) ∧
  (∀ s : State, ∀ q ∈ [(Instr.freezeNFall, 0), (.freeze, 2)], s.stage ≠ 0 → (q.2 = 2 → s.served .trace 0 0 = true) →
    (s.frozen = false → ∃ t, exec q.1 s = .next t ∧ t.frozen = true ∧ t.live = false ∧ t.get F.TRC_FRZ_STATE_held 0 = 1 ∧
      t.get F.TRC_FRZ_STATE_sources 0 = 1 ∧ t.frz.total = 1 ∧ t.frz.tStop = s.ns ∧ t.frz.srcs.map (fun x => x.kind) = [q.2] ∧
      t.get F.PWR_EVENTS_exempt 0 = satInc (s.get F.PWR_EVENTS_exempt 0) 0xFF ∧ t.mem = s.mem ∧ t.clus = s.clus ∧
      (q.2 = 0 → t.get F.TRC_FRZ_STATE_pin_low 0 = 1) ∧
      (s.get F.TRC_PHOTO_CTRL_armed 0 = 0 → t.get F.TRC_STATUS_code 0 = 0x0B ∧ t.photo = s.photo) ∧
      (s.get F.TRC_PHOTO_CTRL_armed 0 = 1 → s.get F.TRC_PHOTO_SIZE_size_mib 0 ≠ 0 → s.flag F.JDG_STATE_approved 0 = false →
        s.claimHeld 3 3 0 s.photoBase (s.get F.TRC_PHOTO_SIZE_size_mib 0 * 2 ^ 20) = true →
        ∀ k, s.photoFit (s.get F.TRC_PHOTO_SIZE_size_mib 0 * 2 ^ 20) (s.get F.TRC_PHOTO_CTRL_level 0) = some k →
          t.get F.TRC_PHOTO_CTRL_armed 0 = 0 ∧ t.get F.TRC_FRZ_STATE_scan 0 = 1 ∧
          t.photo = some { req := s.get F.TRC_PHOTO_CTRL_level 0, level := k, clamped := false, base := s.photoBase, t0 := s.ns, expiry := none })) ∧
    (s.frozen = true → ∃ t, exec q.1 s = .next t ∧ t.frozen = true ∧ t.frz.total = s.frz.total + 1 ∧ t.frz.tStop = s.frz.tStop ∧
      t.get F.TRC_FRZ_STATE_sources 0 = satInc (s.get F.TRC_FRZ_STATE_sources 0) 15 ∧
      s.onlyRegs { t with frz := s.frz } [R.TRC_FRZ_STATE.addr 0])) ∧
  (∀ s : State, (s.frozen = false → exec .freezeRelease s = .next s) ∧
    (s.served .trace 0 0 = true → s.frozen = true → ∃ t, exec .freezeRelease s = .next t ∧ t.frz = { s.frz with released := true, driven := false } ∧
      t.get F.TRC_FRZ_STATE_held 0 = 0 ∧ t.frozen = true ∧ s.onlyRegs { t with frz := s.frz } [R.TRC_FRZ_STATE.addr 0]) ∧
    (s.frozen = false ∨ s.frz.released = false ∨ s.photo ≠ none → exec .freezeEnd s = .next s) ∧
    (s.frozen = true → s.frz.released = true → s.photo = none → s.recalWait = [] → ∃ t, exec .freezeEnd s = .next t ∧ t.frozen = false ∧
      t.get F.TRC_FRZ_STATE_pin_low 0 = 0 ∧ t.get F.PWR_STATE_stretch 0 = 6 ∧ t.mem = s.mem ∧ t.clus = s.clus ∧
      s.reports t R.TRC_STATUS 0 7 ∧ t.frz.released = false)) ∧
  (∀ (s : State) (p : Photo), s.photo = some p → s.memOk → ∀ q ∈ [(Instr.scanOutDone, false), (.abortScan, true)],
    (q.2 = false → s.asleep = false) → (q.2 = true → s.served .trace 0 0 = true) → ∃ t, exec q.1 s = .next t ∧ t.photo = none ∧ t.get F.TRC_PHOTO_STATE_done 0 = 1 ∧
      t.get F.TRC_PHOTO_STATE_level_done 0 = p.level % 8 ∧ t.get F.TRC_FRZ_STATE_scan 0 = 0 ∧ t.get F.TRC_STATUS_code 0 = 8 ∧
      t.frozen = s.frozen ∧ t.ld p.base 4 = 0x4F544850 ∧ bit (Mem.get t.mem (p.base + 6)).toNat 2 = q.2 ∧
      s.memBut t p.base (s.photoNeed p.level)) ∧
  (∀ s : State, s.photo = none → exec .scanOutDone s = .next s ∧ exec .abortScan s = .next s)

/-- Tier 2 (R464, R466, R468 to R472, R479, R481, R484). The Judge's admin and firmware commands, while it is in service and
otherwise without effect. A command starts to run, and what it leaves is given with the Judge's tick that ends it; another
command meanwhile reports busy, and ZEROIZE takes its place. A slot that verifies has a signature under a firmware key and
an svn at or above the floor; VERIFY_FW answers its svn and digest. RAISE_FLOOR takes a value from the floor to the running
svn and no other. An admin command is done only when its signature verifies under an admin key and its counter value is the
counter's, which then advances; else it reports the failed check and does nothing. INSTALL_KEY, REVOKE_KEY, INSTALL_CERT,
SET_MODE and ENROLL set the slot, the certificate, the policy, the identity; ZEROIZE clears them, with what waits, but keeps
the counters; READ_CERT and SELF_TEST answer; how often the tests of ENROLL fail is a free value (log 7); a test that passed
when repeated is logged first, under kind 0 (log 108). Each of these commands is shown to answer a next state with its own
effect, under conditions on the state and the operands alone: JDG_VERIFY_FW, RAISE_FLOOR, INSTALL_KEY, REVOKE_KEY, ZEROIZE,
ENROLL, INSTALL_CERT, READ_CERT, SELF_TEST, SET_MODE. -/
def Obligations.JudgeAdministers : Prop :=
  (∀ (s : State) (c : Instr), s.judgeUp = false → c ∈ jdgCmds → exec c s = .next s) ∧
  (∀ (s : State) l, s.judgeUp = false → exec (.selfTest l) s = .next s) ∧
  (∀ (s : State) (c : Instr) l, s.judgeUp = true → s.jdg.run ≠ none → c = .selfTest l ∨ c ∈ jdgCmds ∧ c ≠ .zeroize →
    ∃ t, exec c s = .next t ∧ s.jdgRefuses t 2) ∧
  (∀ s : State, s.judgeUp = true → exec .zeroize s = .next { s with jdg := { s.jdg with run := some (9, []) } }) ∧
  (∀ s : State, s.judgeUp = true → s.flt.fwAsk = false → s.snp.run = none → s.jdg.doe = none → s.jdgTick = s.jdgDone) ∧
  (∀ (s : State) (k : Nat) (v : Nat × List Byte), s.fwVerify k = .ok v → s.jdg.floor ≤ v.1 ∧ v.2.length = 64 ∧
    ∃ key, s.keyFor (leNat (((s.fl (fwAt k) 256).drop 6).take 1)) 0 = some key ∧
      ed448Verify key ((s.fl (fwAt k) 256).take 128) (((s.fl (fwAt k) 256).drop 128).take 114) = true) ∧
  (∀ (s : State) (n : Nat) (en : Bool), s.adminCheck n en = none → s.rqN (n + 1) 8 = s.jdg.admin ∧ s.jdg.admin < 2 ^ 24 ∧
    ∃ key, s.keyFor (s.rqN n 1) 3 = some key ∧ ed448Verify key
      ((if en then List.replicate 57 0 else s.identity.getD []) ++ s.rq 0 (n + 9)) (s.rq (n + 9) 114) = true) ∧
  (∀ s : State, s.judgeUp = true → s.jdg.run = none → s.memOk →
    let j := s.jdg
    let a := s.rqN 0 1
    -- VERIFY_FW
    (1 < a → ∃ t, s.jdgRan .jdgVerifyFw 1 [] t ∧ s.jdgRefuses t 3) ∧
    (a ≤ 1 → (∀ c, s.fwVerify a = .error c → ∃ t, s.jdgRan .jdgVerifyFw 1 [] t ∧ s.jdgRefuses t c) ∧
      (∀ v, s.fwVerify a = .ok v → ∃ t, s.jdgRan .jdgVerifyFw 1 [] t ∧ s.reports t R.JDG_STATUS 0 1 ∧
        s.jdgReplied t (toBytes 4 v.1 ++ v.2) ∧ slFind t.jdg.verified a = some v.2 ∧ t.jdg.floor = j.floor ∧
        (j.fwNone = true → t.jdg.fw = some v ∧ t.get F.JDG_STATE_ready 0 = 1) ∧ (j.fwNone = false → t.jdg.fw = j.fw))) ∧
    -- RAISE_FLOOR
    (let v := s.rqN 0 4
     (∀ f, j.fw = some f → j.floor ≤ v → v ≤ f.1 → j.floorAdv < 2 ^ 24 → ∃ t, s.jdgRan .raiseFloor 2 [] t ∧
       s.jdgSays t 1 [R.JDG_FLOOR.addr 0] ∧ t.jdg = { j with floor := v, floorAdv := j.floorAdv + b2n (v != j.floor) } ∧
       (t.rd R.JDG_FLOOR 0).toNat = v ∧ t.mem = s.mem) ∧
     ((∀ f, j.fw = some f → v < j.floor ∨ f.1 < v) → ∃ t, s.jdgRan .raiseFloor 2 [] t ∧ s.jdgRefuses t 7)) ∧
    -- INSTALL_KEY, REVOKE_KEY
    (let ok := 1 ≤ a ∧ a ≤ 7 ∧ s.rqN 1 1 ≤ 15 ∧ (s.keySlot a).st ≠ 2
     (¬ok → ∃ t, s.jdgRan .installKey 3 [] t ∧ s.jdgRefuses t 3) ∧
     (ok → (∀ c, s.adminCheck 59 false = some c → ∃ t, s.jdgRan .installKey 3 [] t ∧ s.jdgRefuses t c) ∧
       (s.adminCheck 59 false = none → ∃ t, s.jdgRan .installKey 3 [] t ∧ s.jdgSays t 1 [R.JDG_STATE.addr 0] ∧ t.mem = s.mem ∧
         t.jdg.admin = j.admin + 1 ∧ t.keySlot a = { pub := s.rq 2 57, purpose := s.rqN 1 1, st := 1 } ∧
         ∀ k, k ≠ a → t.keySlot k = s.keySlot k))) ∧
    ((a = 0 ∨ 7 < a → ∃ t, s.jdgRan .revokeKey 4 [] t ∧ s.jdgRefuses t 3) ∧
     (1 ≤ a → a ≤ 7 → (∀ c, s.adminCheck 1 false = some c → ∃ t, s.jdgRan .revokeKey 4 [] t ∧ s.jdgRefuses t c) ∧
       (s.adminCheck 1 false = none → ∃ t, s.jdgRan .revokeKey 4 [] t ∧ s.jdgSays t 1 [R.JDG_STATE.addr 0] ∧ t.mem = s.mem ∧
         t.jdg.admin = j.admin + 1 ∧ t.keySlot a = { s.keySlot a with st := 2 } ∧ ∀ k, k ≠ a → t.keySlot k = s.keySlot k))) ∧
    -- INSTALL_CERT, READ_CERT
    (let n := s.rqN 1 2
     (3 < a ∨ 1800 < n → ∃ t, s.jdgRan .installCert 11 [] t ∧ s.jdgRefuses t 3) ∧
     (a ≤ 3 → n ≤ 1800 → (∀ c, s.adminCheck (3 + n) false = some c → ∃ t, s.jdgRan .installCert 11 [] t ∧ s.jdgRefuses t c) ∧
       (s.adminCheck (3 + n) false = none → ∃ t, s.jdgRan .installCert 11 [] t ∧ s.jdgSays t 1 [] ∧ t.mem = s.mem ∧
         t.jdg = { j with admin := j.admin + 1, certs := slSet j.certs a (s.rq 3 n) }))) ∧
    (let o := s.rqN 1 2
     let c := slGet [] j.certs a
     (3 < a ∨ c.length ≤ o → ∃ t, s.jdgRan .readCert 12 [] t ∧ s.jdgRefuses t 3) ∧
     (a ≤ 3 → o < c.length → ∃ t, s.jdgRan .readCert 12 [] t ∧ s.jdgSays t 1 [] ∧ t.jdg = j ∧
       s.jdgReplied t (toBytes 2 c.length ++ toBytes 2 (min 2044 (c.length - o)) ++ (c.drop o).take 2044))) ∧
    -- SET_MODE
    ((1 < a → ∃ t, s.jdgRan .setMode 14 [] t ∧ s.jdgRefuses t 3) ∧
     (a ≤ 1 → (∀ c, s.adminCheck 1 false = some c → ∃ t, s.jdgRan .setMode 14 [] t ∧ s.jdgRefuses t c) ∧
       (s.adminCheck 1 false = none → ∃ t, s.jdgRan .setMode 14 [] t ∧ s.jdgSays t 1 [] ∧ t.mem = s.mem ∧
         t.jdg = { j with admin := j.admin + 1, policy := a == 1 }))) ∧
    -- ENROLL, ZEROIZE
    ((∀ c, s.adminCheck 0 true = some c → ∃ t, s.jdgRan .enroll 10 [] t ∧ s.jdgRefuses t c) ∧
     (s.adminCheck 0 true = none → let h := Config.pufHelper j.enrols
       let f := Config.free s.freeCtr
       (f % 3 = 2 → ∃ t, s.jdgRan .enroll 10 [] t ∧ t.get F.JDG_STATUS_code 0 = 0x0A ∧ t.get F.JDG_STATE_error 0 = 1 ∧
         t.get F.JDG_STATE_approved 0 = 0 ∧ t.jdg.priv = j.priv ∧ t.mem = s.mem) ∧
       (f % 3 ≠ 2 → Config.pufSecret h = none → ∃ t, s.jdgRan .enroll 10 [] t ∧ t.get F.JDG_STATUS_code 0 = 0x0B ∧
         t.jdg.priv = j.priv ∧ t.mem = s.mem) ∧
       (∀ x, f % 3 ≠ 2 → Config.pufSecret h = some x → let pub := ed448Public (idKey x)
         ∃ t, s.jdgRan .enroll 10 [] t ∧ t.jdg.priv = some (idKey x) ∧ t.jdg.helper = some (h, shake256 pub 64) ∧
           t.jdg.admin = j.admin + 1 ∧ t.get F.JDG_STATE_identity 0 = 1 ∧
           (f / 3 % 3 = 2 → t.get F.JDG_STATUS_code 0 = 0x0A ∧ t.get F.JDG_STATE_error 0 = 1 ∧
             t.get F.JDG_STATE_approved 0 = 0 ∧ t.mem = s.mem) ∧
           (f / 3 % 3 ≠ 2 → t.get F.JDG_STATUS_code 0 = 1 ∧ s.jdgReplied t pub) ∧
           (f % 3 = 0 → f / 3 % 3 = 0 → s.jdgSays { t with freeCtr := s.freeCtr } 1 [R.JDG_STATE.addr 0])))) ∧
    (∃ t, s.jdgRan .zeroize 9 [] t ∧ t.get F.JDG_STATUS_code 0 = 0x0E ∧ t.get F.JDG_STATE_identity 0 = 0 ∧ t.mem = s.mem ∧
      t.jdg = { j with
        priv := none, helper := none, certs := [], chal := none, past := [], grant := none, doe := none, keys := [],
        copies := [{}, {}] } ∧
      t.keySlot 0 = s.keySlot 0) ∧
    -- SELF_TEST
    (∀ l : List (Fin 2 × Bool),
      let u := (l.filter (fun p => !p.2)).foldl (fun s _ => s.fltLog 0 0 0 0 0) s
      ((0, true) ∉ l → (1, true) ∉ l → ∃ t, s.jdgRan (.selfTest l) 13 l t ∧ u.jdgSays t 1 [] ∧ t.jdg = j ∧ s.jdgReplied t [3]) ∧
      ((0, true) ∈ l ∨ (1, true) ∈ l → ∃ t, s.jdgRan (.selfTest l) 13 l t ∧ u.jdgSays t 0x0A [R.JDG_STATE.addr 0] ∧ t.jdg = j ∧
        t.get F.JDG_STATE_error 0 = 1 ∧ t.get F.JDG_STATE_approved 0 = 0)))

/-- Tier 2 (R473 to R478, R481, R552). ATTEST answers the signed report, and is refused without an identity. DBG_CHALLENGE
advances the debug counter and answers it with the challenge. DBG_TOKEN grants the challenge's purposes until the expiry
only when the counter still stands, the key is in force for debug, the expiry lies ahead and the signature verifies. The
authorization ends by DBG_REVOKE, and by DEBUG_EXPIRY once the expiry has come. DOE_REQUEST of the module's own type is
answered with the report or an error while the Judge serves and runs no command, and waits otherwise; discovery is answered
at once, and an object of another type not at all; DOE_ABORT drops the request that waits. Each of these commands is shown
to answer a next state with its own effect, under conditions on the state and the operands alone: ATTEST, DBG_CHALLENGE,
DBG_TOKEN, DBG_REVOKE, DEBUG_EXPIRY, DOE_REQUEST, DOE_ABORT. -/
def Obligations.JudgeAuthorizes : Prop :=
  (∀ s : State, s.judgeUp = true → s.jdg.run = none → s.memOk →
    let j := s.jdg
    (s.identity = none → ∃ t, s.jdgRan .attest 5 [] t ∧ s.jdgRefuses t 9) ∧
    (∀ pub, s.identity = some pub → ∃ t r, s.jdgRan .attest 5 [] t ∧ s.report (s.rq 0 32) = some r ∧
      r.take (s.reportBody (s.rq 0 32) pub).length = s.reportBody (s.rq 0 32) pub ∧ s.jdgReplied t r ∧ s.jdgSays t 1 [] ∧
      t.jdg = j) ∧
    (let p := s.rqN 0 4
     (3 < p → ∃ t, s.jdgRan .dbgChallenge 6 [] t ∧ s.jdgRefuses t 3) ∧
     (p ≤ 3 → s.identity = none → ∃ t, s.jdgRan .dbgChallenge 6 [] t ∧ s.jdgRefuses t 9) ∧
     (∀ id, p ≤ 3 → s.identity = some id → j.dbg < 2 ^ 24 → let n := j.dbg + 1
       let c := shake256 (id ++ toBytes 8 n ++ toBytes 4 p) 64
       ∃ t, s.jdgRan .dbgChallenge 6 [] t ∧ s.jdgSays t 1 [] ∧ t.jdg = { j with dbg := n, chal := some (n, p, c), past := j.past ++ (j.chal.map (fun x => x.2.2)).toList } ∧
         s.jdgReplied t (toBytes 8 n ++ c))) ∧
    (j.chal = none → ∃ t, s.jdgRan .dbgToken 7 [] t ∧ s.jdgRefuses t 6) ∧
    (∀ n p c, j.chal = some (n, p, c) → let e := s.rqN 0 8
      let answers := fun (q : List Byte) => ed448Verify (s.keySlot (s.rqN 8 1)).pub (q ++ toBytes 8 e) (s.rq 9 114)
      let first := j.dbg = n ∧ ∀ q ∈ j.past, answers q = false
      (¬first → ∃ t, s.jdgRan .dbgToken 7 [] t ∧ s.jdgRefuses t 6) ∧
      (first → s.keyFor (s.rqN 8 1) 2 = none → ∃ t, s.jdgRan .dbgToken 7 [] t ∧ s.jdgRefuses t 5) ∧
      (∀ k, first → s.keyFor (s.rqN 8 1) 2 = some k →
        (e ≤ s.ns → ∃ t, s.jdgRan .dbgToken 7 [] t ∧ s.jdgRefuses t 8) ∧
        (s.ns < e → ed448Verify k (c ++ toBytes 8 e) (s.rq 9 114) = false →
          ∃ t, s.jdgRan .dbgToken 7 [] t ∧ s.jdgRefuses t 4) ∧
        (s.ns < e → ed448Verify k (c ++ toBytes 8 e) (s.rq 9 114) = true → ∃ t, s.jdgRan .dbgToken 7 [] t ∧
          s.jdgSays t 0x0F [R.JDG_DBG.addr 0] ∧ t.jdg = { j with grant := some (p, e) } ∧ t.get F.JDG_DBG_granted 0 = p % 4 ∧
          t.mem = s.mem))) ∧
    (j.grant = none → ∃ t, s.jdgRan .dbgRevoke 8 [] t ∧ s.jdgRefuses t 1) ∧
    (∀ g, j.grant = some g → ∃ t, s.jdgRan .dbgRevoke 8 [] t ∧ s.jdgSays t 0x10 [R.JDG_DBG.addr 0] ∧ t.mem = s.mem ∧
      t.jdg = { j with grant := none } ∧ t.get F.JDG_DBG_granted 0 = 0)) ∧
  (∀ s : State, (s.jdg.grant = none → exec .debugExpiry s = .next s) ∧
    (∀ g, s.jdg.grant = some g → (s.ns < g.2 → exec .debugExpiry s = .next s) ∧
      (g.2 ≤ s.ns → ∃ t, exec .debugExpiry s = .next t ∧ s.jdgSays t 0x10 [R.JDG_DBG.addr 0] ∧ t.mem = s.mem ∧
        t.jdg = { s.jdg with grant := none } ∧ t.get F.JDG_DBG_granted 0 = 0))) ∧
  (∀ (s : State) (q : DoeObj), let vendor := s.pciConfig 0 % 2 ^ 16
    let own := q.vendor = vendor ∧ q.typ = 1
    let disc := q.vendor = 1 ∧ q.typ = 0
    let good := q.body.length = 40 ∧ leNat (q.body.take 4) = 1 ∧ leNat ((q.body.drop 4).take 4) = 0
    (s.pcieOn = false ∨ ¬own ∧ ¬disc → exec (.doeRequest q) s = .next s) ∧
    (s.pcieOn = true → exec .doeAbort s = .next { s with jdg := { s.jdg with doe := none } }) ∧
    (s.pcieOn = true → disc → s.host.scanMode = 0 → ∃ r, r.length = 4 ∧
      exec (.doeRequest q) s = .next { s with out := s.out ++ [.doe 1 0 r] }) ∧
    (s.pcieOn = true → own → s.judgeFree = false ∨ s.jdg.ok = false →
      exec (.doeRequest q) s = .next { s with jdg := { s.jdg with doe := some q.body } }) ∧
    (s.pcieOn = true → own → s.judgeFree = true → s.jdg.ok = true → s.host.scanMode = 0 →
      (∀ r, good → s.report (q.body.drop 8) = some r →
        exec (.doeRequest q) s = .next { s with out := s.out ++ [.doe vendor 1 r] }) ∧
      (¬good ∨ s.identity = none → exec (.doeRequest q) s = .next { s with out := s.out ++ [.doe vendor 1 (toBytes 4 0xFFFF ++
        toBytes 4 (if good then 9 else 3))] })))

/-- Tier 2 (R287, R288, R289, R445, R550). Where no other upset waits in HBM, BAR2_WRITE puts each enabled byte at its HBM
place, but for bytes of the image store, and changes no other byte of memory and nothing else; of an access covered in part
whose read fails, also when issued again, nothing is written. BAR2_READ gives the bytes as the code delivers them, and the
access holds them from then on; a read of a channel out of service, and one that fails twice, is poisoned (code 3); a
corrected read, one that passes when issued again and one that fails are counted. While HBM is not available a write is
dropped, a read unsupported, and code 4 reported. Out of the BAR, or with the endpoint off or faulty, neither does anything.
Each of these commands is shown to answer a next state with its own effect, under conditions on the state and the operands
alone: BAR2_WRITE, BAR2_READ. -/
def Obligations.Bar2ReachesHbm : Prop :=
  ∀ (s : State) (a len : Nat) (bs : List (Byte × Bool)), s.host.scanMode = 0 →
    let p := s.bar2At a
    let rep (t : State) (c : Nat) : Prop := s.reports t R.HUB_PCI_STATUS 0 c ∧ s.onlyEvent t [R.HUB_PCI_STATUS.addr 0]
    let acc (x : Nat) := x % 2 ^ 41 / 64 * 64
    let read (x : Nat) := hbmDecode (acc x) (s.ldBytes (acc x) 64)
    let count (t : State) (f : Fld) : Prop := t.get f (p / 2 ^ 36 % 32) = satInc (s.get f (p / 2 ^ 36 % 32)) (2 ^ (f.hi + 1 - f.lo) - 1)
    let give (e : List (Fin 39 × BitVec 16)) : State := s.hbmGive (acc p) (hbmData (acc p) (s.ldBytes (acc p) 64) e)
    let data (v : State) := Emit.data (v.ldBytes p len)
    (∀ e, s.pcieOn = false ∨ 2 ^ s.host.bar2 < a + bs.length → exec (.bar2Write a bs e) s = .next s) ∧
    (∀ e, s.pcieOn = false ∨ 2 ^ s.host.bar2 < a + len → exec (.bar2Read a len e) s = .next s) ∧
    (s.pcieOn = true → a + bs.length ≤ 2 ^ s.host.bar2 → a + len ≤ 2 ^ s.host.bar2 →
      (s.hbmUp = false → ∀ e, (∃ t, exec (.bar2Write a bs e) s = .next t ∧ rep t 4) ∧
        ∃ t, exec (.bar2Read a len e) s = .next t ∧ rep t 4 ∧ ∃ m, t.out = s.out ++ [.unsupported] ++ m) ∧
      (s.hbmUp = true → s.memOk → s.hbmQuiet → p + bs.length ≤ 2 ^ 41 →
        (∃ t, exec (.bar2Write a bs .none) s = .next t ∧ t = { s with mem := t.mem } ∧ s.memBut t p bs.length ∧
          ∀ i < bs.length, ((bs.getD i (0, false)).2 = true → ¬s.inStore (p + i) → Mem.get t.mem (p + i) = (bs.getD i (0, false)).1) ∧
            ((bs.getD i (0, false)).2 = false ∨ s.inStore (p + i) → Mem.get t.mem (p + i) = Mem.get s.mem (p + i))) ∧
        (∀ o < bs.length, ∀ u : HbmUpset, partWrite p (bs.map (fun x => x.2)) o = true → read (p + o) u.first = .bad → read (p + o) u.again = .bad →
          ∃ t, exec (.bar2Write a bs ⟨[(o, u)]⟩) s = .next t ∧ s.memBut t p bs.length ∧
            ∀ i < bs.length, (p + i) / 64 = (p + o) / 64 → Mem.get t.mem (p + i) = Mem.get s.mem (p + i))) ∧
      (s.hbmUp = true → s.hbmBad p (p + len) = true → ∀ e, ∃ t, exec (.bar2Read a len e) s = .next t ∧ rep t 3 ∧
        ∃ m, t.out = s.out ++ [.poisoned] ++ m) ∧
      (s.hbmUp = true → s.upsets.hbm = [] → s.hbmBad p (p + len) = false → p + len ≤ 2 ^ 41 →
        exec (.bar2Read a len .none) s = .next { s with out := s.out ++ [data s] } ∧
        (0 < len → ∀ u : HbmUpset,
          (∀ e, s.memOk → s.memBut (give e) (acc p) 64) ∧
          (read p u.first = .clean → exec (.bar2Read a len ⟨[(0, u)]⟩) s =
            .next { s with mem := (give u.first).mem, out := s.out ++ [data (give u.first)] }) ∧
          (read p u.first = .corrected → ∃ t, exec (.bar2Read a len ⟨[(0, u)]⟩) s = .next t ∧ t.mem = (give u.first).mem ∧
            t.out = s.out ++ [data (give u.first)] ∧ count t F.HUB_HBM_ECC_CNT_corrected) ∧
          (read p u.first = .bad → read p u.again ≠ .bad → ∃ t m, exec (.bar2Read a len ⟨[(0, u)]⟩) s = .next t ∧
            t.mem = (give u.again).mem ∧ t.out = s.out ++ m ++ [data (give u.again)] ∧ count t F.HUB_HBM_ECC_CNT_transient) ∧
          (read p u.first = .bad → read p u.again = .bad → ∃ t, exec (.bar2Read a len ⟨[(0, u)]⟩) s = .next t ∧ t.mem = s.mem ∧
            .poisoned ∈ t.out ∧ t.get F.HUB_PCI_STATUS_code 0 = 3 ∧ count t F.HUB_HBM_ECC_CNT_lasting))))

/-- Tier 2 (R555 to R557, R559). Where no upset waits in HBM and no channel is out of service: an order that may not start, or
is of another operation, is left. One with a wrong `seq` completes with ORD_SEQ_MISMATCH, a malformed one with ORD_FORMAT.
NOP completes OK; a REG_WRITE of one pair writes it as REGISTER_WRITE does, and a refused address ends it with
ORD_ADDR_REFUSED; a write that freezes the module leaves the rest of the order for after the release; a REG_READ of one
address puts the value at `reply`; REG_POLL completes on a match, or with ORD_TIMEOUT, and else holds. ORDER_SCAN waits
while the clocks stand, the stewards restart or a start hurdle is due; else the firing is taken and a last NOP order
performed. Each of these commands is shown to answer a next state with its own effect, under conditions on the state and the
operands alone: ORDER_SCAN, NOP, REG_WRITE, REG_READ, REG_POLL. -/
def Obligations.OrdersComplete : Prop :=
  (∀ s : State, ∀ q ∈ [(Instr.nop, 1), (.regWrite, 2), (.regRead, 3), (.regPoll, 4)],
    (s.ordReady = false ∨ s.ordF 0 2 ≠ q.2 → exec q.1 s = .next s) ∧
    (s.ordReady = true → s.ordF 0 2 = q.2 → s.memOk → s.hbmQuiet →
      let seqOk := s.ordF 4 4 = s.get F.HUB_ORD_HEAD_head 0
      (¬seqOk → ∃ t, exec q.1 s = .next t ∧ s.completed t 2 0 0) ∧
      (seqOk → s.ordBad = true → ∃ t, exec q.1 s = .next t ∧ s.completed t 1 0 0))) ∧
  (∀ s : State, s.ordReady = true → s.memOk → s.hbmQuiet → s.ordF 4 4 = s.get F.HUB_ORD_HEAD_head 0 → s.ordBad = false →
    let at0 := s.ordF 32 4
    let write (a : BarAddr) (v : Word) (u : State) : Prop := a.toNat = at0 ∧ v.toNat = s.ordF 36 4 ∧ exec (.registerWrite a 15 v) s = .next u
    (s.ordF 0 2 = 1 → ∃ t, exec .nop s = .next t ∧ s.completed t 0 0 0) ∧
    (s.ordF 0 2 = 2 → s.host.pairsDone = 0 → ordRefused at0 = true → ∃ t, exec .regWrite s = .next t ∧ s.completed t 3 0 0) ∧
    (s.ordF 0 2 = 2 → s.host.pairsDone = 0 → ordRefused at0 = false → ∀ a v u, write a v u →
      (s.ordF 3 1 = 1 → u.live = true → u.memOk → ∃ t, exec .regWrite s = .next t ∧ u.completed t 0 1 0) ∧
      (u.live = false → exec .regWrite s = .next
        { u with host := { u.host with pairsDone := 1 }, pacer := { u.pacer with scanDue := true } })) ∧
    (s.ordF 0 2 = 3 → s.ordF 3 1 = 1 → let r := s.busRead at0
      let u := { r.1 with mem := Mem.write r.1.mem (s.ordF 24 8 % 2 ^ 41) (toBytes 4 r.2) }
      u.ld (s.ordF 24 8 % 2 ^ 41) 4 = r.2 % 2 ^ 32 ∧ ∃ t, exec .regRead s = .next t ∧ u.completed t 0 1 0) ∧
    (s.ordF 0 2 = 4 → let r := s.busRead at0
      let t0 := s.host.pollAt.getD s.ns
      let us := s.ordF 44 4
      let u := { r.1 with host := { r.1.host with pollAt := some t0 } }
      (r.2 &&& s.ordF 36 4 = s.ordF 40 4 → ∃ t, exec .regPoll s = .next t ∧ u.completed t 0 0 r.2) ∧
      (r.2 &&& s.ordF 36 4 ≠ s.ordF 40 4 → us ≠ 0 → t0 + 1000 * us ≤ s.ns → ∃ t, exec .regPoll s = .next t ∧
        u.completed t 4 0 r.2) ∧
      (r.2 &&& s.ordF 36 4 ≠ s.ordF 40 4 → us = 0 ∨ s.ns < t0 + 1000 * us → exec .regPoll s = .next u))) ∧
  (∀ s : State,
    (s.pacer.scanDue = false ∨ s.live = false ∨ s.starter.stewReady = false ∨ s.startMay = true → exec .orderScan s = .next s) ∧
    (s.pacer.scanDue = true → s.live = true → s.starter.stewReady = true → s.startMay = false →
      (s.ordReady = false → exec .orderScan s = .next { s with pacer := { s.pacer with scanDue := false } }) ∧
      (s.ordReady = true → s.memOk → s.hbmQuiet → 1 ≤ s.get F.HUB_ORD_CFG_batch 0 → s.ordF 4 4 = s.get F.HUB_ORD_HEAD_head 0 → s.ordBad = false →
        s.ordF 0 2 = 1 → s.get F.HUB_ORD_TAIL_tail 0 = (s.get F.HUB_ORD_HEAD_head 0 + 1) % 2 ^ 32 →
        ∃ t, exec .orderScan s = .next t ∧ t.pacer.scanDue = false ∧ s.completed t 0 0 0 ∧
          t.get F.HUB_ORD_HEAD_head 0 = t.get F.HUB_ORD_TAIL_tail 0)))

/-- Tier 2 (R547, R551, R569; R524, R563 to R566, R577, R590). PERST_N, HOT_RESET and FUNCTION_LEVEL_RESET reset the endpoint
alone: `b2_base`, the BAR size, the MSI-X table and PBA, a request that waits, HUB_PCI_STATUS, which then reports the reset
(code 5); memory, clusters, the debug authorization and every other register stay. PCI_LINK_DOWN reports the loss (code 1);
PCI_LINK_TRAINED shows width and rate and reports a degraded link (code 2). Before power is applied no SMBus transfer is
answered. One with a wrong PEC is NACKed. GET_ID and GET_STATE answer their 16 and 12 bytes; SET_BIB takes a bib only while
every link is DOWN, and the enabled links then train; READ_REG answers a register of RW fields with its value; CLEAR_ALERT
clears the causes of its mask whose condition no longer holds; ALERT_RESPONSE is answered while a cause is set. On the TAP,
BYPASS and CLAMP select the one-bit register, IDCODE the code; EXTEST, CLAMP and HIGHZ take the pins, so that no traffic
leaves over them; what SAMPLE_PRELOAD samples is a free value. Each of these commands is shown to answer a next state with
its own effect, under conditions on the state and the operands alone: PERST_N, HOT_RESET, FUNCTION_LEVEL_RESET,
PCI_LINK_DOWN, PCI_LINK_TRAINED, GET_ID, SET_BIB, GET_STATE, READ_REG, CLEAR_ALERT, ALERT_RESPONSE, BYPASS, IDCODE,
SAMPLE_PRELOAD, EXTEST, CLAMP, HIGHZ. -/
def Obligations.EndpointAndSideband : Prop :=
  (∀ s : State, s.pcieOn = true →
    (∀ c ∈ [Instr.perstN, .hotReset, .functionLevelReset], ∃ t, exec c s = .next t ∧ t.rd R.HUB_PCI_B2 0 = 0 ∧
      t.host = { s.host with msix := [], pba := 0, msixEn := false, funcMask := false, bar2 := 41 } ∧
      t.jdg = { s.jdg with doe := none } ∧ t.get F.HUB_PCI_STATUS_code 0 = 5 ∧ t.get F.HUB_PCI_STATUS_width 0 = 0 ∧ t.out = s.out ∧
      s.onlyEvent { t with host := s.host, jdg := s.jdg } [R.HUB_PCI_B2.addr 0, R.HUB_PCI_STATUS.addr 0]) ∧
    (∃ t, exec .pciLinkDown s = .next t ∧ t.get F.HUB_PCI_STATUS_width 0 = 0 ∧ t.get F.HUB_PCI_STATUS_rate 0 = 0 ∧
      s.reports t R.HUB_PCI_STATUS 0 1 ∧ s.onlyEvent t [R.HUB_PCI_STATUS.addr 0]) ∧
    (∀ w r : Nat, w ≤ 4 → 1 ≤ r → r ≤ 7 → ∃ t, exec (.pciLinkTrained w r) s = .next t ∧
      t.get F.HUB_PCI_STATUS_width 0 = w ∧ t.get F.HUB_PCI_STATUS_rate 0 = r ∧
      (w < 4 ∨ r < 7 → s.reports t R.HUB_PCI_STATUS 0 2 ∧ s.onlyEvent t [R.HUB_PCI_STATUS.addr 0]) ∧
      (w = 4 → r = 7 → s.onlyRegs t [R.HUB_PCI_STATUS.addr 0]))) ∧
  ((∀ (s : State), s.stage = 0 → ∀ pec, (∀ c ∈ [Instr.getId pec, .getState pec, .alertResponse], exec c s = .next s) ∧
    (∀ bib, exec (.setBib bib pec) s = .next s) ∧ (∀ a, exec (.readReg a pec) s = .next s) ∧
    (∀ m, exec (.clearAlert m pec) s = .next s)) ∧
  (∀ (s : State), s.stage ≠ 0 → s.host.scanMode = 0 →
    (∀ c ∈ [Instr.getId false, .getState false], exec c s = .next { s with out := s.out ++ [.nack] }) ∧
    (∀ bib, exec (.setBib bib false) s = .next { s with out := s.out ++ [.nack] }) ∧
    (∀ a, exec (.readReg a false) s = .next { s with out := s.out ++ [.nack] }) ∧
    (∀ m, exec (.clearAlert m false) s = .next { s with out := s.out ++ [.nack] }) ∧
    (∃ b : List Byte, exec (.getId true) s = .next { s with out := s.out ++ [.smbus b] } ∧ b.length = 16 ∧
      leNat (b.take 2) = s.get F.HUB_ID_PART_part 0 ∧ leNat ((b.drop 4).take 3) = s.get F.HUB_ID_BIB_bib 0 ∧
      leNat ((b.drop 7).take 1) = s.get F.HUB_ID_BIB_bib_valid 0 ∧
      leNat (b.drop 8) = s.get64 R.HUB_ID_SERIAL_LO R.HUB_ID_SERIAL_HI 0) ∧
    (∃ b : List Byte, exec (.getState true) s = .next { s with out := s.out ++ [.smbus b] } ∧ b.length = 12 ∧
      leNat (b.take 4) = s.hostReady % 2 ^ 32 ∧ leNat ((b.drop 5).take 1) = b2n s.flt.degraded ∧
      leNat ((b.drop 6).take 2) = s.get F.PWR_MEAS_bus_mv 0 ∧ leNat ((b.drop 8).take 2) = s.get F.PWR_MEAS_power_w 0 ∧
      leNat ((b.drop 10).take 1) = s.get F.PWR_THERM_t_max 0) ∧
    (∀ bib : BitVec 24, ((∀ l < 64, s.get F.RLY_STATE_state l = 0) → ∃ t, exec (.setBib bib true) s = .next t ∧
        t.get F.HUB_ID_BIB_bib 0 = bib.toNat ∧ t.get F.HUB_ID_BIB_bib_valid 0 = 1 ∧
        (∀ l < 64, t.get F.RLY_STATE_state l = s.get F.RLY_CTRL_enable l) ∧
        s.onlyRegs t (R.HUB_ID_BIB.addr 0 :: (List.range 64).map R.RLY_STATE.addr)) ∧
      ((∃ l < 64, s.get F.RLY_STATE_state l ≠ 0) → exec (.setBib bib true) s = .next { s with out := s.out ++ [.nack] })) ∧
    (∀ (a : Word) (r : RegDef) (u : Nat), r ∈ rwRegs → u < blkUnits r.blk → plainOf a.toNat = r.addr u → s.served r.blk u r.off = true →
      exec (.readReg a true) s = .next { s with out := s.out ++ [.smbus (toBytes 4 (s.rd r u).toNat)] }) ∧
    (s.alertCauses ≠ 0 → exec .alertResponse s = .next { s with out := s.out ++ [.smbus [0x58]] }) ∧
    (s.alertCauses = 0 → exec .alertResponse s = .next s)) ∧
  (∀ (s : State) (m : Byte), s.stage ≠ 0 → ∃ t, exec (.clearAlert m true) s = .next t ∧ t = { s with host := { s.host with alerts := t.host.alerts } } ∧
    ∀ i, bit t.host.alerts i = (bit s.host.alerts i && (!bit m.toNat i || bit s.alertHolds i))) ∧
  (∀ s : State,
    exec .bypass s = .next { s with host := { s.host with scanMode := 0 }, out := s.out ++ [.jtag 0] } ∧
    (∃ w, exec .idcode s = .next { s with host := { s.host with scanMode := 0 }, out := s.out ++ [.jtag w] } ∧
      bits w 31 28 = 1 ∧ bits w 27 12 = 0xA980 ∧ bits w 0 0 = 1) ∧
    (∀ v, ∃ w, exec (.samplePreload v) s = .next { s with freeCtr := s.freeCtr + 1, host := { s.host with scanMode := 0, scanCells := v }, out := s.out ++ [.jtag w] }) ∧
    (∀ q ∈ [(Instr.extest, 1), (.clamp, 2), (.highz, 3)], ∃ t, exec q.1 s = .next t ∧ t.host = { s.host with scanMode := q.2 } ∧
      t = { s with host := t.host, out := t.out } ∧ ∀ e : Emit, e.onPins = true → t.emit e = t)))

/-- Tier 2 (R376, R430, R431, R571, R574, R578 to R580). POWER_ON from stage 0 or 1 with the bus above 40.0 V, no freeze, no
trip held and, after a ride that ended, the bus above `sag_dv`, with nothing failing: every hub domain and every active
cluster of a die that is not in quarantine is on, the remap table is that of the copy with the higher generation, when both
are valid, its next mappings in effect, and stage 6 is reached; with neither copy valid bring-up stops at 0x83 with the
domains of step 0x02 alone switched on (log 135: the stacks and links of HB0 are not among them). PWR_OK_FALL loses all
volatile state, and at stage 0 ends a trip. MODULE_RESET with the key restarts bring-up, counts the reset and keeps site
time, the flash and the bib; it disarms every timer; without the key it does nothing. Each of these commands is shown to
answer a next state with its own effect, under conditions on the state and the operands alone: POWER_ON, PWR_OK_FALL,
MODULE_RESET. -/
def Obligations.PowerOnAndResets : Prop :=
  (∀ (s : State) (o : BringUp),
    (s.frozen = true ∨ 2 ≤ s.stage ∨ o.mv < 40000 ∨ s.pacer.thermtrip = true ∨ (s.pacer.waitBus = true ∧ o.mv ≤ s.sagMv) → exec (.powerOn o) s = .next s) ∧
    (s.live = true → s.stage ≤ 1 → 40000 ≤ o.mv → s.pacer.thermtrip = false → s.pacer.waitBus = false ∨ s.sagMv < o.mv →
      (bringUpClean o → s.remapBad [] = [] → ∃ t, exec (.powerOn o) s = .next t ∧ t.stage = 6 ∧ t.get F.HUB_HOST_READY_hbm 0 = 1 ∧
        t.get F.HUB_HOST_READY_dies 0 = 1 ∧ t.mem = s.mem ∧ t.pacer.time = s.pacer.time ∧ (∀ d ∈ hubDoms, t.dom d = .on) ∧
        t.flt.toRemapTable = ({ s with flt := { s.flt with toRemapTable :=
          (if s.flt.copy0.gen < s.flt.copy1.gen then s.flt.copy1.tab else s.flt.copy0.tab) } }).mapped.flt.toRemapTable ∧
        ((∀ d ∈ t.flt.dieMap, d < 17) → ∀ c ∈ t.allClus, t.quarIs 4 (unitOf c.die 0 0 0) = false → t.dom (.cluster c) = .on)) ∧
      (0 ∈ o.copyFails → 1 ∈ o.copyFails → ∃ t, exec (.powerOn o) s = .next t ∧ t.stage = 0x83 ∧ t.flt.degraded = true ∧
        t.mem = s.mem ∧ (∀ d ∈ hub0Doms, t.dom d = .on) ∧ ∀ d, d ∉ hub0Doms → t.dom d = s.dom d))) ∧
  (∀ s : State, (s.stage ≠ 0 → ∃ t, exec .pwrOkFall s = .next t ∧ s.wiped t 0 ∧ t.flash = s.flash ∧ t.flt.copy0 = s.flt.copy0 ∧
      t.flt.copy1 = s.flt.copy1 ∧ t.jdg.admin = s.jdg.admin ∧ t.jdg.dbg = s.jdg.dbg ∧ t.jdg.floor = s.jdg.floor ∧
      t.jdg.keys = s.jdg.keys ∧ t.jdg.priv = none ∧ t.jdg.grant = none) ∧
    (s.stage = 0 → exec .pwrOkFall s = .next { s with pacer := { s.pacer with thermtrip := false } })) ∧
  (∀ (s : State) (v : Word), s.live = true → s.domOn (.hubCtl 0) = true → let key := bits v.toNat 31 16 = 0xA980 ∧ bit v.toNat 0 = true
    (¬key → exec (.moduleReset v) s = .next s) ∧
    (key → ∃ t, exec (.moduleReset v) s = .next t ∧ t.stage = 1 ∧ t.mem = [] ∧ t.clus = [] ∧ t.lap = {} ∧ t.flash = s.flash ∧
      t.pending = s.pending ∧ t.pacer.time = s.pacer.time ∧ t.jdg.grant = none ∧ t.jdg.keys = s.jdg.keys ∧
      t.get F.HUB_RST_CAUSE_cause 0 = 1 ∧ t.get F.HUB_RST_CAUSE_resets 0 = satInc (s.get F.HUB_RST_CAUSE_resets 0) 0xFFFF ∧
      t.get F.HUB_ID_BIB_bib 0 = s.get F.HUB_ID_BIB_bib 0 ∧ ∀ n < 32, t.get F.PCR_SPT_CTRL_arm n = 0))

/-- Tier 2 (R373, R416, R471, R472, R474, R481, R571, R572). HUB_FW_SWITCH waits while the Judge runs a mailbox command, and
else makes a switch pending only when the inactive slot verifies again with the digest that VERIFY_FW reported; else it is
cancelled with `fallback` (code 0x0C); one under way is left. STEWARD_READY completes bring-up at stage 6 with the Judge
ready, and ends a restart from a slot that boots; both arm the order scan 50 us ahead, and a pending switch completes from
the other slot. STEWARD_READY_TIMEOUT retries the restart once and then falls back to the old slot. Each of these commands
is shown to answer a next state with its own effect, under conditions on the state and the operands alone: HUB_FW_SWITCH,
STEWARD_READY, STEWARD_READY_TIMEOUT. -/
def Obligations.StewardsAndFirmware : Prop :=
  ∀ s : State,
    let pend := s.get F.HUB_FW_STATUS_pending 0
    let act := s.get F.HUB_FW_STATUS_active 0
    let scan (t : State) : Prop := t.get64 R.PCR_SPT_CMP_LO R.PCR_SPT_CMP_HI 1 = (s.ns + 50000) % 2 ^ 64 ∧
      t.get F.PCR_SPT_CTRL_arm 1 = 1 ∧ t.get F.PCR_SPT_CTRL_periodic 1 = 1 ∧ t.get F.PCR_SPT_CTRL_target 1 = 2 ∧
      t.get F.PCR_SPT_PERIOD_period 1 = 50000
    (s.live = true → s.domOn (.hubCtl 0) = true →
      (pend = 1 ∨ s.flt.fwRestart = true ∨ s.flt.fwAsk = true → exec .hubFwSwitch s = .next s) ∧
      (pend = 0 → s.flt.fwRestart = false → s.flt.fwAsk = false → s.judgeUp = true → s.jdg.run ≠ none →
        exec .hubFwSwitch s = .next { s with flt := { s.flt with fwAsk := true } }) ∧
      (pend = 0 → s.flt.fwRestart = false → s.flt.fwAsk = false → s.judgeUp = false ∨ s.jdg.run = none →
        (∀ v, s.judgeUp = true → s.fwVerify (1 - act) = .ok v → slFind s.jdg.verified (1 - act) = some v.2 →
          ∃ t, exec .hubFwSwitch s = .next t ∧ t.get F.HUB_FW_STATUS_pending 0 = 1 ∧ t.flt = { s.flt with fwOk := true } ∧
            s.onlyRegs { t with flt := s.flt } [R.HUB_FW_STATUS.addr 0]) ∧
        (s.judgeUp = false ∨ (∃ c, s.fwVerify (1 - act) = .error c) ∨
            (∃ v, s.fwVerify (1 - act) = .ok v ∧ slFind s.jdg.verified (1 - act) ≠ some v.2) →
          ∃ t, exec .hubFwSwitch s = .next t ∧ t.get F.HUB_FW_STATUS_pending 0 = 0 ∧ t.get F.HUB_FW_STATUS_fallback 0 = 1 ∧
            s.fltSays t 0 0 0x0C ∧ s.onlyEvent t (R.HUB_FW_STATUS.addr 0 :: fltAddrs)))) ∧
    (s.live = true → s.domOn .stewards = true →
      (s.stage = 6 → s.get F.JDG_STATE_ready 0 = 1 → ∃ t, exec .stewardReady s = .next t ∧ t.stage = 0x0F ∧
        t.get F.HUB_HOST_READY_stewards 0 = 1 ∧ t.starter.stewReady = true ∧ scan t ∧ t.mem = s.mem ∧
        t.pacer.cap.v1 = 10000000 * s.get F.PWR_CAP_cap_w 0) ∧
      (s.stage ≠ 6 → s.flt.fwRestart = true → s.flt.fwLost = false → ∃ t, exec .stewardReady s = .next t ∧ t.flt.fwRestart = false ∧
        t.starter.stewReady = true ∧ scan t ∧ t.mem = s.mem ∧
        (pend = 1 → t.get F.HUB_FW_STATUS_active 0 = 1 - act ∧ t.get F.HUB_FW_STATUS_pending 0 = 0 ∧ t.jdg.boot = 1 - act ∧
          t.jdg.fw = some (s.fwHead (1 - act)) ∧
          s.fltSays t 0 0 0x0C) ∧
        (pend = 0 → t.get F.HUB_FW_STATUS_active 0 = act ∧ t.jdg = s.jdg)) ∧
      (s.stage ≠ 6 → s.flt.fwRestart = false ∨ s.flt.fwLost = true → exec .stewardReady s = .next s)) ∧
    (s.live = false ∨ s.flt.fwRestart = false ∨ pend = 0 → exec .stewardReadyTimeout s = .next s) ∧
    (s.live = true → s.flt.fwRestart = true → pend = 1 →
      (s.flt.fwFails = 0 → exec .stewardReadyTimeout s = .next { s with flt := { s.flt with fwFails := 1 } }) ∧
      (s.flt.fwFails ≠ 0 → ∃ t, exec .stewardReadyTimeout s = .next t ∧ t.get F.HUB_FW_STATUS_pending 0 = 0 ∧
        t.get F.HUB_FW_STATUS_fallback 0 = 1 ∧ t.get F.HUB_FW_STATUS_active 0 = act ∧ s.fltSays t 0 0 0x0C ∧
        s.onlyEvent { t with flt := s.flt } (R.HUB_FW_STATUS.addr 0 :: fltAddrs)))
end

