-- ==== Sys2Proof/Laws/Memory.lean ====
section
/-!
SUPPORT. Laws of the byte memories: reading, writing, and their canonical form (places strictly rising, no byte listed that
equals what an unlisted place reads as).
-/

namespace Sys2Proof.Machine

/-- The canonical form, as a statement about every listed cell. -/
theorem Mem.wf_cons (a : Nat) (b : Byte) (l : List Host.Cell) :
    Mem.wf ((a, b) :: l) = true ↔ b ≠ Mem.dflt ∧ (∀ p ∈ l, a < p.1) ∧ Mem.wf l = true := by
  induction l generalizing a b with
  | nil => simp [Mem.wf]
  | cons p l ih =>
    obtain ⟨k, v⟩ := p
    have h2 := ih k v
    simp only [Mem.wf, Bool.and_eq_true, bne_iff_ne, ne_eq, decide_eq_true_eq, List.mem_cons, forall_eq_or_imp]
    constructor
    · rintro ⟨⟨hb, hak⟩, hw⟩
      refine ⟨hb, ⟨hak, ?_⟩, hw⟩
      intro p hp
      have := (h2.mp hw).2.1 p hp
      omega
    · rintro ⟨hb, ⟨hak, _⟩, hw⟩
      exact ⟨⟨hb, hak⟩, hw⟩

/-- Every cell of the memory after a write is the written one or was there. -/
theorem Mem.mem_set (m : List Host.Cell) (a : Nat) (b : Byte) (p : Host.Cell) (h : p ∈ Mem.set m a b) :
    p = (a, b) ∨ p ∈ m := by
  induction m with
  | nil =>
    simp only [Mem.set] at h
    split at h <;> simp_all
  | cons q l ih =>
    obtain ⟨k, v⟩ := q
    simp only [Mem.set] at h
    split at h
    · simp only [List.mem_cons] at h ⊢
      rcases h with h | h
      · exact .inr (.inl h)
      · rcases ih h with h | h
        · exact .inl h
        · exact .inr (.inr h)
    · repeat' split at h
      all_goals simp only [List.mem_cons] at h ⊢
      · exact .inr (.inr h)
      · rcases h with h | h
        · exact .inl h
        · exact .inr (.inr h)
      · exact .inr h
      · exact h

/-- A write of one byte keeps the canonical form. -/
theorem Mem.wf_set (m : List Host.Cell) (a : Nat) (b : Byte) (h : Mem.wf m = true) : Mem.wf (Mem.set m a b) = true := by
  induction m with
  | nil =>
    simp only [Mem.set]
    split
    · rfl
    · rename_i hb
      simpa [Mem.wf] using hb
  | cons q l ih =>
    obtain ⟨k, v⟩ := q
    obtain ⟨hv, hl, hw⟩ := (Mem.wf_cons k v l).mp h
    simp only [Mem.set]
    split
    · rename_i hka
      refine (Mem.wf_cons _ _ _).mpr ⟨hv, ?_, ih hw⟩
      intro p hp
      rcases Mem.mem_set l a b p hp with rfl | hp
      · exact hka
      · exact hl p hp
    · rename_i hka
      split
      · rename_i e
        have e : k = a := by simpa using e
        split
        · exact hw
        · rename_i hb
          exact (Mem.wf_cons _ _ _).mpr ⟨by simpa using hb, by subst e; exact hl, hw⟩
      · rename_i e
        have e : ¬ k = a := by simpa using e
        split
        · exact h
        · rename_i hb
          refine (Mem.wf_cons _ _ _).mpr ⟨by simpa using hb, ?_, h⟩
          intro p hp
          simp only [List.mem_cons] at hp
          rcases hp with rfl | hp
          · show a < k; omega
          · have := hl p hp
            omega

/-- A write of several bytes keeps the canonical form. -/
theorem Mem.wf_write (m : List Host.Cell) (a : Nat) (bs : List Byte) (h : Mem.wf m = true) :
    Mem.wf (Mem.write m a bs) = true := by
  induction bs generalizing m a with
  | nil => exact h
  | cons b bs ih => exact ih _ _ (Mem.wf_set m a b h)

/-- Dropping cells keeps the canonical form. -/
theorem Mem.wf_filter (m : List Host.Cell) (f : Host.Cell → Bool) (h : Mem.wf m = true) : Mem.wf (m.filter f) = true := by
  induction m with
  | nil => rfl
  | cons q l ih =>
    obtain ⟨k, v⟩ := q
    obtain ⟨hv, hl, hw⟩ := (Mem.wf_cons k v l).mp h
    simp only [List.filter]
    split
    · exact (Mem.wf_cons _ _ _).mpr ⟨hv, fun p hp => hl p ((List.mem_filter.mp hp).1), ih hw⟩
    · exact ih hw

theorem Mem.wf_clear (m : List Host.Cell) (lo hi : Nat) (h : Mem.wf m = true) : Mem.wf (Mem.clear m lo hi) = true :=
  Mem.wf_filter _ _ h

@[simp] theorem Mem.wf_nil : Mem.wf [] = true := rfl

/-! ### Reading after writing -/

@[simp] theorem Mem.get_nil (a : Nat) : Mem.get [] a = Mem.dflt := rfl

theorem Mem.get_cons (k : Nat) (v : Byte) (l : List Host.Cell) (a : Nat) :
    Mem.get ((k, v) :: l) a = if k = a then v else Mem.get l a := by
  simp [Mem.get, slGet]

theorem Mem.get_absent (l : List Host.Cell) (a : Nat) (h : ∀ p ∈ l, a < p.1) : Mem.get l a = Mem.dflt := by
  induction l with
  | nil => rfl
  | cons q l ih =>
    obtain ⟨k, v⟩ := q
    have h1 := h (k, v) (List.mem_cons_self)
    have : ¬ k = a := by simp only at h1; omega
    rw [Mem.get_cons, if_neg this]
    exact ih (fun p hp => h p (List.mem_cons_of_mem _ hp))

/-- What a place reads as after a write of one byte. -/
theorem Mem.get_set (m : List Host.Cell) (a c : Nat) (b : Byte) (h : Mem.wf m = true) :
    Mem.get (Mem.set m a b) c = if c = a then b else Mem.get m c := by
  induction m with
  | nil =>
    simp only [Mem.set]
    split
    · rename_i e
      have e : b = Mem.dflt := by simpa using e
      simp [e]
    · rw [Mem.get_cons]
      by_cases e : c = a
      · simp [e]
      · simp [e, Ne.symm e]
  | cons q l ih =>
    obtain ⟨k, v⟩ := q
    obtain ⟨hv, hl, hw⟩ := (Mem.wf_cons k v l).mp h
    simp only [Mem.set]
    split
    · rename_i hka
      rw [Mem.get_cons, Mem.get_cons, ih hw]
      by_cases e : c = a
      · have : ¬ k = a := by omega
        simp [e, this]
      · simp [e]
    · rename_i hka
      split
      · rename_i e
        have e : k = a := by simpa using e
        subst e
        split
        · rename_i hb
          have hb : b = Mem.dflt := by simpa using hb
          by_cases e : c = k
          · subst e
            simp only [if_true, hb]
            exact Mem.get_absent l c hl
          · rw [Mem.get_cons]
            simp [e, Ne.symm e]
        · rw [Mem.get_cons, Mem.get_cons]
          by_cases e : c = k
          · simp [e]
          · simp [e, Ne.symm e]
      · rename_i e
        have e : ¬ k = a := by simpa using e
        split
        · rename_i hb
          have hb : b = Mem.dflt := by simpa using hb
          by_cases e' : c = a
          · subst e'
            simp only [if_true, hb]
            apply Mem.get_absent
            intro p hp
            simp only [List.mem_cons] at hp
            rcases hp with rfl | hp
            · show c < k; omega
            · have := hl p hp; omega
          · simp [e']
        · rw [Mem.get_cons]
          by_cases e' : c = a
          · simp [e']
          · simp [e', Ne.symm e']

/-- A byte outside those written reads as before. -/
theorem Mem.get_write_out (m : List Host.Cell) (a c : Nat) (bs : List Byte) (h : Mem.wf m = true)
    (hc : c < a ∨ a + bs.length ≤ c) : Mem.get (Mem.write m a bs) c = Mem.get m c := by
  induction bs generalizing m a with
  | nil => rfl
  | cons b bs ih =>
    simp only [List.length_cons] at hc
    show Mem.get (Mem.write (Mem.set m a b) (a + 1) bs) c = _
    rw [ih _ _ (Mem.wf_set m a b h) (by omega), Mem.get_set _ _ _ _ h, if_neg (by omega)]

/-- Reading back the bytes written gives them. -/
theorem Mem.read_write (m : List Host.Cell) (a : Nat) (bs : List Byte) (h : Mem.wf m = true) :
    Mem.read (Mem.write m a bs) a bs.length = bs := by
  induction bs generalizing m a with
  | nil => rfl
  | cons b bs ih =>
    have hw := Mem.wf_set m a b h
    show Mem.get (Mem.write (Mem.set m a b) (a + 1) bs) a
      :: Mem.read (Mem.write (Mem.set m a b) (a + 1) bs) (a + 1) bs.length = _
    rw [ih _ _ hw, Mem.get_write_out _ _ _ _ hw (by omega), Mem.get_set _ _ _ _ h, if_pos rfl]

/-- Bytes read outside those written are as before. -/
theorem Mem.read_write_out (m : List Host.Cell) (a c n : Nat) (bs : List Byte) (h : Mem.wf m = true)
    (hc : c + n ≤ a ∨ a + bs.length ≤ c) : Mem.read (Mem.write m a bs) c n = Mem.read m c n := by
  induction n generalizing c with
  | zero => rfl
  | succ n ih =>
    show Mem.get _ c :: Mem.read _ (c + 1) n = Mem.get _ c :: Mem.read _ (c + 1) n
    rw [ih (c + 1) (by omega), Mem.get_write_out _ _ _ _ h (by omega)]

@[simp] theorem toBytes_length (k n : Nat) : (toBytes k n).length = k := by
  induction k generalizing n with
  | zero => rfl
  | succ k ih => simp [toBytes, ih]

theorem leNat_toBytes (k n : Nat) : leNat (toBytes k n) = n % 256 ^ k := by
  induction k generalizing n with
  | zero => simp [toBytes, leNat, Nat.mod_one]
  | succ k ih =>
    have e : (2 : Nat) ^ 8 = 256 := rfl
    rw [toBytes, leNat, ih, BitVec.toNat_ofNat, e, Nat.pow_succ _ k, Nat.mul_comm (256 ^ k) 256, Nat.mod_mul]

theorem leNat_lt (l : List Byte) : leNat l < 256 ^ l.length := by
  induction l with
  | nil => simp [leNat]
  | cons b l ih =>
    have := b.isLt
    simp only [leNat, List.length_cons, Nat.pow_succ]
    omega

@[simp] theorem Mem.read_length (m : List Host.Cell) (a n : Nat) : (Mem.read m a n).length = n := by
  induction n generalizing a with
  | zero => rfl
  | succ n ih => simp [Mem.read, ih]

end Sys2Proof.Machine
end

