-- ==== Sys2Proof/Laws/Tables.lean ====
section
/-!
SUPPORT. Laws of the sparse tables and of bit fields.
-/

namespace Sys2Proof.Machine

/-! ### Sparse tables -/

@[simp] theorem slGet_nil {α : Type} (d : α) (k : Nat) : slGet d [] k = d := rfl

theorem slGet_cons {α : Type} (d : α) (p : Nat × α) (l : List (Nat × α)) (k : Nat) :
    slGet d (p :: l) k = if p.1 = k then p.2 else slGet d l k := by
  simp [slGet]

/-- A read of the key that was written gives the value written. -/
@[simp] theorem slGet_slSet_same {α : Type} (d : α) (l : List (Nat × α)) (k : Nat) (v : α) :
    slGet d (slSet l k v) k = v := by
  induction l with
  | nil => simp [slSet, slGet_cons]
  | cons p l ih =>
    obtain ⟨j, w⟩ := p
    simp only [slSet, beq_iff_eq]
    split
    · simp [slGet_cons]
    · split
      · simp [slGet_cons]
      · rename_i h _
        simp [slGet_cons, h, ih]

/-- A write of one key leaves every other key alone. -/
theorem slGet_slSet_other {α : Type} (d : α) (l : List (Nat × α)) (k j : Nat) (v : α) (h : j ≠ k) :
    slGet d (slSet l k v) j = slGet d l j := by
  have h' : ¬ k = j := fun e => h e.symm
  induction l with
  | nil => simp [slSet, slGet_cons, h']
  | cons p l ih =>
    obtain ⟨i, w⟩ := p
    simp only [slSet, beq_iff_eq]
    split
    · rename_i e
      subst e
      simp [slGet_cons, h']
    · split
      · simp [slGet_cons, h']
      · simp [slGet_cons, ih]

theorem slGet_slSet {α : Type} (d : α) (l : List (Nat × α)) (k j : Nat) (v : α) :
    slGet d (slSet l k v) j = if j = k then v else slGet d l j := by
  by_cases h : j = k
  · subst h; simp
  · simp [h, slGet_slSet_other]

/-- A key that was deleted reads as absent. -/
@[simp] theorem slGet_slDel_same {α : Type} (d : α) (l : List (Nat × α)) (k : Nat) : slGet d (slDel l k) k = d := by
  induction l with
  | nil => rfl
  | cons p l ih =>
    obtain ⟨j, w⟩ := p
    simp only [slDel, beq_iff_eq]
    split
    · exact ih
    · rename_i h
      simp [slGet_cons, h, ih]

theorem slGet_slDel_other {α : Type} (d : α) (l : List (Nat × α)) (k j : Nat) (h : j ≠ k) :
    slGet d (slDel l k) j = slGet d l j := by
  induction l with
  | nil => rfl
  | cons p l ih =>
    obtain ⟨i, w⟩ := p
    simp only [slDel, beq_iff_eq]
    split
    · rename_i e
      subst e
      have : ¬ i = j := fun e => h e.symm
      simp [slGet_cons, ih, this]
    · simp [slGet_cons, ih]

theorem slFind_eq {α : Type} (l : List (Nat × α)) (k : Nat) (d : α) : slGet d l k = (slFind l k).getD d := by
  induction l with
  | nil => rfl
  | cons p l ih =>
    obtain ⟨i, w⟩ := p
    simp only [slGet, slFind]
    split <;> simp [ih]

/-! ### Bit fields -/

theorem bits_lt (n hi lo : Nat) : bits n hi lo < 2 ^ (hi + 1 - lo) := Nat.mod_lt _ (Nat.two_pow_pos _)

/-- A number is its bits above a field, the field, and its bits below. -/
theorem bits_split (n hi lo : Nat) (h : lo ≤ hi + 1) :
    n = n / 2 ^ (hi + 1) * 2 ^ (hi + 1) + bits n hi lo * 2 ^ lo + n % 2 ^ lo := by
  unfold bits
  have e : 2 ^ (hi + 1) = 2 ^ (hi + 1 - lo) * 2 ^ lo := by rw [← Nat.pow_add]; congr 1; omega
  have h1 := Nat.div_add_mod n (2 ^ lo)
  have h2 := Nat.div_add_mod (n / 2 ^ lo) (2 ^ (hi + 1 - lo))
  have h3 : n / 2 ^ (hi + 1) = n / 2 ^ lo / 2 ^ (hi + 1 - lo) := by rw [Nat.div_div_eq_div_mul, e, Nat.mul_comm]
  rw [h3, e]
  generalize n / 2 ^ lo / 2 ^ (hi + 1 - lo) = a at *
  generalize n / 2 ^ lo % 2 ^ (hi + 1 - lo) = b at *
  generalize n % 2 ^ lo = c at *
  rw [← h2] at h1
  calc n = 2 ^ lo * (2 ^ (hi + 1 - lo) * a + b) + c := h1.symm
    _ = a * (2 ^ (hi + 1 - lo) * 2 ^ lo) + b * 2 ^ lo + c := by rw [Nat.mul_add]; congr 1; congr 1 <;> ac_rfl

theorem setBits_eq (n hi lo v : Nat) (h : lo ≤ hi + 1) :
    setBits n hi lo v = n / 2 ^ (hi + 1) * 2 ^ (hi + 1) + v % 2 ^ (hi + 1 - lo) * 2 ^ lo + n % 2 ^ lo := by
  unfold setBits
  have := bits_split n hi lo h
  omega

/-- A field that was set reads as the value set, cut to its width. -/
@[simp] theorem bits_setBits_same (n hi lo v : Nat) (h : lo ≤ hi + 1) :
    bits (setBits n hi lo v) hi lo = v % 2 ^ (hi + 1 - lo) := by
  rw [setBits_eq _ _ _ _ h]
  unfold bits
  have e : 2 ^ (hi + 1) = 2 ^ (hi + 1 - lo) * 2 ^ lo := by rw [← Nat.pow_add]; congr 1; omega
  rw [e]
  generalize n / _ = a
  have hc := Nat.mod_lt n (Nat.two_pow_pos lo)
  generalize n % 2 ^ lo = c at *
  have : a * (2 ^ (hi + 1 - lo) * 2 ^ lo) + v % 2 ^ (hi + 1 - lo) * 2 ^ lo + c
      = c + 2 ^ lo * (2 ^ (hi + 1 - lo) * a + v % 2 ^ (hi + 1 - lo)) := by
    rw [Nat.mul_add, Nat.add_comm c]; congr 1; congr 1 <;> ac_rfl
  rw [this, Nat.add_mul_div_left _ _ (Nat.two_pow_pos lo), Nat.div_eq_of_lt hc, Nat.zero_add,
    Nat.mul_add_mod, Nat.mod_mod]

/-- A field above the one that was set is unchanged. -/
theorem bits_setBits_above (n hi lo v hi' lo' : Nat) (h : lo ≤ hi + 1) (g : hi < lo') :
    bits (setBits n hi lo v) hi' lo' = bits n hi' lo' := by
  unfold bits
  congr 1
  have e : 2 ^ lo' = 2 ^ (hi + 1) * 2 ^ (lo' - (hi + 1)) := by rw [← Nat.pow_add]; congr 1; omega
  rw [e, ← Nat.div_div_eq_div_mul, ← Nat.div_div_eq_div_mul]
  congr 1
  rw [setBits_eq _ _ _ _ h]
  have e2 : 2 ^ (hi + 1) = 2 ^ (hi + 1 - lo) * 2 ^ lo := by rw [← Nat.pow_add]; congr 1; omega
  have hv := Nat.mod_lt v (Nat.two_pow_pos (hi + 1 - lo))
  have hc := Nat.mod_lt n (Nat.two_pow_pos lo)
  have hlt : v % 2 ^ (hi + 1 - lo) * 2 ^ lo + n % 2 ^ lo < 2 ^ (hi + 1) := by
    rw [e2]
    calc _ < v % 2 ^ (hi + 1 - lo) * 2 ^ lo + 2 ^ lo := by omega
      _ = (v % 2 ^ (hi + 1 - lo) + 1) * 2 ^ lo := by rw [Nat.add_mul, Nat.one_mul]
      _ ≤ _ := Nat.mul_le_mul_right _ hv
  rw [Nat.add_assoc, Nat.mul_comm, Nat.mul_add_div (Nat.two_pow_pos _), Nat.div_eq_of_lt hlt, Nat.add_zero]

/-- A field below the one that was set is unchanged. -/
theorem bits_setBits_below (n hi lo v hi' lo' : Nat) (h : lo ≤ hi + 1) (g : hi' < lo) :
    bits (setBits n hi lo v) hi' lo' = bits n hi' lo' := by
  by_cases hw : hi' + 1 ≤ lo'
  · have h0 : hi' + 1 - lo' = 0 := by omega
    unfold bits
    rw [h0, Nat.pow_zero, Nat.mod_one, Nat.mod_one]
  · have hm : ∀ m : Nat, bits m hi' lo' = m % 2 ^ lo / 2 ^ lo' % 2 ^ (hi' + 1 - lo') := by
      intro m
      unfold bits
      have hp : 2 ^ (hi' + 1 - lo') ∣ 2 ^ (lo - lo') := Nat.pow_dvd_pow 2 (by omega)
      have e : 2 ^ lo = 2 ^ lo' * 2 ^ (lo - lo') := by rw [← Nat.pow_add]; congr 1; omega
      rw [e, Nat.mod_mul_right_div_self, Nat.mod_mod_of_dvd _ hp]
    have e : 2 ^ (hi + 1) = 2 ^ lo * 2 ^ (hi + 1 - lo) := by rw [← Nat.pow_add]; congr 1; omega
    rw [hm, hm, setBits_eq _ _ _ _ h, e]
    congr 2
    generalize n / _ = a
    generalize v % _ = b
    have : a * (2 ^ lo * 2 ^ (hi + 1 - lo)) + b * 2 ^ lo + n % 2 ^ lo
        = n % 2 ^ lo + 2 ^ lo * (a * 2 ^ (hi + 1 - lo) + b) := by
      rw [Nat.mul_add, Nat.add_comm]; congr 1; congr 1 <;> ac_rfl
    rw [this, Nat.add_mul_mod_self_left, Nat.mod_mod]

/-- Setting a field of a 32-bit number keeps it one. -/
theorem setBits_lt (n hi lo v w : Nat) (h : lo ≤ hi + 1) (hw : hi + 1 ≤ w) (hn : n < 2 ^ w) : setBits n hi lo v < 2 ^ w := by
  rw [setBits_eq _ _ _ _ h]
  have e : 2 ^ w = 2 ^ (w - (hi + 1)) * 2 ^ (hi + 1) := by rw [← Nat.pow_add]; congr 1; omega
  have e2 : 2 ^ (hi + 1) = 2 ^ (hi + 1 - lo) * 2 ^ lo := by rw [← Nat.pow_add]; congr 1; omega
  have ha : n / 2 ^ (hi + 1) < 2 ^ (w - (hi + 1)) := by
    apply Nat.div_lt_of_lt_mul; rw [Nat.mul_comm, ← e]; exact hn
  have hv := Nat.mod_lt v (Nat.two_pow_pos (hi + 1 - lo))
  have hc := Nat.mod_lt n (Nat.two_pow_pos lo)
  have hlt : v % 2 ^ (hi + 1 - lo) * 2 ^ lo + n % 2 ^ lo < 2 ^ (hi + 1) := by
    rw [e2]
    calc _ < v % 2 ^ (hi + 1 - lo) * 2 ^ lo + 2 ^ lo := by omega
      _ = (v % 2 ^ (hi + 1 - lo) + 1) * 2 ^ lo := by rw [Nat.add_mul, Nat.one_mul]
      _ ≤ _ := Nat.mul_le_mul_right _ hv
  rw [e, Nat.add_assoc]
  calc _ < n / 2 ^ (hi + 1) * 2 ^ (hi + 1) + 2 ^ (hi + 1) := by omega
    _ = (n / 2 ^ (hi + 1) + 1) * 2 ^ (hi + 1) := by rw [Nat.add_mul, Nat.one_mul]
    _ ≤ _ := Nat.mul_le_mul_right _ ha

end Sys2Proof.Machine
end

