-- ==== Sys2Proof/Laws/State.lean ====
section
/-!
SUPPORT. One lemma per field of State per update of Machine/Ops.lean: what the update leaves alone; then what registers and
fields read as after a write.
-/

namespace Sys2Proof.Machine

variable (s : State)

/-! ### wr -/

@[simp] theorem State.wr_pending (r : RegDef) (u : Nat) (v : Word) : (s.wr r u v).pending = s.pending := rfl
@[simp] theorem State.wr_staged (r : RegDef) (u : Nat) (v : Word) : (s.wr r u v).staged = s.staged := rfl
@[simp] theorem State.wr_latch (r : RegDef) (u : Nat) (v : Word) : (s.wr r u v).latch = s.latch := rfl
@[simp] theorem State.wr_mem (r : RegDef) (u : Nat) (v : Word) : (s.wr r u v).mem = s.mem := rfl
@[simp] theorem State.wr_flash (r : RegDef) (u : Nat) (v : Word) : (s.wr r u v).flash = s.flash := rfl
@[simp] theorem State.wr_cores (r : RegDef) (u : Nat) (v : Word) : (s.wr r u v).cores = s.cores := rfl
@[simp] theorem State.wr_clus (r : RegDef) (u : Nat) (v : Word) : (s.wr r u v).clus = s.clus := rfl
@[simp] theorem State.wr_tensors (r : RegDef) (u : Nat) (v : Word) : (s.wr r u v).tensors = s.tensors := rfl
@[simp] theorem State.wr_outRegs (r : RegDef) (u : Nat) (v : Word) : (s.wr r u v).outRegs = s.outRegs := rfl
@[simp] theorem State.wr_sums (r : RegDef) (u : Nat) (v : Word) : (s.wr r u v).sums = s.sums := rfl
@[simp] theorem State.wr_mism (r : RegDef) (u : Nat) (v : Word) : (s.wr r u v).mism = s.mism := rfl
@[simp] theorem State.wr_gsums (r : RegDef) (u : Nat) (v : Word) : (s.wr r u v).gsums = s.gsums := rfl
@[simp] theorem State.wr_lap (r : RegDef) (u : Nat) (v : Word) : (s.wr r u v).lap = s.lap := rfl
@[simp] theorem State.wr_red (r : RegDef) (u : Nat) (v : Word) : (s.wr r u v).red = s.red := rfl
@[simp] theorem State.wr_gates (r : RegDef) (u : Nat) (v : Word) : (s.wr r u v).gates = s.gates := rfl
@[simp] theorem State.wr_pacer (r : RegDef) (u : Nat) (v : Word) : (s.wr r u v).pacer = s.pacer := rfl
@[simp] theorem State.wr_starter (r : RegDef) (u : Nat) (v : Word) : (s.wr r u v).starter = s.starter := rfl
@[simp] theorem State.wr_host (r : RegDef) (u : Nat) (v : Word) : (s.wr r u v).host = s.host := rfl
@[simp] theorem State.wr_flt (r : RegDef) (u : Nat) (v : Word) : (s.wr r u v).flt = s.flt := rfl
@[simp] theorem State.wr_links (r : RegDef) (u : Nat) (v : Word) : (s.wr r u v).links = s.links := rfl
@[simp] theorem State.wr_mbr (r : RegDef) (u : Nat) (v : Word) : (s.wr r u v).mbr = s.mbr := rfl
@[simp] theorem State.wr_snp (r : RegDef) (u : Nat) (v : Word) : (s.wr r u v).snp = s.snp := rfl
@[simp] theorem State.wr_img (r : RegDef) (u : Nat) (v : Word) : (s.wr r u v).img = s.img := rfl
@[simp] theorem State.wr_claims (r : RegDef) (u : Nat) (v : Word) : (s.wr r u v).claims = s.claims := rfl
@[simp] theorem State.wr_waits (r : RegDef) (u : Nat) (v : Word) : (s.wr r u v).waits = s.waits := rfl
@[simp] theorem State.wr_traces (r : RegDef) (u : Nat) (v : Word) : (s.wr r u v).traces = s.traces := rfl
@[simp] theorem State.wr_frz (r : RegDef) (u : Nat) (v : Word) : (s.wr r u v).frz = s.frz := rfl
@[simp] theorem State.wr_photo (r : RegDef) (u : Nat) (v : Word) : (s.wr r u v).photo = s.photo := rfl
@[simp] theorem State.wr_perf (r : RegDef) (u : Nat) (v : Word) : (s.wr r u v).perf = s.perf := rfl
@[simp] theorem State.wr_upsets (r : RegDef) (u : Nat) (v : Word) : (s.wr r u v).upsets = s.upsets := rfl
@[simp] theorem State.wr_jdg (r : RegDef) (u : Nat) (v : Word) : (s.wr r u v).jdg = s.jdg := rfl
@[simp] theorem State.wr_landBib (r : RegDef) (u : Nat) (v : Word) : (s.wr r u v).landBib = s.landBib := rfl
@[simp] theorem State.wr_recals (r : RegDef) (u : Nat) (v : Word) : (s.wr r u v).recals = s.recals := rfl
@[simp] theorem State.wr_trained (r : RegDef) (u : Nat) (v : Word) : (s.wr r u v).trained = s.trained := rfl
@[simp] theorem State.wr_recalWait (r : RegDef) (u : Nat) (v : Word) : (s.wr r u v).recalWait = s.recalWait := rfl
@[simp] theorem State.wr_doms (r : RegDef) (u : Nat) (v : Word) : (s.wr r u v).doms = s.doms := rfl
@[simp] theorem State.wr_freeCtr (r : RegDef) (u : Nat) (v : Word) : (s.wr r u v).freeCtr = s.freeCtr := rfl
@[simp] theorem State.wr_out (r : RegDef) (u : Nat) (v : Word) : (s.wr r u v).out = s.out := rfl

/-! ### put -/

@[simp] theorem State.put_pending (f : Fld) (u v : Nat) : (s.put f u v).pending = s.pending := rfl
@[simp] theorem State.put_staged (f : Fld) (u v : Nat) : (s.put f u v).staged = s.staged := rfl
@[simp] theorem State.put_latch (f : Fld) (u v : Nat) : (s.put f u v).latch = s.latch := rfl
@[simp] theorem State.put_mem (f : Fld) (u v : Nat) : (s.put f u v).mem = s.mem := rfl
@[simp] theorem State.put_flash (f : Fld) (u v : Nat) : (s.put f u v).flash = s.flash := rfl
@[simp] theorem State.put_cores (f : Fld) (u v : Nat) : (s.put f u v).cores = s.cores := rfl
@[simp] theorem State.put_clus (f : Fld) (u v : Nat) : (s.put f u v).clus = s.clus := rfl
@[simp] theorem State.put_tensors (f : Fld) (u v : Nat) : (s.put f u v).tensors = s.tensors := rfl
@[simp] theorem State.put_outRegs (f : Fld) (u v : Nat) : (s.put f u v).outRegs = s.outRegs := rfl
@[simp] theorem State.put_sums (f : Fld) (u v : Nat) : (s.put f u v).sums = s.sums := rfl
@[simp] theorem State.put_mism (f : Fld) (u v : Nat) : (s.put f u v).mism = s.mism := rfl
@[simp] theorem State.put_gsums (f : Fld) (u v : Nat) : (s.put f u v).gsums = s.gsums := rfl
@[simp] theorem State.put_lap (f : Fld) (u v : Nat) : (s.put f u v).lap = s.lap := rfl
@[simp] theorem State.put_red (f : Fld) (u v : Nat) : (s.put f u v).red = s.red := rfl
@[simp] theorem State.put_gates (f : Fld) (u v : Nat) : (s.put f u v).gates = s.gates := rfl
@[simp] theorem State.put_pacer (f : Fld) (u v : Nat) : (s.put f u v).pacer = s.pacer := rfl
@[simp] theorem State.put_starter (f : Fld) (u v : Nat) : (s.put f u v).starter = s.starter := rfl
@[simp] theorem State.put_host (f : Fld) (u v : Nat) : (s.put f u v).host = s.host := rfl
@[simp] theorem State.put_flt (f : Fld) (u v : Nat) : (s.put f u v).flt = s.flt := rfl
@[simp] theorem State.put_links (f : Fld) (u v : Nat) : (s.put f u v).links = s.links := rfl
@[simp] theorem State.put_mbr (f : Fld) (u v : Nat) : (s.put f u v).mbr = s.mbr := rfl
@[simp] theorem State.put_snp (f : Fld) (u v : Nat) : (s.put f u v).snp = s.snp := rfl
@[simp] theorem State.put_img (f : Fld) (u v : Nat) : (s.put f u v).img = s.img := rfl
@[simp] theorem State.put_claims (f : Fld) (u v : Nat) : (s.put f u v).claims = s.claims := rfl
@[simp] theorem State.put_waits (f : Fld) (u v : Nat) : (s.put f u v).waits = s.waits := rfl
@[simp] theorem State.put_traces (f : Fld) (u v : Nat) : (s.put f u v).traces = s.traces := rfl
@[simp] theorem State.put_frz (f : Fld) (u v : Nat) : (s.put f u v).frz = s.frz := rfl
@[simp] theorem State.put_photo (f : Fld) (u v : Nat) : (s.put f u v).photo = s.photo := rfl
@[simp] theorem State.put_perf (f : Fld) (u v : Nat) : (s.put f u v).perf = s.perf := rfl
@[simp] theorem State.put_upsets (f : Fld) (u v : Nat) : (s.put f u v).upsets = s.upsets := rfl
@[simp] theorem State.put_jdg (f : Fld) (u v : Nat) : (s.put f u v).jdg = s.jdg := rfl
@[simp] theorem State.put_landBib (f : Fld) (u v : Nat) : (s.put f u v).landBib = s.landBib := rfl
@[simp] theorem State.put_recals (f : Fld) (u v : Nat) : (s.put f u v).recals = s.recals := rfl
@[simp] theorem State.put_trained (f : Fld) (u v : Nat) : (s.put f u v).trained = s.trained := rfl
@[simp] theorem State.put_recalWait (f : Fld) (u v : Nat) : (s.put f u v).recalWait = s.recalWait := rfl
@[simp] theorem State.put_doms (f : Fld) (u v : Nat) : (s.put f u v).doms = s.doms := rfl
@[simp] theorem State.put_freeCtr (f : Fld) (u v : Nat) : (s.put f u v).freeCtr = s.freeCtr := rfl
@[simp] theorem State.put_out (f : Fld) (u v : Nat) : (s.put f u v).out = s.out := rfl

/-! ### put64 -/

@[simp] theorem State.put64_pending (r q : RegDef) (u n : Nat) : (s.put64 r q u n).pending = s.pending := rfl
@[simp] theorem State.put64_staged (r q : RegDef) (u n : Nat) : (s.put64 r q u n).staged = s.staged := rfl
@[simp] theorem State.put64_latch (r q : RegDef) (u n : Nat) : (s.put64 r q u n).latch = s.latch := rfl
@[simp] theorem State.put64_mem (r q : RegDef) (u n : Nat) : (s.put64 r q u n).mem = s.mem := rfl
@[simp] theorem State.put64_flash (r q : RegDef) (u n : Nat) : (s.put64 r q u n).flash = s.flash := rfl
@[simp] theorem State.put64_cores (r q : RegDef) (u n : Nat) : (s.put64 r q u n).cores = s.cores := rfl
@[simp] theorem State.put64_clus (r q : RegDef) (u n : Nat) : (s.put64 r q u n).clus = s.clus := rfl
@[simp] theorem State.put64_tensors (r q : RegDef) (u n : Nat) : (s.put64 r q u n).tensors = s.tensors := rfl
@[simp] theorem State.put64_outRegs (r q : RegDef) (u n : Nat) : (s.put64 r q u n).outRegs = s.outRegs := rfl
@[simp] theorem State.put64_sums (r q : RegDef) (u n : Nat) : (s.put64 r q u n).sums = s.sums := rfl
@[simp] theorem State.put64_mism (r q : RegDef) (u n : Nat) : (s.put64 r q u n).mism = s.mism := rfl
@[simp] theorem State.put64_gsums (r q : RegDef) (u n : Nat) : (s.put64 r q u n).gsums = s.gsums := rfl
@[simp] theorem State.put64_lap (r q : RegDef) (u n : Nat) : (s.put64 r q u n).lap = s.lap := rfl
@[simp] theorem State.put64_red (r q : RegDef) (u n : Nat) : (s.put64 r q u n).red = s.red := rfl
@[simp] theorem State.put64_gates (r q : RegDef) (u n : Nat) : (s.put64 r q u n).gates = s.gates := rfl
@[simp] theorem State.put64_pacer (r q : RegDef) (u n : Nat) : (s.put64 r q u n).pacer = s.pacer := rfl
@[simp] theorem State.put64_starter (r q : RegDef) (u n : Nat) : (s.put64 r q u n).starter = s.starter := rfl
@[simp] theorem State.put64_host (r q : RegDef) (u n : Nat) : (s.put64 r q u n).host = s.host := rfl
@[simp] theorem State.put64_flt (r q : RegDef) (u n : Nat) : (s.put64 r q u n).flt = s.flt := rfl
@[simp] theorem State.put64_links (r q : RegDef) (u n : Nat) : (s.put64 r q u n).links = s.links := rfl
@[simp] theorem State.put64_mbr (r q : RegDef) (u n : Nat) : (s.put64 r q u n).mbr = s.mbr := rfl
@[simp] theorem State.put64_snp (r q : RegDef) (u n : Nat) : (s.put64 r q u n).snp = s.snp := rfl
@[simp] theorem State.put64_img (r q : RegDef) (u n : Nat) : (s.put64 r q u n).img = s.img := rfl
@[simp] theorem State.put64_claims (r q : RegDef) (u n : Nat) : (s.put64 r q u n).claims = s.claims := rfl
@[simp] theorem State.put64_waits (r q : RegDef) (u n : Nat) : (s.put64 r q u n).waits = s.waits := rfl
@[simp] theorem State.put64_traces (r q : RegDef) (u n : Nat) : (s.put64 r q u n).traces = s.traces := rfl
@[simp] theorem State.put64_frz (r q : RegDef) (u n : Nat) : (s.put64 r q u n).frz = s.frz := rfl
@[simp] theorem State.put64_photo (r q : RegDef) (u n : Nat) : (s.put64 r q u n).photo = s.photo := rfl
@[simp] theorem State.put64_perf (r q : RegDef) (u n : Nat) : (s.put64 r q u n).perf = s.perf := rfl
@[simp] theorem State.put64_upsets (r q : RegDef) (u n : Nat) : (s.put64 r q u n).upsets = s.upsets := rfl
@[simp] theorem State.put64_jdg (r q : RegDef) (u n : Nat) : (s.put64 r q u n).jdg = s.jdg := rfl
@[simp] theorem State.put64_landBib (r q : RegDef) (u n : Nat) : (s.put64 r q u n).landBib = s.landBib := rfl
@[simp] theorem State.put64_recals (r q : RegDef) (u n : Nat) : (s.put64 r q u n).recals = s.recals := rfl
@[simp] theorem State.put64_trained (r q : RegDef) (u n : Nat) : (s.put64 r q u n).trained = s.trained := rfl
@[simp] theorem State.put64_recalWait (r q : RegDef) (u n : Nat) : (s.put64 r q u n).recalWait = s.recalWait := rfl
@[simp] theorem State.put64_doms (r q : RegDef) (u n : Nat) : (s.put64 r q u n).doms = s.doms := rfl
@[simp] theorem State.put64_freeCtr (r q : RegDef) (u n : Nat) : (s.put64 r q u n).freeCtr = s.freeCtr := rfl
@[simp] theorem State.put64_out (r q : RegDef) (u n : Nat) : (s.put64 r q u n).out = s.out := rfl

/-! ### setPend -/

@[simp] theorem State.setPend_pending (n : Nat) (b : Bool) : (s.setPend n b).pending = s.pending := rfl
@[simp] theorem State.setPend_staged (n : Nat) (b : Bool) : (s.setPend n b).staged = s.staged := rfl
@[simp] theorem State.setPend_latch (n : Nat) (b : Bool) : (s.setPend n b).latch = s.latch := rfl
@[simp] theorem State.setPend_mem (n : Nat) (b : Bool) : (s.setPend n b).mem = s.mem := rfl
@[simp] theorem State.setPend_flash (n : Nat) (b : Bool) : (s.setPend n b).flash = s.flash := rfl
@[simp] theorem State.setPend_cores (n : Nat) (b : Bool) : (s.setPend n b).cores = s.cores := rfl
@[simp] theorem State.setPend_clus (n : Nat) (b : Bool) : (s.setPend n b).clus = s.clus := rfl
@[simp] theorem State.setPend_tensors (n : Nat) (b : Bool) : (s.setPend n b).tensors = s.tensors := rfl
@[simp] theorem State.setPend_outRegs (n : Nat) (b : Bool) : (s.setPend n b).outRegs = s.outRegs := rfl
@[simp] theorem State.setPend_sums (n : Nat) (b : Bool) : (s.setPend n b).sums = s.sums := rfl
@[simp] theorem State.setPend_mism (n : Nat) (b : Bool) : (s.setPend n b).mism = s.mism := rfl
@[simp] theorem State.setPend_gsums (n : Nat) (b : Bool) : (s.setPend n b).gsums = s.gsums := rfl
@[simp] theorem State.setPend_lap (n : Nat) (b : Bool) : (s.setPend n b).lap = s.lap := rfl
@[simp] theorem State.setPend_red (n : Nat) (b : Bool) : (s.setPend n b).red = s.red := rfl
@[simp] theorem State.setPend_gates (n : Nat) (b : Bool) : (s.setPend n b).gates = s.gates := rfl
@[simp] theorem State.setPend_pacer (n : Nat) (b : Bool) : (s.setPend n b).pacer = s.pacer := rfl
@[simp] theorem State.setPend_starter (n : Nat) (b : Bool) : (s.setPend n b).starter = s.starter := rfl
@[simp] theorem State.setPend_host (n : Nat) (b : Bool) : (s.setPend n b).host = s.host := rfl
@[simp] theorem State.setPend_flt (n : Nat) (b : Bool) : (s.setPend n b).flt = s.flt := rfl
@[simp] theorem State.setPend_links (n : Nat) (b : Bool) : (s.setPend n b).links = s.links := rfl
@[simp] theorem State.setPend_mbr (n : Nat) (b : Bool) : (s.setPend n b).mbr = s.mbr := rfl
@[simp] theorem State.setPend_snp (n : Nat) (b : Bool) : (s.setPend n b).snp = s.snp := rfl
@[simp] theorem State.setPend_img (n : Nat) (b : Bool) : (s.setPend n b).img = s.img := rfl
@[simp] theorem State.setPend_claims (n : Nat) (b : Bool) : (s.setPend n b).claims = s.claims := rfl
@[simp] theorem State.setPend_waits (n : Nat) (b : Bool) : (s.setPend n b).waits = s.waits := rfl
@[simp] theorem State.setPend_traces (n : Nat) (b : Bool) : (s.setPend n b).traces = s.traces := rfl
@[simp] theorem State.setPend_frz (n : Nat) (b : Bool) : (s.setPend n b).frz = s.frz := rfl
@[simp] theorem State.setPend_photo (n : Nat) (b : Bool) : (s.setPend n b).photo = s.photo := rfl
@[simp] theorem State.setPend_perf (n : Nat) (b : Bool) : (s.setPend n b).perf = s.perf := rfl
@[simp] theorem State.setPend_upsets (n : Nat) (b : Bool) : (s.setPend n b).upsets = s.upsets := rfl
@[simp] theorem State.setPend_jdg (n : Nat) (b : Bool) : (s.setPend n b).jdg = s.jdg := rfl
@[simp] theorem State.setPend_landBib (n : Nat) (b : Bool) : (s.setPend n b).landBib = s.landBib := rfl
@[simp] theorem State.setPend_recals (n : Nat) (b : Bool) : (s.setPend n b).recals = s.recals := rfl
@[simp] theorem State.setPend_trained (n : Nat) (b : Bool) : (s.setPend n b).trained = s.trained := rfl
@[simp] theorem State.setPend_recalWait (n : Nat) (b : Bool) : (s.setPend n b).recalWait = s.recalWait := rfl
@[simp] theorem State.setPend_doms (n : Nat) (b : Bool) : (s.setPend n b).doms = s.doms := rfl
@[simp] theorem State.setPend_freeCtr (n : Nat) (b : Bool) : (s.setPend n b).freeCtr = s.freeCtr := rfl
@[simp] theorem State.setPend_out (n : Nat) (b : Bool) : (s.setPend n b).out = s.out := rfl

/-! ### satUp -/

@[simp] theorem State.satUp_pending (f : Fld) (u : Nat) : (s.satUp f u).pending = s.pending := rfl
@[simp] theorem State.satUp_staged (f : Fld) (u : Nat) : (s.satUp f u).staged = s.staged := rfl
@[simp] theorem State.satUp_latch (f : Fld) (u : Nat) : (s.satUp f u).latch = s.latch := rfl
@[simp] theorem State.satUp_mem (f : Fld) (u : Nat) : (s.satUp f u).mem = s.mem := rfl
@[simp] theorem State.satUp_flash (f : Fld) (u : Nat) : (s.satUp f u).flash = s.flash := rfl
@[simp] theorem State.satUp_cores (f : Fld) (u : Nat) : (s.satUp f u).cores = s.cores := rfl
@[simp] theorem State.satUp_clus (f : Fld) (u : Nat) : (s.satUp f u).clus = s.clus := rfl
@[simp] theorem State.satUp_tensors (f : Fld) (u : Nat) : (s.satUp f u).tensors = s.tensors := rfl
@[simp] theorem State.satUp_outRegs (f : Fld) (u : Nat) : (s.satUp f u).outRegs = s.outRegs := rfl
@[simp] theorem State.satUp_sums (f : Fld) (u : Nat) : (s.satUp f u).sums = s.sums := rfl
@[simp] theorem State.satUp_mism (f : Fld) (u : Nat) : (s.satUp f u).mism = s.mism := rfl
@[simp] theorem State.satUp_gsums (f : Fld) (u : Nat) : (s.satUp f u).gsums = s.gsums := rfl
@[simp] theorem State.satUp_lap (f : Fld) (u : Nat) : (s.satUp f u).lap = s.lap := rfl
@[simp] theorem State.satUp_red (f : Fld) (u : Nat) : (s.satUp f u).red = s.red := rfl
@[simp] theorem State.satUp_gates (f : Fld) (u : Nat) : (s.satUp f u).gates = s.gates := rfl
@[simp] theorem State.satUp_pacer (f : Fld) (u : Nat) : (s.satUp f u).pacer = s.pacer := rfl
@[simp] theorem State.satUp_starter (f : Fld) (u : Nat) : (s.satUp f u).starter = s.starter := rfl
@[simp] theorem State.satUp_host (f : Fld) (u : Nat) : (s.satUp f u).host = s.host := rfl
@[simp] theorem State.satUp_flt (f : Fld) (u : Nat) : (s.satUp f u).flt = s.flt := rfl
@[simp] theorem State.satUp_links (f : Fld) (u : Nat) : (s.satUp f u).links = s.links := rfl
@[simp] theorem State.satUp_mbr (f : Fld) (u : Nat) : (s.satUp f u).mbr = s.mbr := rfl
@[simp] theorem State.satUp_snp (f : Fld) (u : Nat) : (s.satUp f u).snp = s.snp := rfl
@[simp] theorem State.satUp_img (f : Fld) (u : Nat) : (s.satUp f u).img = s.img := rfl
@[simp] theorem State.satUp_claims (f : Fld) (u : Nat) : (s.satUp f u).claims = s.claims := rfl
@[simp] theorem State.satUp_waits (f : Fld) (u : Nat) : (s.satUp f u).waits = s.waits := rfl
@[simp] theorem State.satUp_traces (f : Fld) (u : Nat) : (s.satUp f u).traces = s.traces := rfl
@[simp] theorem State.satUp_frz (f : Fld) (u : Nat) : (s.satUp f u).frz = s.frz := rfl
@[simp] theorem State.satUp_photo (f : Fld) (u : Nat) : (s.satUp f u).photo = s.photo := rfl
@[simp] theorem State.satUp_perf (f : Fld) (u : Nat) : (s.satUp f u).perf = s.perf := rfl
@[simp] theorem State.satUp_upsets (f : Fld) (u : Nat) : (s.satUp f u).upsets = s.upsets := rfl
@[simp] theorem State.satUp_jdg (f : Fld) (u : Nat) : (s.satUp f u).jdg = s.jdg := rfl
@[simp] theorem State.satUp_landBib (f : Fld) (u : Nat) : (s.satUp f u).landBib = s.landBib := rfl
@[simp] theorem State.satUp_recals (f : Fld) (u : Nat) : (s.satUp f u).recals = s.recals := rfl
@[simp] theorem State.satUp_trained (f : Fld) (u : Nat) : (s.satUp f u).trained = s.trained := rfl
@[simp] theorem State.satUp_recalWait (f : Fld) (u : Nat) : (s.satUp f u).recalWait = s.recalWait := rfl
@[simp] theorem State.satUp_doms (f : Fld) (u : Nat) : (s.satUp f u).doms = s.doms := rfl
@[simp] theorem State.satUp_freeCtr (f : Fld) (u : Nat) : (s.satUp f u).freeCtr = s.freeCtr := rfl
@[simp] theorem State.satUp_out (f : Fld) (u : Nat) : (s.satUp f u).out = s.out := rfl

/-! ### stBytes -/

@[simp] theorem State.stBytes_pending (a : Nat) (bs : List Byte) : (s.stBytes a bs).pending = s.pending := rfl
@[simp] theorem State.stBytes_regs (a : Nat) (bs : List Byte) : (s.stBytes a bs).regs = s.regs := rfl
@[simp] theorem State.stBytes_staged (a : Nat) (bs : List Byte) : (s.stBytes a bs).staged = s.staged := rfl
@[simp] theorem State.stBytes_latch (a : Nat) (bs : List Byte) : (s.stBytes a bs).latch = s.latch := rfl
@[simp] theorem State.stBytes_flash (a : Nat) (bs : List Byte) : (s.stBytes a bs).flash = s.flash := rfl
@[simp] theorem State.stBytes_cores (a : Nat) (bs : List Byte) : (s.stBytes a bs).cores = s.cores := rfl
@[simp] theorem State.stBytes_clus (a : Nat) (bs : List Byte) : (s.stBytes a bs).clus = s.clus := rfl
@[simp] theorem State.stBytes_tensors (a : Nat) (bs : List Byte) : (s.stBytes a bs).tensors = s.tensors := rfl
@[simp] theorem State.stBytes_outRegs (a : Nat) (bs : List Byte) : (s.stBytes a bs).outRegs = s.outRegs := rfl
@[simp] theorem State.stBytes_sums (a : Nat) (bs : List Byte) : (s.stBytes a bs).sums = s.sums := rfl
@[simp] theorem State.stBytes_mism (a : Nat) (bs : List Byte) : (s.stBytes a bs).mism = s.mism := rfl
@[simp] theorem State.stBytes_gsums (a : Nat) (bs : List Byte) : (s.stBytes a bs).gsums = s.gsums := rfl
@[simp] theorem State.stBytes_lap (a : Nat) (bs : List Byte) : (s.stBytes a bs).lap = s.lap := rfl
@[simp] theorem State.stBytes_red (a : Nat) (bs : List Byte) : (s.stBytes a bs).red = s.red := rfl
@[simp] theorem State.stBytes_gates (a : Nat) (bs : List Byte) : (s.stBytes a bs).gates = s.gates := rfl
@[simp] theorem State.stBytes_pacer (a : Nat) (bs : List Byte) : (s.stBytes a bs).pacer = s.pacer := rfl
@[simp] theorem State.stBytes_starter (a : Nat) (bs : List Byte) : (s.stBytes a bs).starter = s.starter := rfl
@[simp] theorem State.stBytes_host (a : Nat) (bs : List Byte) : (s.stBytes a bs).host = s.host := rfl
@[simp] theorem State.stBytes_flt (a : Nat) (bs : List Byte) : (s.stBytes a bs).flt = s.flt := rfl
@[simp] theorem State.stBytes_links (a : Nat) (bs : List Byte) : (s.stBytes a bs).links = s.links := rfl
@[simp] theorem State.stBytes_mbr (a : Nat) (bs : List Byte) : (s.stBytes a bs).mbr = s.mbr := rfl
@[simp] theorem State.stBytes_snp (a : Nat) (bs : List Byte) : (s.stBytes a bs).snp = s.snp := rfl
@[simp] theorem State.stBytes_img (a : Nat) (bs : List Byte) : (s.stBytes a bs).img = s.img := rfl
@[simp] theorem State.stBytes_claims (a : Nat) (bs : List Byte) : (s.stBytes a bs).claims = s.claims := rfl
@[simp] theorem State.stBytes_waits (a : Nat) (bs : List Byte) : (s.stBytes a bs).waits = s.waits := rfl
@[simp] theorem State.stBytes_traces (a : Nat) (bs : List Byte) : (s.stBytes a bs).traces = s.traces := rfl
@[simp] theorem State.stBytes_frz (a : Nat) (bs : List Byte) : (s.stBytes a bs).frz = s.frz := rfl
@[simp] theorem State.stBytes_photo (a : Nat) (bs : List Byte) : (s.stBytes a bs).photo = s.photo := rfl
@[simp] theorem State.stBytes_perf (a : Nat) (bs : List Byte) : (s.stBytes a bs).perf = s.perf := rfl
@[simp] theorem State.stBytes_upsets (a : Nat) (bs : List Byte) : (s.stBytes a bs).upsets = s.upsets := rfl
@[simp] theorem State.stBytes_jdg (a : Nat) (bs : List Byte) : (s.stBytes a bs).jdg = s.jdg := rfl
@[simp] theorem State.stBytes_landBib (a : Nat) (bs : List Byte) : (s.stBytes a bs).landBib = s.landBib := rfl
@[simp] theorem State.stBytes_recals (a : Nat) (bs : List Byte) : (s.stBytes a bs).recals = s.recals := rfl
@[simp] theorem State.stBytes_trained (a : Nat) (bs : List Byte) : (s.stBytes a bs).trained = s.trained := rfl
@[simp] theorem State.stBytes_recalWait (a : Nat) (bs : List Byte) : (s.stBytes a bs).recalWait = s.recalWait := rfl
@[simp] theorem State.stBytes_doms (a : Nat) (bs : List Byte) : (s.stBytes a bs).doms = s.doms := rfl
@[simp] theorem State.stBytes_freeCtr (a : Nat) (bs : List Byte) : (s.stBytes a bs).freeCtr = s.freeCtr := rfl
@[simp] theorem State.stBytes_out (a : Nat) (bs : List Byte) : (s.stBytes a bs).out = s.out := rfl

/-! ### st -/

@[simp] theorem State.st_pending (a n v : Nat) : (s.st a n v).pending = s.pending := rfl
@[simp] theorem State.st_regs (a n v : Nat) : (s.st a n v).regs = s.regs := rfl
@[simp] theorem State.st_staged (a n v : Nat) : (s.st a n v).staged = s.staged := rfl
@[simp] theorem State.st_latch (a n v : Nat) : (s.st a n v).latch = s.latch := rfl
@[simp] theorem State.st_flash (a n v : Nat) : (s.st a n v).flash = s.flash := rfl
@[simp] theorem State.st_cores (a n v : Nat) : (s.st a n v).cores = s.cores := rfl
@[simp] theorem State.st_clus (a n v : Nat) : (s.st a n v).clus = s.clus := rfl
@[simp] theorem State.st_tensors (a n v : Nat) : (s.st a n v).tensors = s.tensors := rfl
@[simp] theorem State.st_outRegs (a n v : Nat) : (s.st a n v).outRegs = s.outRegs := rfl
@[simp] theorem State.st_sums (a n v : Nat) : (s.st a n v).sums = s.sums := rfl
@[simp] theorem State.st_mism (a n v : Nat) : (s.st a n v).mism = s.mism := rfl
@[simp] theorem State.st_gsums (a n v : Nat) : (s.st a n v).gsums = s.gsums := rfl
@[simp] theorem State.st_lap (a n v : Nat) : (s.st a n v).lap = s.lap := rfl
@[simp] theorem State.st_red (a n v : Nat) : (s.st a n v).red = s.red := rfl
@[simp] theorem State.st_gates (a n v : Nat) : (s.st a n v).gates = s.gates := rfl
@[simp] theorem State.st_pacer (a n v : Nat) : (s.st a n v).pacer = s.pacer := rfl
@[simp] theorem State.st_starter (a n v : Nat) : (s.st a n v).starter = s.starter := rfl
@[simp] theorem State.st_host (a n v : Nat) : (s.st a n v).host = s.host := rfl
@[simp] theorem State.st_flt (a n v : Nat) : (s.st a n v).flt = s.flt := rfl
@[simp] theorem State.st_links (a n v : Nat) : (s.st a n v).links = s.links := rfl
@[simp] theorem State.st_mbr (a n v : Nat) : (s.st a n v).mbr = s.mbr := rfl
@[simp] theorem State.st_snp (a n v : Nat) : (s.st a n v).snp = s.snp := rfl
@[simp] theorem State.st_img (a n v : Nat) : (s.st a n v).img = s.img := rfl
@[simp] theorem State.st_claims (a n v : Nat) : (s.st a n v).claims = s.claims := rfl
@[simp] theorem State.st_waits (a n v : Nat) : (s.st a n v).waits = s.waits := rfl
@[simp] theorem State.st_traces (a n v : Nat) : (s.st a n v).traces = s.traces := rfl
@[simp] theorem State.st_frz (a n v : Nat) : (s.st a n v).frz = s.frz := rfl
@[simp] theorem State.st_photo (a n v : Nat) : (s.st a n v).photo = s.photo := rfl
@[simp] theorem State.st_perf (a n v : Nat) : (s.st a n v).perf = s.perf := rfl
@[simp] theorem State.st_upsets (a n v : Nat) : (s.st a n v).upsets = s.upsets := rfl
@[simp] theorem State.st_jdg (a n v : Nat) : (s.st a n v).jdg = s.jdg := rfl
@[simp] theorem State.st_landBib (a n v : Nat) : (s.st a n v).landBib = s.landBib := rfl
@[simp] theorem State.st_recals (a n v : Nat) : (s.st a n v).recals = s.recals := rfl
@[simp] theorem State.st_trained (a n v : Nat) : (s.st a n v).trained = s.trained := rfl
@[simp] theorem State.st_recalWait (a n v : Nat) : (s.st a n v).recalWait = s.recalWait := rfl
@[simp] theorem State.st_doms (a n v : Nat) : (s.st a n v).doms = s.doms := rfl
@[simp] theorem State.st_freeCtr (a n v : Nat) : (s.st a n v).freeCtr = s.freeCtr := rfl
@[simp] theorem State.st_out (a n v : Nat) : (s.st a n v).out = s.out := rfl

/-! ### setClu -/

@[simp] theorem State.setClu_pending (c : Clu) (x : Cluster) : (s.setClu c x).pending = s.pending := rfl
@[simp] theorem State.setClu_regs (c : Clu) (x : Cluster) : (s.setClu c x).regs = s.regs := rfl
@[simp] theorem State.setClu_staged (c : Clu) (x : Cluster) : (s.setClu c x).staged = s.staged := rfl
@[simp] theorem State.setClu_latch (c : Clu) (x : Cluster) : (s.setClu c x).latch = s.latch := rfl
@[simp] theorem State.setClu_mem (c : Clu) (x : Cluster) : (s.setClu c x).mem = s.mem := rfl
@[simp] theorem State.setClu_flash (c : Clu) (x : Cluster) : (s.setClu c x).flash = s.flash := rfl
@[simp] theorem State.setClu_cores (c : Clu) (x : Cluster) : (s.setClu c x).cores = s.cores := rfl
@[simp] theorem State.setClu_tensors (c : Clu) (x : Cluster) : (s.setClu c x).tensors = s.tensors := rfl
@[simp] theorem State.setClu_outRegs (c : Clu) (x : Cluster) : (s.setClu c x).outRegs = s.outRegs := rfl
@[simp] theorem State.setClu_sums (c : Clu) (x : Cluster) : (s.setClu c x).sums = s.sums := rfl
@[simp] theorem State.setClu_mism (c : Clu) (x : Cluster) : (s.setClu c x).mism = s.mism := rfl
@[simp] theorem State.setClu_gsums (c : Clu) (x : Cluster) : (s.setClu c x).gsums = s.gsums := rfl
@[simp] theorem State.setClu_lap (c : Clu) (x : Cluster) : (s.setClu c x).lap = s.lap := rfl
@[simp] theorem State.setClu_red (c : Clu) (x : Cluster) : (s.setClu c x).red = s.red := rfl
@[simp] theorem State.setClu_gates (c : Clu) (x : Cluster) : (s.setClu c x).gates = s.gates := rfl
@[simp] theorem State.setClu_pacer (c : Clu) (x : Cluster) : (s.setClu c x).pacer = s.pacer := rfl
@[simp] theorem State.setClu_starter (c : Clu) (x : Cluster) : (s.setClu c x).starter = s.starter := rfl
@[simp] theorem State.setClu_host (c : Clu) (x : Cluster) : (s.setClu c x).host = s.host := rfl
@[simp] theorem State.setClu_flt (c : Clu) (x : Cluster) : (s.setClu c x).flt = s.flt := rfl
@[simp] theorem State.setClu_links (c : Clu) (x : Cluster) : (s.setClu c x).links = s.links := rfl
@[simp] theorem State.setClu_mbr (c : Clu) (x : Cluster) : (s.setClu c x).mbr = s.mbr := rfl
@[simp] theorem State.setClu_snp (c : Clu) (x : Cluster) : (s.setClu c x).snp = s.snp := rfl
@[simp] theorem State.setClu_img (c : Clu) (x : Cluster) : (s.setClu c x).img = s.img := rfl
@[simp] theorem State.setClu_claims (c : Clu) (x : Cluster) : (s.setClu c x).claims = s.claims := rfl
@[simp] theorem State.setClu_waits (c : Clu) (x : Cluster) : (s.setClu c x).waits = s.waits := rfl
@[simp] theorem State.setClu_traces (c : Clu) (x : Cluster) : (s.setClu c x).traces = s.traces := rfl
@[simp] theorem State.setClu_frz (c : Clu) (x : Cluster) : (s.setClu c x).frz = s.frz := rfl
@[simp] theorem State.setClu_photo (c : Clu) (x : Cluster) : (s.setClu c x).photo = s.photo := rfl
@[simp] theorem State.setClu_perf (c : Clu) (x : Cluster) : (s.setClu c x).perf = s.perf := rfl
@[simp] theorem State.setClu_upsets (c : Clu) (x : Cluster) : (s.setClu c x).upsets = s.upsets := rfl
@[simp] theorem State.setClu_jdg (c : Clu) (x : Cluster) : (s.setClu c x).jdg = s.jdg := rfl
@[simp] theorem State.setClu_landBib (c : Clu) (x : Cluster) : (s.setClu c x).landBib = s.landBib := rfl
@[simp] theorem State.setClu_recals (c : Clu) (x : Cluster) : (s.setClu c x).recals = s.recals := rfl
@[simp] theorem State.setClu_trained (c : Clu) (x : Cluster) : (s.setClu c x).trained = s.trained := rfl
@[simp] theorem State.setClu_recalWait (c : Clu) (x : Cluster) : (s.setClu c x).recalWait = s.recalWait := rfl
@[simp] theorem State.setClu_doms (c : Clu) (x : Cluster) : (s.setClu c x).doms = s.doms := rfl
@[simp] theorem State.setClu_freeCtr (c : Clu) (x : Cluster) : (s.setClu c x).freeCtr = s.freeCtr := rfl
@[simp] theorem State.setClu_out (c : Clu) (x : Cluster) : (s.setClu c x).out = s.out := rfl

/-! ### setCore -/

@[simp] theorem State.setCore_pending (c : CoreId) (x : Core) : (s.setCore c x).pending = s.pending := rfl
@[simp] theorem State.setCore_regs (c : CoreId) (x : Core) : (s.setCore c x).regs = s.regs := rfl
@[simp] theorem State.setCore_staged (c : CoreId) (x : Core) : (s.setCore c x).staged = s.staged := rfl
@[simp] theorem State.setCore_latch (c : CoreId) (x : Core) : (s.setCore c x).latch = s.latch := rfl
@[simp] theorem State.setCore_mem (c : CoreId) (x : Core) : (s.setCore c x).mem = s.mem := rfl
@[simp] theorem State.setCore_flash (c : CoreId) (x : Core) : (s.setCore c x).flash = s.flash := rfl
@[simp] theorem State.setCore_clus (c : CoreId) (x : Core) : (s.setCore c x).clus = s.clus := rfl
@[simp] theorem State.setCore_tensors (c : CoreId) (x : Core) : (s.setCore c x).tensors = s.tensors := rfl
@[simp] theorem State.setCore_outRegs (c : CoreId) (x : Core) : (s.setCore c x).outRegs = s.outRegs := rfl
@[simp] theorem State.setCore_sums (c : CoreId) (x : Core) : (s.setCore c x).sums = s.sums := rfl
@[simp] theorem State.setCore_mism (c : CoreId) (x : Core) : (s.setCore c x).mism = s.mism := rfl
@[simp] theorem State.setCore_gsums (c : CoreId) (x : Core) : (s.setCore c x).gsums = s.gsums := rfl
@[simp] theorem State.setCore_lap (c : CoreId) (x : Core) : (s.setCore c x).lap = s.lap := rfl
@[simp] theorem State.setCore_red (c : CoreId) (x : Core) : (s.setCore c x).red = s.red := rfl
@[simp] theorem State.setCore_gates (c : CoreId) (x : Core) : (s.setCore c x).gates = s.gates := rfl
@[simp] theorem State.setCore_pacer (c : CoreId) (x : Core) : (s.setCore c x).pacer = s.pacer := rfl
@[simp] theorem State.setCore_starter (c : CoreId) (x : Core) : (s.setCore c x).starter = s.starter := rfl
@[simp] theorem State.setCore_host (c : CoreId) (x : Core) : (s.setCore c x).host = s.host := rfl
@[simp] theorem State.setCore_flt (c : CoreId) (x : Core) : (s.setCore c x).flt = s.flt := rfl
@[simp] theorem State.setCore_links (c : CoreId) (x : Core) : (s.setCore c x).links = s.links := rfl
@[simp] theorem State.setCore_mbr (c : CoreId) (x : Core) : (s.setCore c x).mbr = s.mbr := rfl
@[simp] theorem State.setCore_snp (c : CoreId) (x : Core) : (s.setCore c x).snp = s.snp := rfl
@[simp] theorem State.setCore_img (c : CoreId) (x : Core) : (s.setCore c x).img = s.img := rfl
@[simp] theorem State.setCore_claims (c : CoreId) (x : Core) : (s.setCore c x).claims = s.claims := rfl
@[simp] theorem State.setCore_waits (c : CoreId) (x : Core) : (s.setCore c x).waits = s.waits := rfl
@[simp] theorem State.setCore_traces (c : CoreId) (x : Core) : (s.setCore c x).traces = s.traces := rfl
@[simp] theorem State.setCore_frz (c : CoreId) (x : Core) : (s.setCore c x).frz = s.frz := rfl
@[simp] theorem State.setCore_photo (c : CoreId) (x : Core) : (s.setCore c x).photo = s.photo := rfl
@[simp] theorem State.setCore_perf (c : CoreId) (x : Core) : (s.setCore c x).perf = s.perf := rfl
@[simp] theorem State.setCore_upsets (c : CoreId) (x : Core) : (s.setCore c x).upsets = s.upsets := rfl
@[simp] theorem State.setCore_jdg (c : CoreId) (x : Core) : (s.setCore c x).jdg = s.jdg := rfl
@[simp] theorem State.setCore_landBib (c : CoreId) (x : Core) : (s.setCore c x).landBib = s.landBib := rfl
@[simp] theorem State.setCore_recals (c : CoreId) (x : Core) : (s.setCore c x).recals = s.recals := rfl
@[simp] theorem State.setCore_trained (c : CoreId) (x : Core) : (s.setCore c x).trained = s.trained := rfl
@[simp] theorem State.setCore_recalWait (c : CoreId) (x : Core) : (s.setCore c x).recalWait = s.recalWait := rfl
@[simp] theorem State.setCore_doms (c : CoreId) (x : Core) : (s.setCore c x).doms = s.doms := rfl
@[simp] theorem State.setCore_freeCtr (c : CoreId) (x : Core) : (s.setCore c x).freeCtr = s.freeCtr := rfl
@[simp] theorem State.setCore_out (c : CoreId) (x : Core) : (s.setCore c x).out = s.out := rfl

/-! ### setTensor -/

@[simp] theorem State.setTensor_pending (n : Nat) (x : TensorConv) : (s.setTensor n x).pending = s.pending := rfl
@[simp] theorem State.setTensor_regs (n : Nat) (x : TensorConv) : (s.setTensor n x).regs = s.regs := rfl
@[simp] theorem State.setTensor_staged (n : Nat) (x : TensorConv) : (s.setTensor n x).staged = s.staged := rfl
@[simp] theorem State.setTensor_latch (n : Nat) (x : TensorConv) : (s.setTensor n x).latch = s.latch := rfl
@[simp] theorem State.setTensor_mem (n : Nat) (x : TensorConv) : (s.setTensor n x).mem = s.mem := rfl
@[simp] theorem State.setTensor_flash (n : Nat) (x : TensorConv) : (s.setTensor n x).flash = s.flash := rfl
@[simp] theorem State.setTensor_cores (n : Nat) (x : TensorConv) : (s.setTensor n x).cores = s.cores := rfl
@[simp] theorem State.setTensor_clus (n : Nat) (x : TensorConv) : (s.setTensor n x).clus = s.clus := rfl
@[simp] theorem State.setTensor_outRegs (n : Nat) (x : TensorConv) : (s.setTensor n x).outRegs = s.outRegs := rfl
@[simp] theorem State.setTensor_sums (n : Nat) (x : TensorConv) : (s.setTensor n x).sums = s.sums := rfl
@[simp] theorem State.setTensor_mism (n : Nat) (x : TensorConv) : (s.setTensor n x).mism = s.mism := rfl
@[simp] theorem State.setTensor_gsums (n : Nat) (x : TensorConv) : (s.setTensor n x).gsums = s.gsums := rfl
@[simp] theorem State.setTensor_lap (n : Nat) (x : TensorConv) : (s.setTensor n x).lap = s.lap := rfl
@[simp] theorem State.setTensor_red (n : Nat) (x : TensorConv) : (s.setTensor n x).red = s.red := rfl
@[simp] theorem State.setTensor_gates (n : Nat) (x : TensorConv) : (s.setTensor n x).gates = s.gates := rfl
@[simp] theorem State.setTensor_pacer (n : Nat) (x : TensorConv) : (s.setTensor n x).pacer = s.pacer := rfl
@[simp] theorem State.setTensor_starter (n : Nat) (x : TensorConv) : (s.setTensor n x).starter = s.starter := rfl
@[simp] theorem State.setTensor_host (n : Nat) (x : TensorConv) : (s.setTensor n x).host = s.host := rfl
@[simp] theorem State.setTensor_flt (n : Nat) (x : TensorConv) : (s.setTensor n x).flt = s.flt := rfl
@[simp] theorem State.setTensor_links (n : Nat) (x : TensorConv) : (s.setTensor n x).links = s.links := rfl
@[simp] theorem State.setTensor_mbr (n : Nat) (x : TensorConv) : (s.setTensor n x).mbr = s.mbr := rfl
@[simp] theorem State.setTensor_snp (n : Nat) (x : TensorConv) : (s.setTensor n x).snp = s.snp := rfl
@[simp] theorem State.setTensor_img (n : Nat) (x : TensorConv) : (s.setTensor n x).img = s.img := rfl
@[simp] theorem State.setTensor_claims (n : Nat) (x : TensorConv) : (s.setTensor n x).claims = s.claims := rfl
@[simp] theorem State.setTensor_waits (n : Nat) (x : TensorConv) : (s.setTensor n x).waits = s.waits := rfl
@[simp] theorem State.setTensor_traces (n : Nat) (x : TensorConv) : (s.setTensor n x).traces = s.traces := rfl
@[simp] theorem State.setTensor_frz (n : Nat) (x : TensorConv) : (s.setTensor n x).frz = s.frz := rfl
@[simp] theorem State.setTensor_photo (n : Nat) (x : TensorConv) : (s.setTensor n x).photo = s.photo := rfl
@[simp] theorem State.setTensor_perf (n : Nat) (x : TensorConv) : (s.setTensor n x).perf = s.perf := rfl
@[simp] theorem State.setTensor_upsets (n : Nat) (x : TensorConv) : (s.setTensor n x).upsets = s.upsets := rfl
@[simp] theorem State.setTensor_jdg (n : Nat) (x : TensorConv) : (s.setTensor n x).jdg = s.jdg := rfl
@[simp] theorem State.setTensor_landBib (n : Nat) (x : TensorConv) : (s.setTensor n x).landBib = s.landBib := rfl
@[simp] theorem State.setTensor_recals (n : Nat) (x : TensorConv) : (s.setTensor n x).recals = s.recals := rfl
@[simp] theorem State.setTensor_trained (n : Nat) (x : TensorConv) : (s.setTensor n x).trained = s.trained := rfl
@[simp] theorem State.setTensor_recalWait (n : Nat) (x : TensorConv) : (s.setTensor n x).recalWait = s.recalWait := rfl
@[simp] theorem State.setTensor_doms (n : Nat) (x : TensorConv) : (s.setTensor n x).doms = s.doms := rfl
@[simp] theorem State.setTensor_freeCtr (n : Nat) (x : TensorConv) : (s.setTensor n x).freeCtr = s.freeCtr := rfl
@[simp] theorem State.setTensor_out (n : Nat) (x : TensorConv) : (s.setTensor n x).out = s.out := rfl

/-! ### perfUp -/

@[simp] theorem State.perfUp_pending (a k : Nat) : (s.perfUp a k).pending = s.pending := rfl
@[simp] theorem State.perfUp_staged (a k : Nat) : (s.perfUp a k).staged = s.staged := rfl
@[simp] theorem State.perfUp_latch (a k : Nat) : (s.perfUp a k).latch = s.latch := rfl
@[simp] theorem State.perfUp_mem (a k : Nat) : (s.perfUp a k).mem = s.mem := rfl
@[simp] theorem State.perfUp_flash (a k : Nat) : (s.perfUp a k).flash = s.flash := rfl
@[simp] theorem State.perfUp_cores (a k : Nat) : (s.perfUp a k).cores = s.cores := rfl
@[simp] theorem State.perfUp_clus (a k : Nat) : (s.perfUp a k).clus = s.clus := rfl
@[simp] theorem State.perfUp_tensors (a k : Nat) : (s.perfUp a k).tensors = s.tensors := rfl
@[simp] theorem State.perfUp_outRegs (a k : Nat) : (s.perfUp a k).outRegs = s.outRegs := rfl
@[simp] theorem State.perfUp_sums (a k : Nat) : (s.perfUp a k).sums = s.sums := rfl
@[simp] theorem State.perfUp_mism (a k : Nat) : (s.perfUp a k).mism = s.mism := rfl
@[simp] theorem State.perfUp_gsums (a k : Nat) : (s.perfUp a k).gsums = s.gsums := rfl
@[simp] theorem State.perfUp_lap (a k : Nat) : (s.perfUp a k).lap = s.lap := rfl
@[simp] theorem State.perfUp_red (a k : Nat) : (s.perfUp a k).red = s.red := rfl
@[simp] theorem State.perfUp_gates (a k : Nat) : (s.perfUp a k).gates = s.gates := rfl
@[simp] theorem State.perfUp_pacer (a k : Nat) : (s.perfUp a k).pacer = s.pacer := rfl
@[simp] theorem State.perfUp_starter (a k : Nat) : (s.perfUp a k).starter = s.starter := rfl
@[simp] theorem State.perfUp_host (a k : Nat) : (s.perfUp a k).host = s.host := rfl
@[simp] theorem State.perfUp_flt (a k : Nat) : (s.perfUp a k).flt = s.flt := rfl
@[simp] theorem State.perfUp_links (a k : Nat) : (s.perfUp a k).links = s.links := rfl
@[simp] theorem State.perfUp_mbr (a k : Nat) : (s.perfUp a k).mbr = s.mbr := rfl
@[simp] theorem State.perfUp_snp (a k : Nat) : (s.perfUp a k).snp = s.snp := rfl
@[simp] theorem State.perfUp_img (a k : Nat) : (s.perfUp a k).img = s.img := rfl
@[simp] theorem State.perfUp_claims (a k : Nat) : (s.perfUp a k).claims = s.claims := rfl
@[simp] theorem State.perfUp_waits (a k : Nat) : (s.perfUp a k).waits = s.waits := rfl
@[simp] theorem State.perfUp_traces (a k : Nat) : (s.perfUp a k).traces = s.traces := rfl
@[simp] theorem State.perfUp_frz (a k : Nat) : (s.perfUp a k).frz = s.frz := rfl
@[simp] theorem State.perfUp_photo (a k : Nat) : (s.perfUp a k).photo = s.photo := rfl
@[simp] theorem State.perfUp_perf (a k : Nat) : (s.perfUp a k).perf = s.perf := rfl
@[simp] theorem State.perfUp_upsets (a k : Nat) : (s.perfUp a k).upsets = s.upsets := rfl
@[simp] theorem State.perfUp_jdg (a k : Nat) : (s.perfUp a k).jdg = s.jdg := rfl
@[simp] theorem State.perfUp_landBib (a k : Nat) : (s.perfUp a k).landBib = s.landBib := rfl
@[simp] theorem State.perfUp_recals (a k : Nat) : (s.perfUp a k).recals = s.recals := rfl
@[simp] theorem State.perfUp_trained (a k : Nat) : (s.perfUp a k).trained = s.trained := rfl
@[simp] theorem State.perfUp_recalWait (a k : Nat) : (s.perfUp a k).recalWait = s.recalWait := rfl
@[simp] theorem State.perfUp_doms (a k : Nat) : (s.perfUp a k).doms = s.doms := rfl
@[simp] theorem State.perfUp_freeCtr (a k : Nat) : (s.perfUp a k).freeCtr = s.freeCtr := rfl
@[simp] theorem State.perfUp_out (a k : Nat) : (s.perfUp a k).out = s.out := rfl

@[simp] theorem State.stBytes_mem (a : Nat) (bs : List Byte) : (s.stBytes a bs).mem = Mem.write s.mem a bs := rfl
@[simp] theorem State.setClu_clus (c : Clu) (x : Cluster) : (s.setClu c x).clus = slSet s.clus (cluU c) x := rfl
@[simp] theorem State.setCore_cores (c : CoreId) (x : Core) : (s.setCore c x).cores = slSet s.cores (coreU c) x := rfl
@[simp] theorem State.setTensor_tensors (n : Nat) (x : TensorConv) : (s.setTensor n x).tensors = slSet s.tensors n x := rfl
@[simp] theorem State.wr_regs (r : RegDef) (u : Nat) (v : Word) : (s.wr r u v).regs = slSet s.regs (r.addr u) v := rfl

/-! ### puts, emit, message, raise, post -/

@[simp] theorem State.puts_pending (u : Nat) (l : List (Fld × Nat)) : (s.puts u l).pending = s.pending := by
  induction l generalizing s with
  | nil => rfl
  | cons p l ih => exact ih (s.put p.1 u p.2)
@[simp] theorem State.puts_staged (u : Nat) (l : List (Fld × Nat)) : (s.puts u l).staged = s.staged := by
  induction l generalizing s with
  | nil => rfl
  | cons p l ih => exact ih (s.put p.1 u p.2)
@[simp] theorem State.puts_latch (u : Nat) (l : List (Fld × Nat)) : (s.puts u l).latch = s.latch := by
  induction l generalizing s with
  | nil => rfl
  | cons p l ih => exact ih (s.put p.1 u p.2)
@[simp] theorem State.puts_mem (u : Nat) (l : List (Fld × Nat)) : (s.puts u l).mem = s.mem := by
  induction l generalizing s with
  | nil => rfl
  | cons p l ih => exact ih (s.put p.1 u p.2)
@[simp] theorem State.puts_flash (u : Nat) (l : List (Fld × Nat)) : (s.puts u l).flash = s.flash := by
  induction l generalizing s with
  | nil => rfl
  | cons p l ih => exact ih (s.put p.1 u p.2)
@[simp] theorem State.puts_cores (u : Nat) (l : List (Fld × Nat)) : (s.puts u l).cores = s.cores := by
  induction l generalizing s with
  | nil => rfl
  | cons p l ih => exact ih (s.put p.1 u p.2)
@[simp] theorem State.puts_clus (u : Nat) (l : List (Fld × Nat)) : (s.puts u l).clus = s.clus := by
  induction l generalizing s with
  | nil => rfl
  | cons p l ih => exact ih (s.put p.1 u p.2)
@[simp] theorem State.puts_tensors (u : Nat) (l : List (Fld × Nat)) : (s.puts u l).tensors = s.tensors := by
  induction l generalizing s with
  | nil => rfl
  | cons p l ih => exact ih (s.put p.1 u p.2)
@[simp] theorem State.puts_outRegs (u : Nat) (l : List (Fld × Nat)) : (s.puts u l).outRegs = s.outRegs := by
  induction l generalizing s with
  | nil => rfl
  | cons p l ih => exact ih (s.put p.1 u p.2)
@[simp] theorem State.puts_sums (u : Nat) (l : List (Fld × Nat)) : (s.puts u l).sums = s.sums := by
  induction l generalizing s with
  | nil => rfl
  | cons p l ih => exact ih (s.put p.1 u p.2)
@[simp] theorem State.puts_mism (u : Nat) (l : List (Fld × Nat)) : (s.puts u l).mism = s.mism := by
  induction l generalizing s with
  | nil => rfl
  | cons p l ih => exact ih (s.put p.1 u p.2)
@[simp] theorem State.puts_gsums (u : Nat) (l : List (Fld × Nat)) : (s.puts u l).gsums = s.gsums := by
  induction l generalizing s with
  | nil => rfl
  | cons p l ih => exact ih (s.put p.1 u p.2)
@[simp] theorem State.puts_lap (u : Nat) (l : List (Fld × Nat)) : (s.puts u l).lap = s.lap := by
  induction l generalizing s with
  | nil => rfl
  | cons p l ih => exact ih (s.put p.1 u p.2)
@[simp] theorem State.puts_red (u : Nat) (l : List (Fld × Nat)) : (s.puts u l).red = s.red := by
  induction l generalizing s with
  | nil => rfl
  | cons p l ih => exact ih (s.put p.1 u p.2)
@[simp] theorem State.puts_gates (u : Nat) (l : List (Fld × Nat)) : (s.puts u l).gates = s.gates := by
  induction l generalizing s with
  | nil => rfl
  | cons p l ih => exact ih (s.put p.1 u p.2)
@[simp] theorem State.puts_pacer (u : Nat) (l : List (Fld × Nat)) : (s.puts u l).pacer = s.pacer := by
  induction l generalizing s with
  | nil => rfl
  | cons p l ih => exact ih (s.put p.1 u p.2)
@[simp] theorem State.puts_starter (u : Nat) (l : List (Fld × Nat)) : (s.puts u l).starter = s.starter := by
  induction l generalizing s with
  | nil => rfl
  | cons p l ih => exact ih (s.put p.1 u p.2)
@[simp] theorem State.puts_host (u : Nat) (l : List (Fld × Nat)) : (s.puts u l).host = s.host := by
  induction l generalizing s with
  | nil => rfl
  | cons p l ih => exact ih (s.put p.1 u p.2)
@[simp] theorem State.puts_flt (u : Nat) (l : List (Fld × Nat)) : (s.puts u l).flt = s.flt := by
  induction l generalizing s with
  | nil => rfl
  | cons p l ih => exact ih (s.put p.1 u p.2)
@[simp] theorem State.puts_links (u : Nat) (l : List (Fld × Nat)) : (s.puts u l).links = s.links := by
  induction l generalizing s with
  | nil => rfl
  | cons p l ih => exact ih (s.put p.1 u p.2)
@[simp] theorem State.puts_mbr (u : Nat) (l : List (Fld × Nat)) : (s.puts u l).mbr = s.mbr := by
  induction l generalizing s with
  | nil => rfl
  | cons p l ih => exact ih (s.put p.1 u p.2)
@[simp] theorem State.puts_snp (u : Nat) (l : List (Fld × Nat)) : (s.puts u l).snp = s.snp := by
  induction l generalizing s with
  | nil => rfl
  | cons p l ih => exact ih (s.put p.1 u p.2)
@[simp] theorem State.puts_img (u : Nat) (l : List (Fld × Nat)) : (s.puts u l).img = s.img := by
  induction l generalizing s with
  | nil => rfl
  | cons p l ih => exact ih (s.put p.1 u p.2)
@[simp] theorem State.puts_claims (u : Nat) (l : List (Fld × Nat)) : (s.puts u l).claims = s.claims := by
  induction l generalizing s with
  | nil => rfl
  | cons p l ih => exact ih (s.put p.1 u p.2)
@[simp] theorem State.puts_waits (u : Nat) (l : List (Fld × Nat)) : (s.puts u l).waits = s.waits := by
  induction l generalizing s with
  | nil => rfl
  | cons p l ih => exact ih (s.put p.1 u p.2)
@[simp] theorem State.puts_traces (u : Nat) (l : List (Fld × Nat)) : (s.puts u l).traces = s.traces := by
  induction l generalizing s with
  | nil => rfl
  | cons p l ih => exact ih (s.put p.1 u p.2)
@[simp] theorem State.puts_frz (u : Nat) (l : List (Fld × Nat)) : (s.puts u l).frz = s.frz := by
  induction l generalizing s with
  | nil => rfl
  | cons p l ih => exact ih (s.put p.1 u p.2)
@[simp] theorem State.puts_photo (u : Nat) (l : List (Fld × Nat)) : (s.puts u l).photo = s.photo := by
  induction l generalizing s with
  | nil => rfl
  | cons p l ih => exact ih (s.put p.1 u p.2)
@[simp] theorem State.puts_perf (u : Nat) (l : List (Fld × Nat)) : (s.puts u l).perf = s.perf := by
  induction l generalizing s with
  | nil => rfl
  | cons p l ih => exact ih (s.put p.1 u p.2)
@[simp] theorem State.puts_upsets (u : Nat) (l : List (Fld × Nat)) : (s.puts u l).upsets = s.upsets := by
  induction l generalizing s with
  | nil => rfl
  | cons p l ih => exact ih (s.put p.1 u p.2)
@[simp] theorem State.puts_jdg (u : Nat) (l : List (Fld × Nat)) : (s.puts u l).jdg = s.jdg := by
  induction l generalizing s with
  | nil => rfl
  | cons p l ih => exact ih (s.put p.1 u p.2)
@[simp] theorem State.puts_landBib (u : Nat) (l : List (Fld × Nat)) : (s.puts u l).landBib = s.landBib := by
  induction l generalizing s with
  | nil => rfl
  | cons p l ih => exact ih (s.put p.1 u p.2)
@[simp] theorem State.puts_recals (u : Nat) (l : List (Fld × Nat)) : (s.puts u l).recals = s.recals := by
  induction l generalizing s with
  | nil => rfl
  | cons p l ih => exact ih (s.put p.1 u p.2)
@[simp] theorem State.puts_trained (u : Nat) (l : List (Fld × Nat)) : (s.puts u l).trained = s.trained := by
  induction l generalizing s with
  | nil => rfl
  | cons p l ih => exact ih (s.put p.1 u p.2)
@[simp] theorem State.puts_recalWait (u : Nat) (l : List (Fld × Nat)) : (s.puts u l).recalWait = s.recalWait := by
  induction l generalizing s with
  | nil => rfl
  | cons p l ih => exact ih (s.put p.1 u p.2)
@[simp] theorem State.puts_doms (u : Nat) (l : List (Fld × Nat)) : (s.puts u l).doms = s.doms := by
  induction l generalizing s with
  | nil => rfl
  | cons p l ih => exact ih (s.put p.1 u p.2)
@[simp] theorem State.puts_freeCtr (u : Nat) (l : List (Fld × Nat)) : (s.puts u l).freeCtr = s.freeCtr := by
  induction l generalizing s with
  | nil => rfl
  | cons p l ih => exact ih (s.put p.1 u p.2)
@[simp] theorem State.puts_out (u : Nat) (l : List (Fld × Nat)) : (s.puts u l).out = s.out := by
  induction l generalizing s with
  | nil => rfl
  | cons p l ih => exact ih (s.put p.1 u p.2)
@[simp] theorem State.emit_pending (e : Emit) : (s.emit e).pending = s.pending := by
  unfold State.emit; split <;> rfl
@[simp] theorem State.emit_regs (e : Emit) : (s.emit e).regs = s.regs := by
  unfold State.emit; split <;> rfl
@[simp] theorem State.emit_staged (e : Emit) : (s.emit e).staged = s.staged := by
  unfold State.emit; split <;> rfl
@[simp] theorem State.emit_latch (e : Emit) : (s.emit e).latch = s.latch := by
  unfold State.emit; split <;> rfl
@[simp] theorem State.emit_mem (e : Emit) : (s.emit e).mem = s.mem := by
  unfold State.emit; split <;> rfl
@[simp] theorem State.emit_flash (e : Emit) : (s.emit e).flash = s.flash := by
  unfold State.emit; split <;> rfl
@[simp] theorem State.emit_cores (e : Emit) : (s.emit e).cores = s.cores := by
  unfold State.emit; split <;> rfl
@[simp] theorem State.emit_clus (e : Emit) : (s.emit e).clus = s.clus := by
  unfold State.emit; split <;> rfl
@[simp] theorem State.emit_tensors (e : Emit) : (s.emit e).tensors = s.tensors := by
  unfold State.emit; split <;> rfl
@[simp] theorem State.emit_outRegs (e : Emit) : (s.emit e).outRegs = s.outRegs := by
  unfold State.emit; split <;> rfl
@[simp] theorem State.emit_sums (e : Emit) : (s.emit e).sums = s.sums := by
  unfold State.emit; split <;> rfl
@[simp] theorem State.emit_mism (e : Emit) : (s.emit e).mism = s.mism := by
  unfold State.emit; split <;> rfl
@[simp] theorem State.emit_gsums (e : Emit) : (s.emit e).gsums = s.gsums := by
  unfold State.emit; split <;> rfl
@[simp] theorem State.emit_lap (e : Emit) : (s.emit e).lap = s.lap := by
  unfold State.emit; split <;> rfl
@[simp] theorem State.emit_red (e : Emit) : (s.emit e).red = s.red := by
  unfold State.emit; split <;> rfl
@[simp] theorem State.emit_gates (e : Emit) : (s.emit e).gates = s.gates := by
  unfold State.emit; split <;> rfl
@[simp] theorem State.emit_pacer (e : Emit) : (s.emit e).pacer = s.pacer := by
  unfold State.emit; split <;> rfl
@[simp] theorem State.emit_starter (e : Emit) : (s.emit e).starter = s.starter := by
  unfold State.emit; split <;> rfl
@[simp] theorem State.emit_host (e : Emit) : (s.emit e).host = s.host := by
  unfold State.emit; split <;> rfl
@[simp] theorem State.emit_flt (e : Emit) : (s.emit e).flt = s.flt := by
  unfold State.emit; split <;> rfl
@[simp] theorem State.emit_links (e : Emit) : (s.emit e).links = s.links := by
  unfold State.emit; split <;> rfl
@[simp] theorem State.emit_mbr (e : Emit) : (s.emit e).mbr = s.mbr := by
  unfold State.emit; split <;> rfl
@[simp] theorem State.emit_snp (e : Emit) : (s.emit e).snp = s.snp := by
  unfold State.emit; split <;> rfl
@[simp] theorem State.emit_img (e : Emit) : (s.emit e).img = s.img := by
  unfold State.emit; split <;> rfl
@[simp] theorem State.emit_claims (e : Emit) : (s.emit e).claims = s.claims := by
  unfold State.emit; split <;> rfl
@[simp] theorem State.emit_waits (e : Emit) : (s.emit e).waits = s.waits := by
  unfold State.emit; split <;> rfl
@[simp] theorem State.emit_traces (e : Emit) : (s.emit e).traces = s.traces := by
  unfold State.emit; split <;> rfl
@[simp] theorem State.emit_frz (e : Emit) : (s.emit e).frz = s.frz := by
  unfold State.emit; split <;> rfl
@[simp] theorem State.emit_photo (e : Emit) : (s.emit e).photo = s.photo := by
  unfold State.emit; split <;> rfl
@[simp] theorem State.emit_perf (e : Emit) : (s.emit e).perf = s.perf := by
  unfold State.emit; split <;> rfl
@[simp] theorem State.emit_upsets (e : Emit) : (s.emit e).upsets = s.upsets := by
  unfold State.emit; split <;> rfl
@[simp] theorem State.emit_jdg (e : Emit) : (s.emit e).jdg = s.jdg := by
  unfold State.emit; split <;> rfl
@[simp] theorem State.emit_landBib (e : Emit) : (s.emit e).landBib = s.landBib := by
  unfold State.emit; split <;> rfl
@[simp] theorem State.emit_recals (e : Emit) : (s.emit e).recals = s.recals := by
  unfold State.emit; split <;> rfl
@[simp] theorem State.emit_trained (e : Emit) : (s.emit e).trained = s.trained := by
  unfold State.emit; split <;> rfl
@[simp] theorem State.emit_recalWait (e : Emit) : (s.emit e).recalWait = s.recalWait := by
  unfold State.emit; split <;> rfl
@[simp] theorem State.emit_doms (e : Emit) : (s.emit e).doms = s.doms := by
  unfold State.emit; split <;> rfl
@[simp] theorem State.emit_freeCtr (e : Emit) : (s.emit e).freeCtr = s.freeCtr := by
  unfold State.emit; split <;> rfl
@[simp] theorem State.message_pending (v : Nat) : (s.message v).pending = s.pending := by
  unfold State.message; (repeat' split) <;> simp
@[simp] theorem State.message_regs (v : Nat) : (s.message v).regs = s.regs := by
  unfold State.message; (repeat' split) <;> simp
@[simp] theorem State.message_staged (v : Nat) : (s.message v).staged = s.staged := by
  unfold State.message; (repeat' split) <;> simp
@[simp] theorem State.message_latch (v : Nat) : (s.message v).latch = s.latch := by
  unfold State.message; (repeat' split) <;> simp
@[simp] theorem State.message_mem (v : Nat) : (s.message v).mem = s.mem := by
  unfold State.message; (repeat' split) <;> simp
@[simp] theorem State.message_flash (v : Nat) : (s.message v).flash = s.flash := by
  unfold State.message; (repeat' split) <;> simp
@[simp] theorem State.message_cores (v : Nat) : (s.message v).cores = s.cores := by
  unfold State.message; (repeat' split) <;> simp
@[simp] theorem State.message_clus (v : Nat) : (s.message v).clus = s.clus := by
  unfold State.message; (repeat' split) <;> simp
@[simp] theorem State.message_tensors (v : Nat) : (s.message v).tensors = s.tensors := by
  unfold State.message; (repeat' split) <;> simp
@[simp] theorem State.message_outRegs (v : Nat) : (s.message v).outRegs = s.outRegs := by
  unfold State.message; (repeat' split) <;> simp
@[simp] theorem State.message_sums (v : Nat) : (s.message v).sums = s.sums := by
  unfold State.message; (repeat' split) <;> simp
@[simp] theorem State.message_mism (v : Nat) : (s.message v).mism = s.mism := by
  unfold State.message; (repeat' split) <;> simp
@[simp] theorem State.message_gsums (v : Nat) : (s.message v).gsums = s.gsums := by
  unfold State.message; (repeat' split) <;> simp
@[simp] theorem State.message_lap (v : Nat) : (s.message v).lap = s.lap := by
  unfold State.message; (repeat' split) <;> simp
@[simp] theorem State.message_red (v : Nat) : (s.message v).red = s.red := by
  unfold State.message; (repeat' split) <;> simp
@[simp] theorem State.message_gates (v : Nat) : (s.message v).gates = s.gates := by
  unfold State.message; (repeat' split) <;> simp
@[simp] theorem State.message_pacer (v : Nat) : (s.message v).pacer = s.pacer := by
  unfold State.message; (repeat' split) <;> simp
@[simp] theorem State.message_starter (v : Nat) : (s.message v).starter = s.starter := by
  unfold State.message; (repeat' split) <;> simp
@[simp] theorem State.message_flt (v : Nat) : (s.message v).flt = s.flt := by
  unfold State.message; (repeat' split) <;> simp
@[simp] theorem State.message_links (v : Nat) : (s.message v).links = s.links := by
  unfold State.message; (repeat' split) <;> simp
@[simp] theorem State.message_mbr (v : Nat) : (s.message v).mbr = s.mbr := by
  unfold State.message; (repeat' split) <;> simp
@[simp] theorem State.message_snp (v : Nat) : (s.message v).snp = s.snp := by
  unfold State.message; (repeat' split) <;> simp
@[simp] theorem State.message_img (v : Nat) : (s.message v).img = s.img := by
  unfold State.message; (repeat' split) <;> simp
@[simp] theorem State.message_claims (v : Nat) : (s.message v).claims = s.claims := by
  unfold State.message; (repeat' split) <;> simp
@[simp] theorem State.message_waits (v : Nat) : (s.message v).waits = s.waits := by
  unfold State.message; (repeat' split) <;> simp
@[simp] theorem State.message_traces (v : Nat) : (s.message v).traces = s.traces := by
  unfold State.message; (repeat' split) <;> simp
@[simp] theorem State.message_frz (v : Nat) : (s.message v).frz = s.frz := by
  unfold State.message; (repeat' split) <;> simp
@[simp] theorem State.message_photo (v : Nat) : (s.message v).photo = s.photo := by
  unfold State.message; (repeat' split) <;> simp
@[simp] theorem State.message_perf (v : Nat) : (s.message v).perf = s.perf := by
  unfold State.message; (repeat' split) <;> simp
@[simp] theorem State.message_upsets (v : Nat) : (s.message v).upsets = s.upsets := by
  unfold State.message; (repeat' split) <;> simp
@[simp] theorem State.message_jdg (v : Nat) : (s.message v).jdg = s.jdg := by
  unfold State.message; (repeat' split) <;> simp
@[simp] theorem State.message_landBib (v : Nat) : (s.message v).landBib = s.landBib := by
  unfold State.message; (repeat' split) <;> simp
@[simp] theorem State.message_recals (v : Nat) : (s.message v).recals = s.recals := by
  unfold State.message; (repeat' split) <;> simp
@[simp] theorem State.message_trained (v : Nat) : (s.message v).trained = s.trained := by
  unfold State.message; (repeat' split) <;> simp
@[simp] theorem State.message_recalWait (v : Nat) : (s.message v).recalWait = s.recalWait := by
  unfold State.message; (repeat' split) <;> simp
@[simp] theorem State.message_doms (v : Nat) : (s.message v).doms = s.doms := by
  unfold State.message; (repeat' split) <;> simp
@[simp] theorem State.message_freeCtr (v : Nat) : (s.message v).freeCtr = s.freeCtr := by
  unfold State.message; (repeat' split) <;> simp
@[simp] theorem State.raise_pending (n : Nat) : (s.raise n).pending = s.pending := by
  simp only [State.raise]; (repeat' split) <;> simp
@[simp] theorem State.raise_staged (n : Nat) : (s.raise n).staged = s.staged := by
  simp only [State.raise]; (repeat' split) <;> simp
@[simp] theorem State.raise_latch (n : Nat) : (s.raise n).latch = s.latch := by
  simp only [State.raise]; (repeat' split) <;> simp
@[simp] theorem State.raise_mem (n : Nat) : (s.raise n).mem = s.mem := by
  simp only [State.raise]; (repeat' split) <;> simp
@[simp] theorem State.raise_flash (n : Nat) : (s.raise n).flash = s.flash := by
  simp only [State.raise]; (repeat' split) <;> simp
@[simp] theorem State.raise_cores (n : Nat) : (s.raise n).cores = s.cores := by
  simp only [State.raise]; (repeat' split) <;> simp
@[simp] theorem State.raise_clus (n : Nat) : (s.raise n).clus = s.clus := by
  simp only [State.raise]; (repeat' split) <;> simp
@[simp] theorem State.raise_tensors (n : Nat) : (s.raise n).tensors = s.tensors := by
  simp only [State.raise]; (repeat' split) <;> simp
@[simp] theorem State.raise_outRegs (n : Nat) : (s.raise n).outRegs = s.outRegs := by
  simp only [State.raise]; (repeat' split) <;> simp
@[simp] theorem State.raise_sums (n : Nat) : (s.raise n).sums = s.sums := by
  simp only [State.raise]; (repeat' split) <;> simp
@[simp] theorem State.raise_mism (n : Nat) : (s.raise n).mism = s.mism := by
  simp only [State.raise]; (repeat' split) <;> simp
@[simp] theorem State.raise_gsums (n : Nat) : (s.raise n).gsums = s.gsums := by
  simp only [State.raise]; (repeat' split) <;> simp
@[simp] theorem State.raise_lap (n : Nat) : (s.raise n).lap = s.lap := by
  simp only [State.raise]; (repeat' split) <;> simp
@[simp] theorem State.raise_red (n : Nat) : (s.raise n).red = s.red := by
  simp only [State.raise]; (repeat' split) <;> simp
@[simp] theorem State.raise_gates (n : Nat) : (s.raise n).gates = s.gates := by
  simp only [State.raise]; (repeat' split) <;> simp
@[simp] theorem State.raise_pacer (n : Nat) : (s.raise n).pacer = s.pacer := by
  simp only [State.raise]; (repeat' split) <;> simp
@[simp] theorem State.raise_starter (n : Nat) : (s.raise n).starter = s.starter := by
  simp only [State.raise]; (repeat' split) <;> simp
@[simp] theorem State.raise_flt (n : Nat) : (s.raise n).flt = s.flt := by
  simp only [State.raise]; (repeat' split) <;> simp
@[simp] theorem State.raise_links (n : Nat) : (s.raise n).links = s.links := by
  simp only [State.raise]; (repeat' split) <;> simp
@[simp] theorem State.raise_mbr (n : Nat) : (s.raise n).mbr = s.mbr := by
  simp only [State.raise]; (repeat' split) <;> simp
@[simp] theorem State.raise_snp (n : Nat) : (s.raise n).snp = s.snp := by
  simp only [State.raise]; (repeat' split) <;> simp
@[simp] theorem State.raise_img (n : Nat) : (s.raise n).img = s.img := by
  simp only [State.raise]; (repeat' split) <;> simp
@[simp] theorem State.raise_claims (n : Nat) : (s.raise n).claims = s.claims := by
  simp only [State.raise]; (repeat' split) <;> simp
@[simp] theorem State.raise_waits (n : Nat) : (s.raise n).waits = s.waits := by
  simp only [State.raise]; (repeat' split) <;> simp
@[simp] theorem State.raise_traces (n : Nat) : (s.raise n).traces = s.traces := by
  simp only [State.raise]; (repeat' split) <;> simp
@[simp] theorem State.raise_frz (n : Nat) : (s.raise n).frz = s.frz := by
  simp only [State.raise]; (repeat' split) <;> simp
@[simp] theorem State.raise_photo (n : Nat) : (s.raise n).photo = s.photo := by
  simp only [State.raise]; (repeat' split) <;> simp
@[simp] theorem State.raise_perf (n : Nat) : (s.raise n).perf = s.perf := by
  simp only [State.raise]; (repeat' split) <;> simp
@[simp] theorem State.raise_upsets (n : Nat) : (s.raise n).upsets = s.upsets := by
  simp only [State.raise]; (repeat' split) <;> simp
@[simp] theorem State.raise_jdg (n : Nat) : (s.raise n).jdg = s.jdg := by
  simp only [State.raise]; (repeat' split) <;> simp
@[simp] theorem State.raise_landBib (n : Nat) : (s.raise n).landBib = s.landBib := by
  simp only [State.raise]; (repeat' split) <;> simp
@[simp] theorem State.raise_recals (n : Nat) : (s.raise n).recals = s.recals := by
  simp only [State.raise]; (repeat' split) <;> simp
@[simp] theorem State.raise_trained (n : Nat) : (s.raise n).trained = s.trained := by
  simp only [State.raise]; (repeat' split) <;> simp
@[simp] theorem State.raise_recalWait (n : Nat) : (s.raise n).recalWait = s.recalWait := by
  simp only [State.raise]; (repeat' split) <;> simp
@[simp] theorem State.raise_doms (n : Nat) : (s.raise n).doms = s.doms := by
  simp only [State.raise]; (repeat' split) <;> simp
@[simp] theorem State.raise_freeCtr (n : Nat) : (s.raise n).freeCtr = s.freeCtr := by
  simp only [State.raise]; (repeat' split) <;> simp
@[simp] theorem State.post_pending (r : RegDef) (u : Nat) (l : List (Fld × Nat)) (c n : Nat) :
    (s.post r u l c n).pending = s.pending := by unfold State.post; simp
@[simp] theorem State.post_staged (r : RegDef) (u : Nat) (l : List (Fld × Nat)) (c n : Nat) :
    (s.post r u l c n).staged = s.staged := by unfold State.post; simp
@[simp] theorem State.post_latch (r : RegDef) (u : Nat) (l : List (Fld × Nat)) (c n : Nat) :
    (s.post r u l c n).latch = s.latch := by unfold State.post; simp
@[simp] theorem State.post_mem (r : RegDef) (u : Nat) (l : List (Fld × Nat)) (c n : Nat) :
    (s.post r u l c n).mem = s.mem := by unfold State.post; simp
@[simp] theorem State.post_flash (r : RegDef) (u : Nat) (l : List (Fld × Nat)) (c n : Nat) :
    (s.post r u l c n).flash = s.flash := by unfold State.post; simp
@[simp] theorem State.post_cores (r : RegDef) (u : Nat) (l : List (Fld × Nat)) (c n : Nat) :
    (s.post r u l c n).cores = s.cores := by unfold State.post; simp
@[simp] theorem State.post_clus (r : RegDef) (u : Nat) (l : List (Fld × Nat)) (c n : Nat) :
    (s.post r u l c n).clus = s.clus := by unfold State.post; simp
@[simp] theorem State.post_tensors (r : RegDef) (u : Nat) (l : List (Fld × Nat)) (c n : Nat) :
    (s.post r u l c n).tensors = s.tensors := by unfold State.post; simp
@[simp] theorem State.post_outRegs (r : RegDef) (u : Nat) (l : List (Fld × Nat)) (c n : Nat) :
    (s.post r u l c n).outRegs = s.outRegs := by unfold State.post; simp
@[simp] theorem State.post_sums (r : RegDef) (u : Nat) (l : List (Fld × Nat)) (c n : Nat) :
    (s.post r u l c n).sums = s.sums := by unfold State.post; simp
@[simp] theorem State.post_mism (r : RegDef) (u : Nat) (l : List (Fld × Nat)) (c n : Nat) :
    (s.post r u l c n).mism = s.mism := by unfold State.post; simp
@[simp] theorem State.post_gsums (r : RegDef) (u : Nat) (l : List (Fld × Nat)) (c n : Nat) :
    (s.post r u l c n).gsums = s.gsums := by unfold State.post; simp
@[simp] theorem State.post_lap (r : RegDef) (u : Nat) (l : List (Fld × Nat)) (c n : Nat) :
    (s.post r u l c n).lap = s.lap := by unfold State.post; simp
@[simp] theorem State.post_red (r : RegDef) (u : Nat) (l : List (Fld × Nat)) (c n : Nat) :
    (s.post r u l c n).red = s.red := by unfold State.post; simp
@[simp] theorem State.post_gates (r : RegDef) (u : Nat) (l : List (Fld × Nat)) (c n : Nat) :
    (s.post r u l c n).gates = s.gates := by unfold State.post; simp
@[simp] theorem State.post_pacer (r : RegDef) (u : Nat) (l : List (Fld × Nat)) (c n : Nat) :
    (s.post r u l c n).pacer = s.pacer := by unfold State.post; simp
@[simp] theorem State.post_starter (r : RegDef) (u : Nat) (l : List (Fld × Nat)) (c n : Nat) :
    (s.post r u l c n).starter = s.starter := by unfold State.post; simp
@[simp] theorem State.post_flt (r : RegDef) (u : Nat) (l : List (Fld × Nat)) (c n : Nat) :
    (s.post r u l c n).flt = s.flt := by unfold State.post; simp
@[simp] theorem State.post_links (r : RegDef) (u : Nat) (l : List (Fld × Nat)) (c n : Nat) :
    (s.post r u l c n).links = s.links := by unfold State.post; simp
@[simp] theorem State.post_mbr (r : RegDef) (u : Nat) (l : List (Fld × Nat)) (c n : Nat) :
    (s.post r u l c n).mbr = s.mbr := by unfold State.post; simp
@[simp] theorem State.post_snp (r : RegDef) (u : Nat) (l : List (Fld × Nat)) (c n : Nat) :
    (s.post r u l c n).snp = s.snp := by unfold State.post; simp
@[simp] theorem State.post_img (r : RegDef) (u : Nat) (l : List (Fld × Nat)) (c n : Nat) :
    (s.post r u l c n).img = s.img := by unfold State.post; simp
@[simp] theorem State.post_claims (r : RegDef) (u : Nat) (l : List (Fld × Nat)) (c n : Nat) :
    (s.post r u l c n).claims = s.claims := by unfold State.post; simp
@[simp] theorem State.post_waits (r : RegDef) (u : Nat) (l : List (Fld × Nat)) (c n : Nat) :
    (s.post r u l c n).waits = s.waits := by unfold State.post; simp
@[simp] theorem State.post_traces (r : RegDef) (u : Nat) (l : List (Fld × Nat)) (c n : Nat) :
    (s.post r u l c n).traces = s.traces := by unfold State.post; simp
@[simp] theorem State.post_frz (r : RegDef) (u : Nat) (l : List (Fld × Nat)) (c n : Nat) :
    (s.post r u l c n).frz = s.frz := by unfold State.post; simp
@[simp] theorem State.post_photo (r : RegDef) (u : Nat) (l : List (Fld × Nat)) (c n : Nat) :
    (s.post r u l c n).photo = s.photo := by unfold State.post; simp
@[simp] theorem State.post_perf (r : RegDef) (u : Nat) (l : List (Fld × Nat)) (c n : Nat) :
    (s.post r u l c n).perf = s.perf := by unfold State.post; simp
@[simp] theorem State.post_upsets (r : RegDef) (u : Nat) (l : List (Fld × Nat)) (c n : Nat) :
    (s.post r u l c n).upsets = s.upsets := by unfold State.post; simp
@[simp] theorem State.post_jdg (r : RegDef) (u : Nat) (l : List (Fld × Nat)) (c n : Nat) :
    (s.post r u l c n).jdg = s.jdg := by unfold State.post; simp
@[simp] theorem State.post_landBib (r : RegDef) (u : Nat) (l : List (Fld × Nat)) (c n : Nat) :
    (s.post r u l c n).landBib = s.landBib := by unfold State.post; simp
@[simp] theorem State.post_recals (r : RegDef) (u : Nat) (l : List (Fld × Nat)) (c n : Nat) :
    (s.post r u l c n).recals = s.recals := by unfold State.post; simp
@[simp] theorem State.post_trained (r : RegDef) (u : Nat) (l : List (Fld × Nat)) (c n : Nat) :
    (s.post r u l c n).trained = s.trained := by unfold State.post; simp
@[simp] theorem State.post_recalWait (r : RegDef) (u : Nat) (l : List (Fld × Nat)) (c n : Nat) :
    (s.post r u l c n).recalWait = s.recalWait := by unfold State.post; simp
@[simp] theorem State.post_doms (r : RegDef) (u : Nat) (l : List (Fld × Nat)) (c n : Nat) :
    (s.post r u l c n).doms = s.doms := by unfold State.post; simp
@[simp] theorem State.post_freeCtr (r : RegDef) (u : Nat) (l : List (Fld × Nat)) (c n : Nat) :
    (s.post r u l c n).freeCtr = s.freeCtr := by unfold State.post; simp

/-! ### Registers and fields read after a write -/

/-- A register that was written reads as the value written. -/
@[simp] theorem State.rd_wr_same (r : RegDef) (u : Nat) (v : Word) : (s.wr r u v).rd r u = v := by
  simp [State.rd]

/-- A register at another address reads as before. -/
theorem State.rd_wr_other (r q : RegDef) (u w : Nat) (v : Word) (h : q.addr w ≠ r.addr u) : (s.wr r u v).rd q w = s.rd q w := by
  simp [State.rd, slGet_slSet_other _ _ _ _ _ h]

theorem State.rd_eq (t : State) (r : RegDef) (u : Nat) (h : s.regs = t.regs) : s.rd r u = t.rd r u := by
  simp [State.rd, h]

/-- The word of a register after one of its fields was put. -/
theorem State.rd_put_same (f : Fld) (u v : Nat) :
    (s.put f u v).rd f.reg u = BitVec.ofNat 32 (setBits (s.rd f.reg u).toNat f.hi f.lo v) := by
  simp [State.put]

theorem State.rd_put_other (f : Fld) (q : RegDef) (u w v : Nat) (h : q.addr w ≠ f.reg.addr u) :
    (s.put f u v).rd q w = s.rd q w := State.rd_wr_other _ _ _ _ _ _ h

/-- A field that was put reads as the value put, cut to its width. -/
theorem State.get_put_same (f : Fld) (u v : Nat) (h : f.lo ≤ f.hi) (h' : f.hi < 32) :
    (s.put f u v).get f u = v % 2 ^ (f.hi + 1 - f.lo) := by
  unfold State.get
  rw [State.rd_put_same, BitVec.toNat_ofNat,
    Nat.mod_eq_of_lt (setBits_lt _ _ _ _ 32 (by omega) (by omega) (BitVec.isLt _)), bits_setBits_same _ _ _ _ (by omega)]

/-- Another field of the same register reads as before. -/
theorem State.get_put_field (f g : Fld) (u v : Nat) (h : f.lo ≤ f.hi) (h' : f.hi < 32) (hr : g.reg = f.reg)
    (hd : g.hi < f.lo ∨ f.hi < g.lo) : (s.put f u v).get g u = s.get g u := by
  unfold State.get
  rw [hr, State.rd_put_same, BitVec.toNat_ofNat,
    Nat.mod_eq_of_lt (setBits_lt _ _ _ _ 32 (by omega) (by omega) (BitVec.isLt _))]
  rcases hd with hd | hd
  · exact bits_setBits_below _ _ _ _ _ _ (by omega) hd
  · exact bits_setBits_above _ _ _ _ _ _ (by omega) hd

/-- A field of a register at another address reads as before. -/
theorem State.get_put_other (f g : Fld) (u w v : Nat) (h : g.reg.addr w ≠ f.reg.addr u) :
    (s.put f u v).get g w = s.get g w := by
  unfold State.get
  rw [State.rd_put_other _ _ _ _ _ _ h]

/-! ### Unit tables read after a write -/

@[simp] theorem State.clu_setClu_same (c : Clu) (x : Cluster) : (s.setClu c x).clu c = x := by
  simp [State.clu]

theorem cluU_inj (c d : Clu) (h : cluU c = cluU d) : c = d := by
  obtain ⟨c1, c2⟩ := c
  obtain ⟨d1, d2⟩ := d
  simp only [cluU] at h
  have h1 : c1 = d1 := by omega
  have h2 : c2 = d2 := by omega
  subst h1; subst h2; rfl

theorem coreU_inj (c d : CoreId) (h : coreU c = coreU d) : c = d := by
  obtain ⟨c1, c2⟩ := c
  obtain ⟨d1, d2⟩ := d
  simp only [coreU] at h
  have h1 : cluU c1 = cluU d1 := by omega
  have h2 : c2 = d2 := by omega
  have := cluU_inj _ _ h1
  subst this; subst h2; rfl

theorem State.clu_setClu_other (c d : Clu) (x : Cluster) (h : d ≠ c) : (s.setClu c x).clu d = s.clu d := by
  simp [State.clu, slGet_slSet_other _ _ _ _ _ (fun e => h (cluU_inj _ _ e))]

@[simp] theorem State.core_setCore_same (c : CoreId) (x : Core) : (s.setCore c x).core c = x := by
  simp [State.core]

theorem State.core_setCore_other (c d : CoreId) (x : Core) (h : d ≠ c) : (s.setCore c x).core d = s.core d := by
  simp [State.core, slGet_slSet_other _ _ _ _ _ (fun e => h (coreU_inj _ _ e))]

@[simp] theorem State.tensor_setTensor_same (n : Nat) (x : TensorConv) : (s.setTensor n x).tensor n = x := by
  simp [State.tensor]

theorem State.tensor_setTensor_other (n m : Nat) (x : TensorConv) (h : m ≠ n) : (s.setTensor n x).tensor m = s.tensor m := by
  simp [State.tensor, slGet_slSet_other _ _ _ _ _ h]

end Sys2Proof.Machine
end

