-- ==== Sys2Proof/Laws/Events.lean ====
section
/-!
SUPPORT. What an event and a status report do, once (R5, R535, R539).
-/

namespace Sys2Proof.Machine

theorem State.onlyEvent_refl (s : State) (l : List Nat) : s.onlyEvent s l := ⟨rfl, fun _ _ _ => rfl⟩

theorem State.onlyEvent_trans {s t v : State} {l : List Nat} (h : s.onlyEvent t l) (g : t.onlyEvent v l) : s.onlyEvent v l := by
  obtain ⟨h1, h2⟩ := h
  obtain ⟨g1, g2⟩ := g
  refine ⟨?_, fun d a ha => (g2 d a ha).trans (h2 d a ha)⟩
  rw [h1] at g1
  exact g1

theorem State.onlyEvent_mono {s t : State} {l k : List Nat} (h : s.onlyEvent t l) (hk : ∀ a ∈ l, a ∈ k) : s.onlyEvent t k := by
  refine ⟨h.1, fun d a ha => h.2 d a ?_⟩
  simp only [List.mem_append] at ha ⊢
  intro hh
  rcases hh with hh | hh
  · exact ha (.inl (hk a hh))
  · exact ha (.inr hh)

theorem State.onlyEvent_wr (s : State) (r : RegDef) (u : Nat) (v : Word) : s.onlyEvent (s.wr r u v) [r.addr u] := by
  refine ⟨rfl, fun d a ha => ?_⟩
  simp only [List.cons_append, List.mem_cons] at ha
  rw [State.wr_regs, slGet_slSet_other _ _ _ _ _ (fun e => ha (.inl e))]

theorem State.onlyEvent_setPend (s : State) (n : Nat) (b : Bool) (h : n < 4096) (l : List Nat) : s.onlyEvent (s.setPend n b) l := by
  refine ⟨rfl, fun d a ha => ?_⟩
  have : a ≠ R.HUB_INT_PEND.addr (n / 32) := by
    rintro rfl
    exact ha (List.mem_append_right _ (List.mem_map.mpr ⟨n / 32, List.mem_range.mpr (by omega), rfl⟩))
  unfold State.setPend
  rw [State.wr_regs, slGet_slSet_other _ _ _ _ _ this]

theorem State.onlyEvent_emit (s : State) (e : Emit) (l : List Nat) : s.onlyEvent (s.emit e) l := by
  unfold State.emit
  split <;> exact ⟨rfl, fun _ _ _ => rfl⟩

/-- A message is sent, held in the pending bit array, or neither; nothing else changes (R539, R561). -/
theorem State.onlyEvent_message (s : State) (v : Nat) (l : List Nat) : s.onlyEvent (s.message v) l := by
  unfold State.message
  split
  · exact State.onlyEvent_refl s l
  · split
    · exact ⟨rfl, fun _ _ _ => rfl⟩
    · exact State.onlyEvent_emit s _ l

/-- An event sets at most its pending bit and issues at most a message (R535). -/
theorem State.onlyEvent_raise (s : State) (n : Nat) (h : n < 4096) (l : List Nat) : s.onlyEvent (s.raise n) l := by
  simp only [State.raise]
  split
  · exact State.onlyEvent_refl s l
  · split
    · exact State.onlyEvent_trans (State.onlyEvent_setPend s n true h l) (State.onlyEvent_message _ _ l)
    · exact State.onlyEvent_setPend s n true h l

theorem State.onlyEvent_notify (s s0 : State) (l : List Nat) : s.onlyEvent (s.notify s0) l := by
  unfold State.notify
  generalize s.eligibleList 8 = ns
  suffices h : ∀ t : State, s.onlyEvent t l → s.onlyEvent (ns.foldl (fun s n =>
      if (s0.eligibleList 8).contains n then s else s.message (s.get F.HUB_INT_SRC_vector n)) t) l from
    h s (State.onlyEvent_refl s l)
  induction ns with
  | nil => exact fun t h => h
  | cons n ns ih =>
    intro t h
    apply ih
    dsimp only
    split
    · exact h
    · exact State.onlyEvent_trans h (State.onlyEvent_message _ _ l)

theorem State.rd_of_onlyEvent {s t : State} {l : List Nat} (h : s.onlyEvent t l) (r : RegDef) (u : Nat) (hl : r.addr u ∉ l)
    (hp : r.addr u ∉ pendAddrs) : t.rd r u = s.rd r u :=
  h.2 _ _ (by simp only [List.mem_append, not_or]; exact ⟨hl, hp⟩)

theorem State.puts_rd_other (s : State) (u : Nat) (l : List (Fld × Nat)) (r : RegDef) (w : Nat)
    (h : ∀ p ∈ l, r.addr w ≠ p.1.reg.addr u) : (s.puts u l).rd r w = s.rd r w := by
  induction l generalizing s with
  | nil => rfl
  | cons p l ih =>
    show ((s.put p.1 u p.2).puts u l).rd r w = _
    rw [ih _ (fun q hq => h q (List.mem_cons_of_mem _ hq)), State.rd_put_other _ _ _ _ _ _ (h p List.mem_cons_self)]

theorem State.onlyEvent_puts (s : State) (u : Nat) (l : List (Fld × Nat)) (k : List Nat)
    (h : ∀ p ∈ l, p.1.reg.addr u ∈ k) : s.onlyEvent (s.puts u l) k := by
  induction l generalizing s with
  | nil => exact State.onlyEvent_refl s k
  | cons p l ih =>
    exact State.onlyEvent_trans (State.onlyEvent_mono (State.onlyEvent_wr s _ _ _)
      (by simpa using h p List.mem_cons_self)) (ih _ (fun q hq => h q (List.mem_cons_of_mem _ hq)))

/-- Fields of one register that were put below bit 24 and above bit 7 leave `seq` and `code` alone. -/
theorem State.puts_codeSeq (s : State) (r : RegDef) (u : Nat) (l : List (Fld × Nat))
    (h : ∀ p ∈ l, p.1.reg = r ∧ 8 ≤ p.1.lo ∧ p.1.lo ≤ p.1.hi ∧ p.1.hi < 24) :
    bits ((s.puts u l).rd r u).toNat 7 0 = bits (s.rd r u).toNat 7 0
      ∧ bits ((s.puts u l).rd r u).toNat 31 24 = bits (s.rd r u).toNat 31 24 := by
  induction l generalizing s with
  | nil => exact ⟨rfl, rfl⟩
  | cons p l ih =>
    obtain ⟨h1, h2, h3, h4⟩ := h p List.mem_cons_self
    have hk := ih (s.put p.1 u p.2) (fun q hq => h q (List.mem_cons_of_mem _ hq))
    have e := State.rd_put_same s p.1 u p.2
    rw [h1] at e
    have lt : setBits (s.rd r u).toNat p.1.hi p.1.lo p.2 < 2 ^ 32 :=
      setBits_lt _ _ _ _ 32 (by omega) (by omega) (BitVec.isLt _)
    show bits (((s.put p.1 u p.2).puts u l).rd r u).toNat 7 0 = _ ∧ bits (((s.put p.1 u p.2).puts u l).rd r u).toNat 31 24 = _
    rw [hk.1, hk.2, e, BitVec.toNat_ofNat, Nat.mod_eq_of_lt lt, bits_setBits_below _ _ _ _ _ _ (by omega) (by omega),
      bits_setBits_above _ _ _ _ _ _ (by omega) (by omega)]
    exact ⟨rfl, rfl⟩

/-- What a status report does (R5, R535): the code, the sequence number, and nothing but the status register's word, the
pending bit of its source and a message. -/
theorem State.post_spec (s : State) (r : RegDef) (u : Nat) (l : List (Fld × Nat)) (c n : Nat)
    (h : ∀ p ∈ l, p.1.reg = r ∧ 8 ≤ p.1.lo ∧ p.1.lo ≤ p.1.hi ∧ p.1.hi < 24) (hc : c < 256) (hn : n < 4096)
    (hp : r.addr u ∉ pendAddrs) :
    s.reports (s.post r u l c n) r u c ∧ s.onlyEvent (s.post r u l c n) [r.addr u] := by
  have lt : ∀ x < 2 ^ 32, ∀ v, setBits x 31 24 v < 2 ^ 32 := fun x hx v => setBits_lt _ _ _ _ 32 (by omega) (by omega) hx
  have lt' : ∀ x < 2 ^ 32, ∀ v, setBits x 7 0 v < 2 ^ 32 := fun x hx v => setBits_lt _ _ _ _ 32 (by omega) (by omega) hx
  simp only [State.post]
  generalize hw : setBits (setBits (s.rd r u).toNat 31 24 (bits (s.rd r u).toNat 31 24 + 1)) 7 0 c = w
  have hwl : w < 2 ^ 32 := by rw [← hw]; exact lt' _ (lt _ (BitVec.isLt _) _) _
  have hcode : bits w 7 0 = c := by
    rw [← hw, bits_setBits_same _ _ _ _ (by omega)]; exact Nat.mod_eq_of_lt hc
  have hseq : bits w 31 24 = (bits (s.rd r u).toNat 31 24 + 1) % 256 := by
    rw [← hw]
    exact (bits_setBits_above _ _ _ _ _ _ (by omega) (by omega)).trans (bits_setBits_same _ _ _ _ (by omega))
  have e1 := State.puts_codeSeq (s.wr r u (BitVec.ofNat 32 w)) r u l h
  rw [State.rd_wr_same, BitVec.toNat_ofNat, Nat.mod_eq_of_lt hwl] at e1
  have ev : s.onlyEvent ((s.wr r u (BitVec.ofNat 32 w)).puts u l) [r.addr u] :=
    State.onlyEvent_trans (State.onlyEvent_wr s r u _) (State.onlyEvent_puts _ u l _ (fun p hp => by simp [(h p hp).1]))
  have er := State.onlyEvent_raise ((s.wr r u (BitVec.ofNat 32 w)).puts u l) n hn []
  have hr := State.rd_of_onlyEvent er r u (by simp) hp
  refine ⟨⟨?_, ?_⟩, State.onlyEvent_trans ev (State.onlyEvent_mono er (by simp))⟩
  · rw [hr, e1.1, hcode]
  · rw [hr, e1.2, hseq]

end Sys2Proof.Machine
end

