-- ==== Sys2Proof/Laws/Fields.lean ====
section
/-!
SUPPORT. What a register write does field by field: the folds over a register's fields that Fields.lean uses (R5, R8).
-/

namespace Sys2Proof.Machine

/-- Merging a value into some fields leaves bits outside all fields as they are. -/
theorem foldl_fields_bits (fs : List Field) (p : Acc → Bool) (n v hi lo : Nat)
    (hd : ∀ f ∈ fs, f.lo ≤ f.hi ∧ (f.hi < lo ∨ hi < f.lo)) :
    bits (fs.foldl (fun n f => if p f.acc then f.merge n v else n) n) hi lo = bits n hi lo := by
  induction fs generalizing n with
  | nil => rfl
  | cons f fs ih =>
    rw [List.foldl_cons, ih _ (fun g hg => hd g (List.mem_cons_of_mem _ hg))]
    obtain ⟨h1, h2⟩ := hd f List.mem_cons_self
    split
    · unfold Field.merge
      split
      · rcases h2 with h2 | h2
        · exact bits_setBits_above _ _ _ _ _ _ (by omega) h2
        · exact bits_setBits_below _ _ _ _ _ _ (by omega) h2
      · rfl
    · rfl

/-- Merging a value into some fields keeps a 32-bit word. -/
theorem foldl_fields_lt (fs : List Field) (p : Acc → Bool) (n v : Nat) (hn : n < 2 ^ 32) (hd : ∀ f ∈ fs, f.lo ≤ f.hi ∧ f.hi < 32) :
    fs.foldl (fun n f => if p f.acc then f.merge n v else n) n < 2 ^ 32 := by
  induction fs generalizing n with
  | nil => exact hn
  | cons f fs ih =>
    rw [List.foldl_cons]
    apply ih _ _ (fun g hg => hd g (List.mem_cons_of_mem _ hg))
    obtain ⟨h1, h2⟩ := hd f List.mem_cons_self
    split
    · unfold Field.merge
      split
      · exact setBits_lt _ _ _ _ 32 (by omega) (by omega) hn
      · exact hn
    · exact hn

/-- Merging a value into fields that do not overlap: each field takes its part where its type and value permit it. -/
theorem bits_fold_one (fs : List Field) (p : Acc → Bool) (n v : Nat) (f : Field) (hf : f ∈ fs)
    (hb : ∀ f ∈ fs, f.lo ≤ f.hi ∧ f.hi < 32) (hp : fs.Pairwise (fun f g => f.hi < g.lo ∨ g.hi < f.lo)) :
    bits (fs.foldl (fun n f => if p f.acc then f.merge n v else n) n) f.hi f.lo
     = if p f.acc = true ∧ f.takes (bits v f.hi f.lo) = true then bits v f.hi f.lo else bits n f.hi f.lo := by
  induction fs generalizing n with
  | nil => cases hf
  | cons g fs ih =>
    rw [List.pairwise_cons] at hp
    rw [List.foldl_cons]
    rcases List.mem_cons.mp hf with rfl | hf'
    · obtain ⟨h1, h2⟩ := hb f List.mem_cons_self
      rw [foldl_fields_bits]
      · unfold Field.merge
        by_cases ha : p f.acc = true <;> by_cases ht : f.takes (bits v f.hi f.lo) = true <;> simp [ha, ht]
        rw [bits_setBits_same _ _ _ _ (by omega)]
        exact Nat.mod_eq_of_lt (bits_lt _ _ _)
      · intro h hh
        refine ⟨(hb h (List.mem_cons_of_mem _ hh)).1, ?_⟩
        have := hp.1 h hh
        omega
    · rw [ih _ hf' (fun g hg => hb g (List.mem_cons_of_mem _ hg)) hp.2]
      have hg := hp.1 f hf'
      obtain ⟨h1, h2⟩ := hb g List.mem_cons_self
      have e : bits (if p g.acc = true then g.merge n v else n) f.hi f.lo = bits n f.hi f.lo := by
        split
        · unfold Field.merge
          split
          · rcases hg with hg | hg
            · exact bits_setBits_above _ _ _ _ _ _ (by omega) hg
            · exact bits_setBits_below _ _ _ _ _ _ (by omega) hg
          · rfl
        · rfl
      rw [e]

/-- Writing one register changes no other. -/
theorem onlyRegs_wr (s : State) (r : RegDef) (u : Nat) (v : Word) : s.onlyRegs (s.wr r u v) [r.addr u] :=
  ⟨rfl, fun d a ha => by rw [State.wr_regs, slGet_slSet_other _ _ _ _ _ (by simpa using ha)]⟩

/-- A register without RW fields takes nothing from a write. -/
theorem mergeIf_none (r : RegDef) (n v : Nat) (h : ∀ f ∈ r.fields, f.acc ≠ .rw) : r.mergeIf (· == .rw) n v = n := by
  unfold RegDef.mergeIf
  generalize r.fields = fs at h
  induction fs generalizing n with
  | nil => rfl
  | cons f fs ih =>
    have := h f List.mem_cons_self
    rw [List.foldl_cons]
    simp only [beq_iff_eq, this, if_false]
    have := ih n (fun g hg => h g (List.mem_cons_of_mem _ hg))
    simpa using this

/-- Clearing by sequence clears the code, and keeps the sequence number and the bits between. -/
theorem sqClear_bits (r : RegDef) (n : Nat) (hn : n < 2 ^ 32) (h : ∀ f ∈ r.fields, f.acc == .sq && f.lo != 24 → f.hi = 7 ∧ f.lo = 0)
   (h2 : r.fields.any (fun f => f.acc == .sq && f.lo == 0 && f.hi == 7) = true) :
   bits (r.sqClear n) 7 0 = 0 ∧ bits (r.sqClear n) 31 8 = bits n 31 8 ∧ r.sqClear n < 2 ^ 32 := by
  unfold RegDef.sqClear
  suffices g : ∀ m, (bits m 7 0 = 0 ∨ r.fields.any (fun f => f.acc == .sq && f.lo == 0 && f.hi == 7) = true) → m < 2 ^ 32 →
     bits (r.fields.foldl (fun n f => if f.acc == .sq && f.lo != 24 then setBits n f.hi f.lo 0 else n) m) 7 0 = 0 ∧
     bits (r.fields.foldl (fun n f => if f.acc == .sq && f.lo != 24 then setBits n f.hi f.lo 0 else n) m) 31 8 = bits m 31 8 ∧
     (r.fields.foldl (fun n f => if f.acc == .sq && f.lo != 24 then setBits n f.hi f.lo 0 else n) m) < 2 ^ 32 from g n (.inr h2) hn
  clear h2
  generalize r.fields = fs at h
  induction fs with
  | nil => intro m hm hl; simp at hm; exact ⟨hm, rfl, hl⟩
  | cons f fs ih =>
    intro m hm hl
    rw [List.foldl_cons]
    have hf := h f List.mem_cons_self
    have ih' := ih (fun g hg => h g (List.mem_cons_of_mem _ hg))
    by_cases c : (f.acc == .sq && f.lo != 24) = true
    · obtain ⟨e1, e2⟩ := hf c
      rw [if_pos c, e1, e2]
      have := ih' (setBits m 7 0 0) (.inl ((bits_setBits_same _ _ _ _ (by omega)).trans (Nat.zero_mod _))) (setBits_lt _ _ _ _ 32 (by omega) (by omega) hl)
      rw [bits_setBits_above m 7 0 0 31 8 (by omega) (by omega)] at this
      exact this
    · rw [if_neg c]
      refine ih' m ?_ hl
      rcases hm with hm | hm
      · exact .inl hm
      · rw [List.any_cons, Bool.or_eq_true] at hm
        rcases hm with hm | hm
        · exfalso; apply c
          simp only [Bool.and_eq_true, beq_iff_eq] at hm
          simp [hm.1.1, hm.1.2]
        · exact .inr hm

end Sys2Proof.Machine
end

