-- ==== Sys2Proof/WellFormed.lean ====
section
/-!
DEFINITION. When a command is well formed: its address and operands lie where the registers and buffers of the rules are.
The types of Syntax.lean already bound unit numbers; these checks bound the operands that are plain numbers or lists.
-/

namespace Sys2Proof

/-- A received frame has 268 bytes: a flit of 256 and its parity (R295, R296). -/
def Flit.ok (f : Flit) : Bool := f.frame.length == 268

/-- Is a command well formed. -/
def Instr.wf : Instr → Bool
  -- registers are 32-bit words at aligned addresses (R4)
  | .registerWrite a _ _ => a.toNat % 4 == 0
  | .sequenceClear a _ => a.toNat % 4 == 0
  | .perfCounterRead a => a.toNat % 8 == 0
  -- 33 to 63 are reserved encodings of retired_col_next (R52)
  | .retiredColNextWrite _ v => decide (v.toNat < 33)
  -- the operands of a queue are in 256 KiB areas of 64-byte descriptors: no bound beyond their type
  | .idleFlit _ f => f.ok
  | .headFlit _ f => f.ok
  | .bodyFlit _ f => f.ok
  | .nakFlit _ f => f.ok
  | .batonFlit _ f => f.ok
  | .timeFlit _ f => f.ok
  | .heartbeatFlit _ f => f.ok
  | .freezeFlit _ f => f.ok
  | .swapFlit _ f => f.ok
  | .swapAckFlit _ f => f.ok
  -- a rank is a 16-bit number (R328)
  | .probeTimeout _ rank => decide (rank < 65536)
  | _ => true

end Sys2Proof
end

