-- ==== Sys2Proof/Tests/Slice0.lean ====
section
/-!
SUPPORT. Tests on fixed values: an ill-formed term for each check of WellFormed, and, for every clause of every statement
that has hypotheses, a state and operands that meet them, with what the command does there.
-/

set_option Elab.async false

namespace Sys2Proof.Tests

open Sys2Proof Sys2Proof.Machine

/-- The state after a command. -/
def run (c : Instr) (s : State) : State :=
  match exec c s with
  | .next t => t
  | _ => s

/-- The state after a step with no command waiting. -/
def aTick (s : State) : State :=
  match step { s with pending := [] } with
  | .next t => t
  | _ => s

/-- Field die 0, clusters 0 and 1 of it, core 0 of cluster 0. -/
def c0 : Clu := cluNo 0 0
def c1 : Clu := cluNo 0 1
def k0 : CoreId := coreNo c0 0

/-- The domains that the tests power. -/
def onDoms : List Dom :=
  [.cluster c0, .dieCtl 0, .hbm 0, .link 0, .hubCtl 0, .pcie, .stewards, .judge]

/-- A module at work with one die, one cluster on it and two cores in use. -/
def base : State :=
  ({ State.reset with
    doms := onDoms.foldl (fun l d => slSet l (domNo d) .on) []
    flt := { dieMap := [0], cluMap := [(0, [0])], coreMap := [(0, [0, 1])] }
    starter := { stewReady := true } }).puts 0 [(F.HUB_HOST_READY_stage, 0x0F), (F.HUB_HOST_READY_hbm, 1)]

/-- A frame of n zero bytes. -/
def zFlit (n : Nat) : Flit := { frame := List.replicate n 0 }

/-! ### Well-formed commands -/

theorem test_wf_unaligned_refused : (Instr.registerWrite 2 0xF 0).wf = false ∧ (Instr.sequenceClear 1 0).wf = false ∧
    (Instr.perfCounterRead 4).wf = false := by decide +kernel
theorem test_wf_aligned : (Instr.registerWrite 4 0xF 0).wf = true ∧ (Instr.sequenceClear 4 0).wf = true ∧
    (Instr.perfCounterRead 8).wf = true := by decide +kernel
theorem test_wf_column : (Instr.retiredColNextWrite k0 33).wf = false ∧ (Instr.retiredColNextWrite k0 63).wf = false ∧
    (Instr.retiredColNextWrite k0 0).wf = true ∧ (Instr.retiredColNextWrite k0 32).wf = true := by decide +kernel
theorem test_wf_short_flit_refused : (Instr.idleFlit 0 (zFlit 256)).wf = false ∧ (Instr.headFlit 0 (zFlit 256)).wf = false ∧
    (Instr.bodyFlit 0 (zFlit 269)).wf = false ∧ (Instr.nakFlit 0 (zFlit 0)).wf = false ∧
    (Instr.batonFlit 0 (zFlit 256)).wf = false ∧ (Instr.timeFlit 0 (zFlit 256)).wf = false ∧
    (Instr.heartbeatFlit 0 (zFlit 256)).wf = false ∧ (Instr.freezeFlit 0 (zFlit 256)).wf = false ∧
    (Instr.swapFlit 0 (zFlit 256)).wf = false ∧ (Instr.swapAckFlit 0 (zFlit 256)).wf = false ∧
    (Instr.idleFlit 0 (zFlit 268)).wf = true := by decide +kernel
theorem test_wf_rank : (Instr.probeTimeout 0 65536).wf = false ∧ (Instr.probeTimeout 0 65535).wf = true := by decide +kernel
theorem test_no_word_spells_a_command : decodeTableWord 32 0 = none ∧ base.withFetchWord 32 0 = base := by decide +kernel

/-! ### The block as a whole -/

theorem test_base_works : base.memOk ∧ base.live = true ∧ base.cluOn c0 = true ∧ base.cluGo c0 = true ∧ base.allClus = [c0] := by
  unfold State.memOk; decide +kernel
theorem test_base_step : (match step { base with pending := [.pcrResync] } with
    | .next t => t.pacer.loadNext && t.pending.isEmpty
    | _ => false) = true := by decide +kernel
theorem test_memory_rule_meets : State.reset.memOk := by unfold State.memOk; decide +kernel
theorem test_address_map : R.CORE_MODE ∈ blkRegs .core ∧ 92819 < blkUnits .core ∧
    regAt (R.CORE_MODE.addr 92819 + 0) = some (R.CORE_MODE, 92819) ∧ regAt (R.RLY_CTRL.addr 63) = some (R.RLY_CTRL, 63) ∧
    regAt (R.HUB_HBM_CTRL.addr 31) = some (R.HUB_HBM_CTRL, 31) := by decide +kernel


/-- Where nothing is in quarantine and no upset waits, HBM and SRAM serve every access. -/
theorem quiet_of {s : State} (hu : s.upsets = {}) (hq : s.flt.quar = []) (hb : s.flt.sramBad = []) : s.hbmQuiet ∧ s.sramQuiet := by
  unfold State.hbmQuiet State.sramQuiet State.hbmBad
  simp [hu, hq, hb]
theorem test_base_quiet : base.hbmQuiet ∧ base.sramQuiet := quiet_of (by decide +kernel) (by decide +kernel) (by decide +kernel)
/-! ### Registers, the Starter, rings (RegistersByField, ReadsThatLatch, StarterServes, RingsAndWindow) -/

/-- Sources 3 and 5 have priorities 4 and 6 for target 0 and are pending. -/
def pend2 : State :=
  (((((base.put F.HUB_INT_SRC_prio 3 4).put F.HUB_INT_SRC_prio 5 6).put F.HUB_INT_SRC_target 3 0).put F.HUB_INT_SRC_target 5 0).setPend 3 true).setPend 5 true

theorem test_write_each_alias : R.SNP_CFG ∈ rwRegs ∧ base.served .snap 0 R.SNP_CFG.off = true ∧
    (run (.registerWrite (BitVec.ofNat 29 (R.RLY_PEER_EXPECT.addr 0)) 0xF 0x12345) base).rd R.RLY_PEER_EXPECT 0 =
      BitVec.ofNat 32 (R.RLY_PEER_EXPECT.mergeIf (· == .rw) 0 0x12345) := by decide +kernel
theorem test_set_alias : base.served .groups 0 R.GRP_SEL.off = true ∧
    (run (.registerWrite (BitVec.ofNat 29 (R.GRP_SEL.addr 0 + 0x1000)) 0xF 0x05) (base.put F.GRP_SEL_group 0 0x10)).get F.GRP_SEL_group 0 = 0x15 ∧
    (run (.registerWrite (BitVec.ofNat 29 (R.GRP_SEL.addr 0 + 0x2000)) 0xF 0x11) (base.put F.GRP_SEL_group 0 0x13)).get F.GRP_SEL_group 0 = 0x02 ∧
    (run (.registerWrite (BitVec.ofNat 29 (R.GRP_SEL.addr 0 + 0x3000)) 0xF 0x11) (base.put F.GRP_SEL_group 0 0x13)).get F.GRP_SEL_group 0 = 0x02 := by
  decide +kernel
theorem test_reserved_value_kept : R.PWR_SAG ∈ rwRegs ∧
    (run (.registerWrite (BitVec.ofNat 29 (R.PWR_SAG.addr 0)) 0xF ((BitVec.ofNat 32 (399 * 2 ^ 16 + 200)))) base).get F.PWR_SAG_sag_dv 0 = 440 ∧
    (run (.registerWrite (BitVec.ofNat 29 (R.PWR_SAG.addr 0)) 0xF ((BitVec.ofNat 32 (399 * 2 ^ 16 + 200)))) base).get F.PWR_SAG_sag_cap 0 = 200 := by
  decide +kernel
theorem test_partial_write_ignored : inWindow (R.GRP_SEL.addr 0) = false ∧
    run (.registerWrite (BitVec.ofNat 29 (R.GRP_SEL.addr 0)) 7 1) base = base ∧
    regAt (plainOf (R.CLU_TRC_CFG.addr 1)) = some (R.CLU_TRC_CFG, 1) ∧ msixAt (plainOf (R.CLU_TRC_CFG.addr 1)) = none ∧
    base.served .clu 1 R.CLU_TRC_CFG.off = false ∧
    run (.registerWrite (BitVec.ofNat 29 (R.CLU_TRC_CFG.addr 1)) 0xF 1) base = base := by decide +kernel
theorem test_sequence_clear : R.STA_STATUS ∈ sqRegs ∧ base.served .clu 0 R.STA_STATUS.off = true ∧
    (run (.sequenceClear (BitVec.ofNat 29 (R.STA_STATUS.addr 0)) 0x07000000) (base.wr R.STA_STATUS 0 0x07000003)).rd R.STA_STATUS 0 = 0x07000000 ∧
    (run (.sequenceClear (BitVec.ofNat 29 (R.STA_STATUS.addr 0)) 0x06000000) (base.wr R.STA_STATUS 0 0x07000003)).rd R.STA_STATUS 0 = 0x07000003 := by
  decide +kernel
theorem test_strobe_group_four : base.served .update 0 0 = true ∧
    (run (.updStrobe 0x10) { base with staged := [(R.GRP_LAP_CLIP.addr 0, 5)] }).rd R.GRP_LAP_CLIP 0 = 5 ∧
    (run (.updStrobe 0x10) { base with staged := [(R.GRP_LAP_CLIP.addr 0, 5)] }).staged = [] ∧
    (run (.updStrobe 0x01) { base with staged := [(R.GRP_LAP_CLIP.addr 0, 5)] }).rd R.GRP_LAP_CLIP 0 = base.rd R.GRP_LAP_CLIP 0 := by
  decide +kernel
theorem test_gen_ctr_read : base.served .clu (cluU c0) 0x26C = true ∧
    (run (.genCtrRead c0) (base.setClu c0 ({} : Cluster)|>.setClu c0 ((base.clu c0).setLane 0 { n := 2 ^ 32 + 7, q := [1, 2] }))).out = [.word 7] := by
  decide +kernel
theorem test_time_read : base.stage ≠ 0 ∧
    (run .pcrTimeRead { base with pacer := { base.pacer with time := 256 * (2 ^ 32 + 9) + 3 } }).out = [.word 9] ∧
    (run .pcrTimeRead { base with pacer := { base.pacer with time := 256 * (2 ^ 32 + 9) + 3 } }).rd R.PCR_TIME_HI 0 = 1 := by decide +kernel
theorem test_perf_read : plainOf (cluBase 0 + 0x340 + 56) = cluBase (cluU c0) + 0x340 + 8 * 7 ∧
    base.served .clu (cluU c0) (0x340 + 8 * 7) = true ∧
    (run (.perfCounterRead (BitVec.ofNat 29 (cluBase 0 + 0x340 + 56))) (base.perfClu c0 7 (2 ^ 32 + 5))).out = [.word 5] := by decide +kernel
theorem test_retired_col_next : base.served .core (coreU k0) 8 = true ∧
    run (.retiredColNextWrite k0 33) base = base ∧
    (run (.retiredColNextWrite k0 31) base).get F.CORE_COLMAP_retired_col_next 0 = 31 ∧
    (run (.retiredColNextWrite k0 32) (base.put F.CORE_COLMAP_spare_avail 0 0)).get F.CORE_COLMAP_retired_col_next 0 = 32 ∧
    (run (.retiredColNextWrite k0 31) (base.put F.CORE_COLMAP_spare_avail 0 0)).get F.CORE_ARRAY_STATUS_code 0 = 5 := by decide +kernel
theorem test_claim_highest : pend2.served .intTgt 0 4 = true ∧ pend2.eligible 0 5 = true ∧ pend2.eligible 0 3 = true ∧
    (run (.hubIntClaim 0) pend2).out = [.word (BitVec.ofNat 32 (2 ^ 31 + 5))] ∧ (run (.hubIntClaim 0) pend2).srcPend 5 = false ∧
    (run (.hubIntClaim 0) pend2).stack 0 = [(5, 6)] ∧ (run (.hubIntClaim 0) (run (.hubIntClaim 0) pend2)).out.length = 2 := by
  decide +kernel
theorem test_claim_none : (run (.hubIntClaim 8) base).out = [.word 0] ∧ base.eligibleList 8 = [] := by decide +kernel
theorem test_complete : (run (.hubIntClaim 0) pend2).stack 0 = [(5, 6)] ∧ pend2.served .intTgt 0 8 = true ∧
    (run (.hubIntComplete 0 5) (run (.hubIntClaim 0) pend2)).stack 0 = [] ∧
    (run (.hubIntComplete 0 3) (run (.hubIntClaim 0) pend2)).get F.HUB_INT_STATUS_code 0 = 1 := by decide +kernel
theorem test_doorbell : base.served .intPend (255 / 32) 0 = true ∧ (run (.doorbell 255) base).srcPend 255 = true ∧
    (run (.doorbell 0) base).srcPend 0 = true := by decide +kernel
theorem test_unmask : base.served .hub0 0 0x800 = true ∧
    (run (.msixUnmask (some 63)) base).msixWord 63 3 = 0 ∧
    (run (.msixUnmask (some 2)) { pend2 with host := { pend2.host with msixEn := true, pba := 4 } }).host.pba = 0 := by decide +kernel
theorem test_unmask_sends : ((run (.msixUnmask (some 2)) (((({ base with host := { base.host with msixEn := true, pba := 4 } }.put F.HUB_INT_SRC_prio 9 4).put
    F.HUB_INT_SRC_target 9 8).put F.HUB_INT_SRC_vector 9 2).setPend 9 true)).out = [.msix 2 0 0]) := by decide +kernel
theorem test_unmask_function : base.domOn .pcie = true ∧
    let s := ((({ base with host := { base.host with pba := 6, funcMask := true, msix := [(7, 0)] } }.put F.HUB_INT_SRC_prio 9 4).put
      F.HUB_INT_SRC_target 9 8).put F.HUB_INT_SRC_vector 9 1).setPend 9 true
    let t := run (.msixUnmask none) s
    t.host.msixEn = true ∧ t.host.funcMask = false ∧ t.host.pba = 4 ∧ t.out = [.msix 1 0 0] ∧ (t.msixWord 2 3).toNat % 2 = 1 := by
  decide +kernel
theorem test_ord_tail : base.served .hub0 0 0x48 = true ∧
    (run (.hubOrdTail 262144) (base.put F.HUB_ORD_BASE_HI_en 0 1)).get F.HUB_ORD_TAIL_tail 0 = 262144 ∧
    (run (.hubOrdTail 262145) (base.put F.HUB_ORD_BASE_HI_en 0 1)).get F.HUB_ORD_STATUS_code 0 = 1 ∧
    (run (.hubOrdTail 1) base).get F.HUB_ORD_STATUS_code 0 = 1 := by decide +kernel
theorem test_ring_enables : base.served .hub0 0 0x44 = true ∧ base.served .hub0 0 0x5C = true ∧
    (run (.ordersRingEnable 0x80000000) (base.put F.HUB_ORD_HEAD_head 0 5)).get F.HUB_ORD_HEAD_head 0 = 0 ∧
    (run (.completionRingEnable 0x800C0000) (base.put F.HUB_CMP_HEAD_cmp_head 0 5)).get F.HUB_CMP_HEAD_cmp_head 0 = 0 := by decide +kernel
theorem test_window : (base.put F.HUB_ORD_BASE_HI_en 0 1).winOn = true ∧ base.get F.IMG_STORE_HI_size_gib 0 = 0 ∧
    (run (.ordersWindowAccess (2 ^ 26 - 2) (some [some 1, some 2]) 0) (base.put F.HUB_ORD_BASE_HI_en 0 1)).mem =
      [(2 ^ 26 - 2, 1), (2 ^ 26 - 1, 2)] ∧
    (run (.ordersWindowAccess 0 none 3) (base.put F.HUB_ORD_BASE_HI_en 0 1)).out = [.data [0, 0, 0]] ∧
    (run (.ordersWindowAccess 0 none 2) base).out = [.data [255, 255]] := by decide +kernel

theorem test_blocks_answer : (∀ q ∈ [(Blk.snap, 0), (.images, 0), (.trace, 0), (.traceQ, 0), (.fault, 0), (.groups, 0), (.link, 0), (.hbm, 0)],
      base.served q.1 q.2 0 = true ∧ State.reset.served q.1 q.2 0 = false) ∧ base.stage ≠ 0 ∧ State.reset.stage = 0 ∧
    (run .freeze base).served .trace 0 0 = true ∧ (run .freeze base).served .hbm 0 0 = true ∧ (run .freeze base).served .snap 0 0 = false ∧
    run .snpNow (run .freeze base) = run .freeze base ∧ run .markMissing State.reset = State.reset ∧ run .freezeNFall State.reset = State.reset := by
  decide +kernel
theorem test_window_byte_enables : inWindow 0x18000000 = true ∧
    (run (.registerWrite 0x18000000 0b0110 0x44332211) (base.put F.HUB_ORD_BASE_HI_en 0 1)).mem = [(1, 0x22), (2, 0x33)] := by decide +kernel

/-! ### The array and conversion (PassStartsOrStops, PassesComplete, ConversionAndMerges, HurdleAdoptsWords) -/

/-- A pass of tensor 1: one INT4 row and column, one wavefront, FP32 output. -/
def dPass : Nat := 0xFFFFFFFE * 2 ^ 96 + 6 * 2 ^ 64 + 6 * 2 ^ 60 + 2 ^ 82 + 2 ^ 81 + 1 * 2 ^ 16 + 1

/-- Cluster 0 with one statistics record, for tensor 1, and the pass descriptor at pool offset 0x1000; the weight at near
store offset 0 is 3, the activation at staging offset 0 is 5. -/
def arr : State :=
  (((((base.put F.CORE_EDGE_CFG_slots (coreU k0) 256).put F.CORE_EDGE_CFG_wide_base (coreU k0) 1).put F.STA_CFG_records (cluU c0) 1).st
    (poolAt c0 0) 1 1).st (poolAt c0 12) 1 1).st (poolAt c0 0x1000) 32 dPass |>.st (nearAt k0 0) 1 3 |>.st (stageAt k0 0) 1 5

def arrRun : State := run (.pass k0 0x1000) arr
def arrFed : State := run (.wavefrontCommit k0 0 []) arrRun
def arrUpset : State := run (.wavefrontCommit k0 0 [(0, 1)]) arrRun
def arrDone : State := run (.passComplete k0 0) arrFed

theorem test_pass_starts : arr.cluGo c0 = true ∧ arr.coreQuar k0 = false ∧ (arr.clu c0).stopNext = false ∧
    arr.passCheck k0 dPass = none ∧ arr.copyWait k0 dPass = none ∧ arr.heldWait k0 dPass = false ∧ arr.operandHeld k0 dPass = false ∧
    (arrRun.core k0).runs.length = 1 ∧ (arrRun.core k0).runs.map (fun r => r.desc) = [dPass] := by decide +kernel
theorem test_pass_reserved : let s := arr.st (poolAt c0 0x1000) 32 (dPass + 2 ^ 47)
    s.passBad k0 (dPass + 2 ^ 47) = true ∧ (run (.pass k0 0x1000) s).get F.CORE_ARRAY_STATUS_code (coreU k0) = 9 ∧
    (run (.pass k0 0x1000) s).get F.CLU_SEQ_STATUS_stop (cluU c0) = 2 ∧
    ((run (.pass k0 0x1000) s).clu c0).heldItem = some (.pass k0 0x1000) ∧
    arr.passBad k0 (dPass + 256 * 2 ^ 16) = true := by decide +kernel
theorem test_wavefront : (arrRun.nextWave k0 0).map (fun p => p.2.2) = some 0 ∧ arrFed.cluGo c0 = true ∧
    ((arrFed.core k0).runs.map (fun r => (r.next, r.failed))) = [(1, [])] := by decide +kernel
theorem test_wavefront_upset : ((arrUpset.core k0).runs.map (fun r => (r.next, r.failed))) = [(1, [0])] := by decide +kernel
theorem test_residue_retry : (arrUpset.failedRun k0 0).isSome = true ∧
    let t := run (.residueRetry k0 0 [] []) arrUpset
    ((t.core k0).runs.map (fun r => r.failed)) = [[]] ∧ t.get F.CORE_ARRAY_STATUS_code (coreU k0) = 6 ∧
    t.get F.CORE_RESIDUE_CNT_transient (coreU k0) = 1 ∧ t.get F.HUB_FLT_STATUS_code 0 = 1 := by decide +kernel
/-- INT4 operands fit one digit, whatever the memory holds. -/
theorem int4_fits (rd : Nat → Nat → List Byte) (i T : Nat) (depth : Nat) (h : depth ≤ 32) :
    blockFits 1 (enterBlock 0 .int4 (operandBlock .int4 rd i depth) 1 T).1 := by
  have hq : (enterBlock 0 .int4 (operandBlock .int4 rd i depth) 1 T).1.q = (List.range depth).map (fun j =>
      nibbleAt (rd (i * Fmt.int4.rowBytes) Fmt.int4.rowBytes) j) := by
    simp only [enterBlock, operandBlock, decodeRun, alignInt, Fmt.isFloat, Fmt.isBlock]
    simp only [bne_self_eq_false, Bool.false_eq_true, if_false, List.map_map]
    refine List.map_congr_left fun a _ => ?_
    simp only [Function.comp]
    by_cases h0 : nibbleAt (rd (i * Fmt.int4.rowBytes) Fmt.int4.rowBytes) a = 0 <;> simp [h0, decodeAt, codeElem, codeAt]
  constructor
  · simp [hq, h]
  · intro v hv
    rw [hq] at hv
    obtain ⟨j, -, rfl⟩ := List.mem_map.1 hv
    unfold nibbleAt sext
    split <;> omega
/-- A pass of INT4 activations fits a core of one digit when its loaded columns do. -/
theorem runFits_int4 (s : State) (c : CoreId) (r : PassRun) (hm : s.coreMode c = 0) (hf : desc.strmFmt r.desc = 6)
    (hc : ∀ p ∈ r.cols, blockFits 1 p.blk) : s.runFits c r := by
  refine ⟨by rw [hm]; exact hc, fun m n => ?_⟩
  rw [hm]
  unfold State.strmBlock
  rw [show ({ s with mem := m } : State).coreMode c = 0 from hm, hf]
  exact int4_fits _ n _ _ (by unfold desc.depth bits; omega)
theorem test_runs_fit : ∀ r ∈ arrUpset.failedRuns k0 0, arrUpset.runFits k0 r := by
  have h : ∀ r ∈ arrUpset.failedRuns k0 0, desc.strmFmt r.desc = 6 ∧ ∀ p ∈ r.cols, p.blk.q.length ≤ 32 ∧ ∀ v ∈ p.blk.q, -8 ≤ v ∧ v < 8 := by
    decide +kernel
  exact fun r hr => runFits_int4 _ _ r (by decide +kernel) (h r hr).1 (h r hr).2
theorem test_residue_lasting : let t := run (.residueRetry k0 0 [(0, 0, 1)] []) arrUpset
    t.get F.CORE_ARRAY_STATUS_code (coreU k0) = 7 ∧ t.get F.CLU_SEQ_STATUS_stop (cluU c0) = 3 := by decide +kernel
theorem test_pass_complete : (arrFed.completeRun k0 0).isSome = true ∧ (arrDone.core k0).runs = [] ∧
    ((arrDone.core k0).done.map (fun d => d.cols)) = [[0]] ∧ (arrDone.clu c0).last = arrFed.ns ∧
    arrDone.ld (arrDone.wideAt k0 0 0) 16 ≠ 0 := by decide +kernel
theorem test_cluster_exc : let s := (((base.put F.CORE_EXC_STATUS_valid (coreU k0) 1).put F.CORE_EXC_STATUS_valid (coreU k0 + 3) 1).put
      F.CORE_EXC_TIME_time (coreU k0) 7).put F.CORE_EXC_TIME_time (coreU k0 + 3) 5 |>.put F.CORE_EXC_ROW_row (coreU k0 + 3) 9
    s.get F.CLU_EXC_STATUS_valid (cluU c0) = 0 ∧
    (run (.clusterExcMerge c0) s).get F.CLU_EXC_STATUS_core (cluU c0) = 3 ∧
    (run (.clusterExcMerge c0) s).get F.CLU_EXC_ROW_row (cluU c0) = 9 ∧
    run (.clusterExcMerge c0) (run (.clusterExcMerge c0) s) = run (.clusterExcMerge c0) s := by decide +kernel
theorem test_die_exc : let s := ((base.put F.CLU_EXC_STATUS_valid 4 1).put F.CLU_EXC_TENSOR_tensor 4 77)
    (run (.excRecordMerge (some 0)) s).get F.STA_DIE_EXC_STATUS_cluster 0 = 4 ∧
    (run (.excRecordMerge (some 0)) s).get F.STA_DIE_EXC_TENSOR_tensor 0 = 77 ∧
    run (.excRecordMerge (some 0)) (run (.excRecordMerge (some 0)) s) = run (.excRecordMerge (some 0)) s ∧
    run (.excRecordMerge none) (s.put F.STA_MOD_EXC_STATUS_valid 0 1) = s.put F.STA_MOD_EXC_STATUS_valid 0 1 := by decide +kernel
theorem test_module_exc : let s := ((base.put F.STA_DIE_EXC_STATUS_valid 4 1).put F.STA_DIE_EXC_TENSOR_tensor 4 77).put F.STA_DIE_EXC_STATUS_cluster 4 9
    bit (s.get F.TRC_TRIG_CFG_en 0) 3 = false ∧ s.get F.STA_MOD_EXC_STATUS_irq_en 0 = 0 ∧ s.get F.STA_MOD_EXC_STATUS_valid 0 = 0 ∧
    let t := run (.excRecordMerge none) s
    t.get F.STA_MOD_EXC_STATUS_die 0 = 4 ∧ t.get F.STA_MOD_EXC_STATUS_cluster 0 = 9 ∧ t.get F.STA_MOD_EXC_TENSOR_tensor 0 = 77 ∧
    t.get F.STA_MOD_EXC_STATUS_seq 0 = 1 := by decide +kernel
theorem test_cells : -(2 ^ (4 * 2 - 1) : Int) ≤ -128 ∧ digitsVal (digits 2 (-128)) = -128 ∧ digitsVal (digits 2 127) = 127 ∧
    digits 2 (-128) = [{ d := 0 }, { d := 8, top := true }] ∧ combined 2 1 [-128, 127] [-8, 7] = 1913 ∧
    linkAdd 2 127 (-128) = -1 ∧ linkSub 2 (-128) 127 = -255 := by decide +kernel
theorem test_convert_fp32 : arrDone.finRecs k0 1 ≠ [] ∧ arrDone.outFmt k0 = some .fp32 ∧ Fmt.fp32.needsScale = false ∧
    let t := run (.outputConversion k0 1 (BitVec.ofNat 64 (poolAt c0 0x2000))) arrDone
    (t.core k0).done = [] ∧ t.ld (poolAt c0 0x2000) 4 = 0x41700000 := by decide +kernel
theorem test_scan_maximum : (run (.scanMaximumMerge 1) arrDone).tensor 1 =
    { arrDone.tensor 1 with max := ((run (.scanMaximumMerge 1) arrDone).tensor 1).max, maxReady := true
                            ranges := ((run (.scanMaximumMerge 1) arrDone).tensor 1).ranges } ∧
    (((run (.scanMaximumMerge 1) arrDone).tensor 1).max.map (fun q => q.log2)) = some 3 ∧ ((run (.scanMaximumMerge 1) arrDone).tensor 1).ranges.length = 1 := by decide +kernel
theorem test_scout_estimate : base.live = true ∧ (base.tensor 1).untrusted = false ∧
    ((run (.scoutEstimateMerge 1) base).tensor 1).estReady = true := by decide +kernel
/-- Tensor 1 has a strict scale entry under lookback with budget elements / 4. -/
def scaled (n sats : Nat) : State :=
  ((arr.put F.CLU_SCALE_CFG_entries (cluU c0) 1).put F.CLU_SCALE_CFG_base (cluU c0) 2).st (poolAt c0 0x2000) 8
    ((1 + 2 ^ 16) * 2 ^ 32 + 2 * 2 ^ 16 + 2 ^ 23 + 127 * 2 ^ 24)
    |>.setTensor 1 { written := n, sats := sats, pol := 0 }
/-- The finished pass of tensor 1 under a scale entry, strict when b = 1, for E4M3 outputs under a policy. -/
def outS (b policy : Nat) : State :=
  (((arrDone.put F.CLU_SCALE_CFG_entries (cluU c0) 1).put F.CLU_SCALE_CFG_base (cluU c0) 2).st (poolAt c0 0x2000) 8
    ((1 + 2 ^ 16) * 2 ^ 32 + 2 * 2 ^ 16 + b * 2 ^ 23 + 127 * 2 ^ 24)).puts (coreU k0) [(F.CORE_OUTCONV_fmt, 3), (F.CORE_OUTCONV_policy, policy)]
def outDst : BitVec 64 := BitVec.ofNat 64 (poolAt c0 0x3000)
theorem test_convert_scaled : (outS 0 0).finRecs k0 1 ≠ [] ∧ (outS 0 0).outFmt k0 = some .e4m3 ∧ (outS 0 0).scaleThere k0 1 .e4m3 ∧
    (outS 0 0).strictOn c0 1 = false ∧ ((run (.outputConversion k0 1 outDst) (outS 0 0)).core k0).done = [] := by
  unfold State.scaleThere; decide +kernel
theorem test_convert_strict : (outS 1 0).scaleThere k0 1 .e4m3 ∧ (outS 1 0).strictOn c0 1 = true ∧ ((outS 1 0).tensor 1).reconv = false ∧
    let t := run (.outputConversion k0 1 outDst) (outS 1 0)
    (t.core k0).done.map (fun q => q.dst) = [some outDst.toNat] ∧ ∀ r ∈ (outS 1 0).convRecs k0 1 outDst.toNat, r.slot * 32 + r.entry ∈ (t.core k0).held := by
  unfold State.scaleThere; decide +kernel
theorem test_convert_waits : ¬(outS 0 1).scaleThere k0 1 .e4m3 ∧ let t := run (.outputConversion k0 1 outDst) (outS 0 1)
    t.cores = (outS 0 1).cores ∧ (slFind t.waits (scaleWait k0 1)).map (fun x => x.what) = some 3 := by
  unfold State.scaleThere; decide +kernel
theorem test_pass_waits : let s := arr.setCore k0 { arr.core k0 with held := [0] }
    s.passCheck k0 dPass = none ∧ s.heldWait k0 dPass = true ∧
    (slFind (run (.pass k0 0x1000) s).waits (cluWaiter c0 0)).isSome = true ∧ (run (.pass k0 0x1000) s).cores = s.cores := by decide +kernel
theorem test_verdict_budget : (scaled 8 2).live = true ∧ ((scaled 8 2).tensor 1).verdict = none ∧
    ((scaled 8 2).clusWithScale 1).head? = some c0 ∧ ((scaled 8 2).sclFind c0 1) = some (poolAt c0 0x2000) ∧
    ((run (.saturationVerdict 1) (scaled 8 2)).tensor 1).verdict = some false ∧
    ((run (.saturationVerdict 1) (scaled 8 2)).tensor 1).reconv = false ∧
    ((run (.saturationVerdict 1) (scaled 8 3)).tensor 1).verdict = some true ∧
    ((run (.saturationVerdict 1) (scaled 8 3)).tensor 1).reconv = true := by decide +kernel
theorem test_statistics_merge : c0 ∈ arr.allClus ∧ arr.staFind c0 1 = some (poolAt c0 0) ∧
    slGet [] (run (.statisticsMerge 1) arr).sums 1 = arr.ldBytes (poolAt c0 0) 512 := by decide +kernel
/-- Cluster 0 has the range descriptor of tensor 1 at pool offset 0x3000; `q`: its call has been queued in this lap. -/
def ranged (q : Bool) : State :=
  ((((scaled 8 2).put F.SCT_CFG_entries (cluU c0) 1).put F.SCT_CFG_base (cluU c0) 3).st (poolAt c0 0x3000) 4 (1 + 3 * 2 ^ 16)).setClu c0
    { (scaled 8 2).clu c0 with ranged := if q then [1] else [] }
theorem test_estimates_pending : (ranged false).estPending c0 1 = true ∧ (ranged false).clusWithScale 1 = [c0] ∧
    run (.scoutEstimateMerge 1) (ranged false) = ranged false ∧ (ranged true).estPending c0 1 = false ∧
    ((run (.scoutEstimateMerge 1) (ranged true)).tensor 1).estReady = true := by decide +kernel
theorem test_array_quiet : arr.sramQuiet ∧ arr.hbmQuiet := ⟨(quiet_of (by decide +kernel) (by decide +kernel) (by decide +kernel)).2,
  (quiet_of (by decide +kernel) (by decide +kernel) (by decide +kernel)).1⟩
/-- Layer 0 of cluster 0 delivers mode word m. -/
def hurd (m : Nat) : State :=
  ((base.put F.GOV_CFG_layers (cluU c0) 1).put F.CLU_MODE_ALLOW_mac_allow (cluU c0) 0x1FFFFFF).setLay c0 0 (m * 2 ^ 288)
theorem test_hurdle_adopts : (hurd 0x02440000).cluGo c0 = true ∧ ((hurd 0x02440000).clu c0).kernel = none ∧
    (hurd 0x02440000).wordCheck c0 ((hurd 0x02440000).delivered c0 0) = none ∧
    (run (.hurdle c0 0) (hurd 0x02440000)).rd R.CORE_MODE (coreU k0) = 0x02440000 ∧
    ((run (.hurdle c0 0) (hurd 0x02440000)).clu c0).hurdles = 1 := by decide +kernel
theorem test_hurdle_refuses : (hurd 0x60000000).wordCheck c0 ((hurd 0x60000000).delivered c0 0) = some 1 ∧
    (run (.hurdle c0 0) (hurd 0x60000000)).get F.CORE_ARRAY_STATUS_code (coreU k0) = 1 ∧
    (run (.hurdle c0 0) (hurd 0x60000000)).rd R.CORE_MODE (coreU k0) = 0 ∧
    (run (.hurdle c0 0) (hurd 0x60000000)).get F.CLU_SEQ_STATUS_stop (cluU c0) = 1 := by decide +kernel

/-! ### The lap (StartHurdleSamples, SlotsAndFeed, ReductionRuns, GateVotes, VerdictOutcomes, OptimizerAndCommit,
WaitResumeAbandon) -/

/-- A lap boundary at 5,000 ns has come, and a lap index is strobed. -/
def due5 : State :=
  (({ base with lap := { lamSet := true, lam := 3, pi := 8 }, pacer := { base.pacer with lapDue := some 5000, time := 256 * 6000 } }.wr
    R.GRP_LAP_INDEX_LO 0 7).wr R.GRP_LAP_SEED_LO 0 99)
theorem test_start_hurdle : due5.startMay = true ∧ due5.pacer.lapDue = some 5000 ∧ due5.flt.rowsDue = [] ∧ due5.img.waiting = none ∧ due5.snp.due = none ∧
    due5.snp.late = [] ∧ let t := run (.startHurdle []) due5
    t.lap.step = 1 ∧ t.lap.b = 5000 ∧ t.lap.seed = 99 ∧ t.lap.lam = 7 ∧ t.lap.pi = 8 ∧ t.pacer.lapDue = none := by decide +kernel
/-- The lap is at a step, its boundary at 5,000 ns, the time 6,000 ns. -/
def atStep (k : Nat) : State :=
  { base with lap := { step := k, b := 5000, pi := 8, lam := 3 }, pacer := { base.pacer with time := 256 * 6000 } }
theorem test_heat_slot : phaseStep 1 (atStep 1).lap.step = some 2 ∧ (atStep 1).slotMay c0 1 = true ∧
    (atStep 1).heatEarly c0 1 = false ∧ (atStep 1).heatWaits c0 1 = false ∧
    let t := run (.heatSlot c0 ⟨1, false⟩ 1 2) (atStep 1)
    t.lap.step = 2 ∧ (t.clu c0).slot = some (6000, 8000) ∧ (t.clu c0).fwd = 1 ∧ t.get F.CLU_SEQ_STATUS_phase (cluU c0) = 1 := by
  decide +kernel
theorem test_heat_slot_rejected : let s := { atStep 2 with lap := { (atStep 2).lap with rejected := [0] } }
    let b := s.setClu c0 { fwd := 1 }
    s.slotMay c0 1 = true ∧ s.heatEarly c0 1 = false ∧ s.heatWaits c0 1 = false ∧
    ((run (.heatSlot c0 ⟨1, false⟩ 1 2) s).clu c0).emptyHeat = true ∧ ((run (.heatSlot c0 ⟨1, true⟩ 1 2) (atStep 2)).clu c0).emptyHeat = true ∧
    b.slotMay c0 1 = true ∧ b.heatEarly c0 2 = false ∧ ((run (.heatSlot c0 ⟨2, false⟩ 1 2) b).clu c0).bwd = 1 ∧
    (run (.heatSlot c0 ⟨2, false⟩ 1 2) s) = s ∧ (run (.heatSlot c0 ⟨1, false⟩ 2 2) s) = s := by decide +kernel
/-- This module is the first of the two stages of group 1, and its feed has taken no descriptor. -/
def stage0 : State := { ((atStep 1).stH 0x4C 2 0).stH 0x48 4 2 with gates := some (0, 1) }
theorem test_heat_slot_waits : phaseStep 1 stage0.lap.step = some 2 ∧ stage0.slotMay c0 1 = true ∧ stage0.heatWaits c0 1 = true ∧
    ((slFind (run (.heatSlot c0 ⟨1, false⟩ 1 2) stage0).waits (cluWaiter c0 0)).map (fun w => w.what)) = some 2 := by decide +kernel
/-- Heat 0's descriptor at HBM address 64 * 8: one token, position table at 0x4000. -/
def feed (n flags p : Nat) : State :=
  (((({ stage0 with lap := { stage0.lap with feedBase := 0 } }.stH 512 8 8).stH 520 4 n).stH 524 4 flags).stH 536 8 0x4000).stH 0x4000 4 p
theorem test_feed_takes : (feed 1 1 5).live = true ∧ (feed 1 1 5).feeds = true ∧ (atStep 1).feeds = false ∧ (feed 1 1 5).lap.step = 1 ∧ (feed 1 1 5).ldH 524 4 % 2 = 1 ∧ (feed 1 1 5).ldH 512 8 = 8 ∧
    (run .feedDescriptorTake (feed 1 1 5)).lap.staged = [(0, 1, 0, 0x4000)] ∧ (feed 1 1 5).heatAt 0 = 512 ∧ (feed 1 1 5).heatBad 512 = false ∧
    (run .feedDescriptorTake (feed 1 1 5)).lap.heatsTaken = 1 ∧ (run .feedDescriptorTake (feed 1 1 5)).lap.rejected = [] := by
  decide +kernel
theorem test_feed_rejects : (feed 1 1 (2 ^ 20)).heatBad 512 = true ∧ (run .feedDescriptorTake (feed 1 1 (2 ^ 20))).lap.rejected = [0] ∧
    (run .feedDescriptorTake (feed 1 1 (2 ^ 20))).get F.GRP_LAP_STATUS_code 0 = 3 ∧ (feed 1 3 5).heatBad 512 = true := by decide +kernel
theorem test_feed_waits : (feed 1 0 5).ldH 524 4 % 2 ≠ 1 ∧ (feed 1 0 5).lap.feedEmptySaid = false ∧ (run .feedDescriptorTake (feed 1 0 5)).lap.heatsTaken = 0 ∧
    (run .feedDescriptorTake (feed 1 0 5)).get F.GRP_LAP_STATUS_code 0 = 5 ∧
    (run .feedDescriptorTake (run .feedDescriptorTake (feed 1 0 5))).get F.GRP_LAP_STATUS_seq 0 = 1 := by decide +kernel

/-- Group 1 of ranks 0 and 1, this module (bib 5) rank `self`, epoch 2, wait_us 9; the other member has bib 6. -/
def grp1 (s : State) (self : Nat) : State :=
  ((((((((s.put F.HUB_ID_BIB_bib 0 5).stH 0x40 4 2).stH 0x48 4 2).stH 0x4C 2 self).stH 0x4E 2 0x0102).stH 0x50 8 0x1000).stH 0x6C 4 9).stH
    (0x1000 + 16 * self) 4 5).stH (0x1000 + 16 * (1 - self)) 8 (6 + 2 ^ 32)
/-- A step list of one U32_MAX of two words, from 0x3000 to 0x3800. -/
def redS (self : Nat) : State :=
  grp1 (({ atStep 3 with lap := { (atStep 3).lap with list := 0x2000 } }.stH 0x2000 32
    (0x3800 * 2 ^ 128 + 0x3000 * 2 ^ 64 + 2 * 2 ^ 32 + 2 ^ 16 + 2 ^ 8 + 4)).stH 0x3000 8 (7 + 3 * 2 ^ 32)) self
theorem test_reduction_hurdle : (redS 1).live = true ∧ (redS 1).lap.step = 3 ∧ (redS 1).red.phase = 0 ∧ (redS 1).backwardDone = true ∧ ((redS 1).segRead 0 0).isSome = true ∧
    let t := run .reductionHurdle (redS 1)
    t.lap.step = 4 ∧ t.red.phase = 1 ∧ t.red.segs.head? = (redS 1).segRead 0 0 ∧ t.get F.GRP_RED_STATE_running 0 = 1 := by decide +kernel
theorem test_reduction_stops : let s := (redS 1).stH 0x2000 1 12
    s.live = true ∧ s.lap.step = 3 ∧ s.red.phase = 0 ∧ s.backwardDone = true ∧ s.segRead 0 0 = none ∧ (run .reductionHurdle s).red.stop = some 0 ∧ (run .reductionHurdle s).get F.GRP_STATUS_code 0 = 6 := by
  decide +kernel
def redL (self : Nat) : State := run .reductionHurdle (redS self)
theorem test_segment_waits : (redL 0).live = true ∧ (redL 0).red.phase = 1 ∧ ((redL 0).red.segs.map (fun k => (k.up, k.group))) = [(false, 1)] ∧
    slFind (redL 0).waits (redWaiter 1 0) = none ∧ (redL 0).segWindow = [0] ∧ ((redL 0).red.segs.map (fun k => (redL 0).segMissing k 0)) = [[1]] ∧
    (run (.segmentCombine 0) (redL 0)).red = (redL 0).red ∧
    (slFind (run (.segmentCombine 0) (redL 0)).waits (redWaiter 1 0)).isSome = true := by decide +kernel
theorem test_segment_combines : (redL 1).live = true ∧ (redL 1).red.phase = 1 ∧ ((redL 1).red.segs.map (fun k => k.up)) = [false] ∧ (redL 1).segWindow = [0] ∧ ((redL 1).red.segs.map (fun k => (redL 1).segMissing k 0)) = [[]] ∧
    ((run (.segmentCombine 0) (redL 1)).red.segs.map (fun k => k.up)) = [true] := by decide +kernel
theorem test_segment_root : let i : RedIn := { group := 1, seg := 0, rank := 1, elem0 := 0, data := toBytes 8 (9 + 2 ^ 32) }
    let s := { redL 0 with red := { (redL 0).red with inp := [i] } }
    (run (.segmentCombine 0) s).ldH 0x3800 8 = 9 + 3 * 2 ^ 32 := by decide +kernel
theorem test_reduction_late : (redL 0).segWindow[0]? = some 0 ∧ ((redL 0).red.segs[0]?.map (fun k => (k.group, (redL 0).segMissing k 0))) = some (1, [1]) ∧ (redL 0).red.late = false ∧ (redL 0).grpF 1 44 4 ≠ 0 ∧
    (run (.reductionLate 0 1) (redL 0)).red = { (redL 0).red with late := true } ∧
    (run (.reductionLate 0 1) (redL 0)).get F.GRP_STATUS_code 0 = 4 := by decide +kernel
/-- The first gate step has its result. -/
def gated : State :=
  { grp1 (atStep 4) 0 with gates := some (1, 1), lap := { (atStep 4).lap with gate1 := List.replicate 80 1, limit := 1 } }
theorem test_gate_hurdle : gated.lap.step = 4 ∧ 1 ∉ gated.mbr.noVote ∧ gated.allClus = [c0] ∧ gated.lap.gate1 ≠ [] ∧ gated.lap.voted = false ∧
    gated.red.phase = 0 ∧ gated.cluGo c0 = true ∧ gated.gates = some (1, 1) ∧
    let t := run (.gateHurdle c0) gated
    (t.clu c0).atGate = true ∧ t.lap.voted = true ∧ t.lap.step = 5 ∧ t.red.phase = 3 ∧
    t.get F.CLU_SEQ_STATUS_phase (cluU c0) = 4 := by decide +kernel
theorem test_gate_limit : gated.live = true ∧ gated.lap.voted = false ∧ gated.lap.joined = false ∧ gated.lap.limit ≠ 0 ∧
    bit gated.lap.reasons 5 = false ∧ gated.lap.b + 1000 * gated.lap.limit ≤ gated.ns ∧ gated.lap.gate1 ≠ [] ∧
    bit (run .gateLimit gated).lap.reasons 5 = true ∧ ((run .gateLimit gated).clu c0).abandoned = true := by decide +kernel
/-- The second gate step's result: reasons r, policy w, time 6,000, tail 2 us. -/
def judged (r w : Nat) : State :=
  let cfg := toBytes 16 0 ++ toBytes 4 w ++ toBytes 4 0x3F800000 ++ toBytes 4 0 ++ toBytes 4 2
  let w := toBytes 1 r ++ [0, 0, 0] ++ toBytes 4 0 ++ toBytes 8 6000 ++ cfg ++ cfg.map (fun b => ~~~b)
  { atStep 5 with lap := { (atStep 5).lap with gate2 := w, heatsTaken := 2 } }
theorem test_verdict_commit : (judged 0 0).live = true ∧ (judged 0 0).lap.step = 5 ∧ (judged 0 0).lap.gate2 ≠ [] ∧ verdictReasons (judged 0 0).lap.gate2 = 0 ∧
    let t := run .verdict (judged 0 0)
    t.get F.GRP_LAP_VERDICT_outcome 0 = 0 ∧ t.lap.step = 6 ∧ t.lap.gscale = 0x3F800000 ∧
    t.get64 R.PCR_SPT_CMP_LO R.PCR_SPT_CMP_HI 0 = 8000 ∧ t.get F.PCR_SPT_CTRL_arm 0 = 1 := by decide +kernel
theorem test_verdict_replay : verdictOutcome 1 0 0 = 1 ∧ (run .verdict (judged 1 0)).lap.step = 0 ∧
    (run .verdict (judged 1 0)).lap.replay = true ∧ (run .verdict (judged 4 1)).get F.GRP_LAP_VERDICT_outcome 0 = 1 ∧
    (run .verdict (judged 1 0)).lap.lam = 3 := by decide +kernel
theorem test_verdict_skip : (run .verdict (judged 1 1)).get F.GRP_LAP_VERDICT_outcome 0 = 2 ∧ (run .verdict (judged 1 1)).lap.lam = 4 ∧
    (run .verdict (judged 1 1)).lap.pi = 10 ∧ (run .verdict (judged 1 1)).get F.GRP_LAP_VERDICT_reasons 0 = 1 := by decide +kernel
/-- An update plan of one element; master 2.0, gradient 1.0; the descriptor has learning rate 0.5. -/
def plan1 : OptPlan :=
  { grad := 0x100, p0 := 0x200, p1 := 0x300, m0 := 0x400, m1 := 0x500, v0 := 0x600, v1 := 0x700, tp := 1, tm := 2, tv := 3, count := 1,
    cols := 1, first := 0, bufG := 0x8000, bufP := 0x8100, bufM := 0x8200, bufV := 0x8300 }
def optS : State :=
  (({ atStep 6 with lap := { (atStep 6).lap with gscale := 0x3F800000 } }.stH 0x100 4 0x3F800000).stH 0x200 4 0x40000000).st
    (poolAt c0 4) 4 0x3F000000
/-- Whether a kernel's copy meets the conditions of the statement about OPTIMIZER. -/
theorem test_optimizer_copies : ∀ out m, m ∈ planMoves plan1 (optFmts 0) 0 false out → optS.moveOk m := by
  intro out; cases out <;> (unfold State.moveOk; decide +kernel)
theorem test_optimizer : optS.lap.step = 6 ∧ optS.get F.GRP_LAP_VERDICT_bank 0 = 0 ∧ optS.cluGo c0 = true ∧ optS.snapHolds = false ∧ optBad ((optS.st (poolAt c0 40) 4 0x3F800000).ldBytes (poolAt c0 0) 64) = false ∧
    (run (.optimizer c0 0 plan1) optS).ld 0x300 4 = 0x3FC00000 ∧ (run (.optimizer c0 0 plan1) optS).ld 0x500 4 = 0x3F800000 ∧
    (run (.optimizer c0 0 plan1) optS).ld 0x200 4 = 0x40000000 := by decide +kernel
theorem test_optimizer_reserved : let s := optS.st (poolAt c0 0) 1 2
    s.cluGo c0 = true ∧ s.lap.step = 6 ∧ s.snapHolds = false ∧ optBad ((s.st (poolAt c0 40) 4 0x3F800000).ldBytes (poolAt c0 0) 64) = true ∧
    (run (.optimizer c0 0 plan1) s).get F.CLU_SEQ_STATUS_stop (cluU c0) = 7 ∧ (run (.optimizer c0 0 plan1) s).ld 0x300 4 = 0 ∧
    (run (.optimizer c0 0 plan1) s).ld (poolAt c0 40) 4 = 0x3F800000 := by decide +kernel
def updated : State := { atStep 6 with lap := { (atStep 6).lap with optDone := true } }
theorem test_commit : updated.live = true ∧ updated.lap.lamSet = false ∧ updated.optOver = true ∧ run .commit (atStep 6) = atStep 6 ∧ let t := run .commit updated
    t.get F.GRP_LAP_VERDICT_bank 0 = 1 ∧ t.lap.lam = 4 ∧ t.lap.step = 7 := by decide +kernel
/-- Cluster 0 is due to copy its scale table of one entry to its mirror at HBM address 0x9000. -/
def mirrS : State :=
  (({ atStep 7 with img := { mirrors := [(0, 0x9000)] } }.setClu c0 { mirrorPend := true }).put F.CLU_SCALE_CFG_entries (cluU c0) 1).st
    (poolAt c0 0) 4 0x12345678
theorem test_mirror_copy : 7 ≤ mirrS.lap.step ∧ (mirrS.clu c0).mirrorPend = true ∧ mirrS.cluOn c0 = true ∧ mirrS.mirrorAt c0 = some 0x9000 ∧ mirrS.mirrorBytes c0 = toBytes 64 0x12345678 ∧
    (run (.clusterMirrorCopy c0) mirrS).ldH 0x9000 64 = 0x12345678 ∧ ((run (.clusterMirrorCopy c0) mirrS).clu c0).mirrorPend = false := by
  decide +kernel
theorem test_end_of_lap : (atStep 8).cluGo c0 = true ∧ (atStep 8).img.waiting = none ∧ ((run (.endOfLap c0) (atStep 8)).clu c0).ended = true ∧
    (run (.endOfLap c0) (atStep 8)).lap.step = 0 ∧
    (run (.endOfLap c0) { atStep 8 with flt := { (atStep 8).flt with cluMap := [(0, [0, 1])] } }).lap.step = 8 := by decide +kernel
theorem test_wait_item : base.cluGo c0 = true ∧ slFind base.waits (cluWaiter c0 0) = none ∧ base.waitMet c0 (.copyList 0) = false ∧ (base.setClu c0 { copiesDone := 1 }).waitMet c0 (.copyList 0) = true ∧
    ((slFind (run (.waitItem c0 (.copyList 0)) base).waits (cluWaiter c0 0)).map (fun w => w.what)) = some 8 ∧
    (run (.waitItem c0 (.copyList 0)) (base.setClu c0 { copiesDone := 1 })).waits = [] := by decide +kernel
theorem test_resume : let s := base.put F.CLU_SEQ_STATUS_stop (cluU c0) 8
    s.cluOn c0 = true ∧ (s.core k0).lastingPend = false ∧ (s.core (coreNo c0 1)).lastingPend = false ∧ (s.clu c0).heldItem = none ∧
    s.goodCores c0 = [k0, coreNo c0 1] ∧ (run (.cluSeqResume c0) s).get F.CLU_SEQ_STATUS_stop (cluU c0) = 0 ∧
    (run (.cluSeqResume c0) (s.setCore k0 { lastingPend := true })).get F.CLU_SEQ_STATUS_code (cluU c0) = 2 ∧
    (run (.cluSeqResume c0) (s.setCore k0 { lastingPend := true })).get F.CLU_SEQ_STATUS_stop (cluU c0) = 8 := by decide +kernel
theorem test_abandon : let t := run (.cluSeqAbandon c0) arrRun
    (t.clu c0).abandoned = true ∧ (t.clu c0).atGate = true ∧ t.get F.CLU_SEQ_STATUS_stop (cluU c0) = 9 ∧ (t.core k0).runs = [] := by
  decide +kernel

/-! ### Vector kernels (VecFloats, VecIntegers, VecPoolAccess, VecCrossLane, VecControlFlow) -/

/-- Lane 0 of v1, v2 and v3 holds a, b and c; the other lanes hold 0. -/
def vec (a b c : Word) : State := base.setClu c0 { vreg := [(64, a), (128, b), (192, c)] }
/-- v4 from v1, v2, v3, in every lane. -/
def ins (imm : Word) : VInst := { pred := 0, pneg := true, dst := 4, sa := 1, sb := 2, sc := 3, imm := imm }
/-- Lane 0 of v4 after a command. -/
def lane0 (i : Instr) (s : State) : Word := (run i s).laneW c0 4 0
/-- Bit 0 of the predicate register 4 after a command. -/
def pred0 (i : Instr) (s : State) : Bool := bit ((run i s).preg c0 4) 0

theorem test_vec_on : (vec 0 0 0).vecRuns c0 = true ∧ ((vec 0 0 0).setClu c0 { abandoned := true }).vecRuns c0 = false ∧ (vec 0 0 0).cluOn c0 = true ∧ (vec 0 0 0).laneOn c0 (ins 0) 63 = true := by decide +kernel
theorem test_fp_arith : let s := vec 0x3F800000 0x40000000 0x40400000
    lane0 (.vecAdd c0 (ins 0)) s = 0x40400000 ∧ lane0 (.vecSub c0 (ins 0)) s = 0xBF800000 ∧
    lane0 (.vecMul c0 (ins 0)) s = 0x40000000 ∧ lane0 (.vecFma c0 (ins 0)) s = 0x40A00000 ∧
    lane0 (.vecMin c0 (ins 0)) s = 0x3F800000 ∧ lane0 (.vecMax c0 (ins 0)) s = 0x40000000 ∧
    lane0 (.vecDiv c0 (ins 0)) s = 0x3F000000 := by decide +kernel
theorem test_fp_signs : let s := vec 0xC0000000 0x3F800000 0
    lane0 (.vecAbs c0 (ins 0)) s = 0x40000000 ∧ lane0 (.vecNeg c0 (ins 0)) s = 0x40000000 ∧
    lane0 (.vecCopysign c0 (ins 0)) s = 0x40000000 := by decide +kernel
theorem test_fp_select : (fSelect 0x3F800000 0x3F800000 0).v = 0x3F800000 ∧ (fSelect 0x7F800001 0x7F800001 0).v = 0x7FC00000 := by
  simp only [fSelect, ite_self]; decide +kernel
theorem test_fp_functions : lane0 (.vecSqrt c0 (ins 0)) (vec 0x40800000 0 0) = 0x40000000 ∧
    lane0 (.vecSqrt c0 (ins 0)) (vec 0xBF800000 0 0) = 0x7FC00000 ∧ lane0 (.vecRcp c0 (ins 0)) (vec 0x7FC00001 0 0) = 0x7FC00000 ∧
    lane0 (.vecRsqrt c0 (ins 0)) (vec 0x7F800000 0 0) = 0 ∧ lane0 (.vecExp2 c0 (ins 0)) (vec 0xFF800000 0 0) = 0 ∧
    lane0 (.vecLog2 c0 (ins 0)) (vec 0xBF800000 0 0) = 0x7FC00000 ∧ lane0 (.vecExp c0 (ins 0)) (vec 0x7F800000 0 0) = 0x7F800000 ∧
    lane0 (.vecLn c0 (ins 0)) (vec 0x7F800000 0 0) = 0x7F800000 ∧ lane0 (.vecTanh c0 (ins 0)) (vec 0xFF800000 0 0) = 0xBF800000 ∧
    lane0 (.vecSigmoid c0 (ins 0)) (vec 0x7F800000 0 0) = 0x3F800000 := by decide +kernel
theorem test_fp_events : let t := run (.vecAdd c0 (ins 0)) (vec 0x7F800000 0xFF800000 0)
    t.get F.CLU_VEC_EVENTS_invalid (cluU c0) = 1 ∧ t.laneW c0 4 0 = 0x7FC00000 ∧ (t.clu c0).ip = 1 ∧
    (run (.vecMul c0 (ins 0)) (vec 1 0 0)).get F.CLU_VEC_EVENTS_flush (cluU c0) = 1 := by decide +kernel
theorem test_nan_and_sub : isNaN32 0x7F800001 = true ∧ isNaN32 0x7F800000 = false ∧ isSub32 0x007FFFFF = true ∧ isSub32 0 = false := by
  decide +kernel
theorem test_int_arith : let s := vec 0xFFFFFFFF 3 0
    lane0 (.intAdd c0 (ins 0)) s = 2 ∧ lane0 (.intSub c0 (ins 0)) s = 0xFFFFFFFC ∧ lane0 (.intMulLow c0 (ins 0)) s = 0xFFFFFFFD ∧
    lane0 (.intAnd c0 (ins 0)) s = 3 ∧ lane0 (.intOr c0 (ins 0)) s = 0xFFFFFFFF ∧ lane0 (.intXor c0 (ins 0)) s = 0xFFFFFFFC ∧
    lane0 (.intPopcount c0 (ins 0)) s = 32 := by decide +kernel
theorem test_int_shift : let s := vec 0x80000000 31 0
    lane0 (.intShl c0 (ins 0)) (vec 3 31 0) = 0x80000000 ∧ lane0 (.intShr c0 (ins 0)) s = 1 ∧ lane0 (.intSar c0 (ins 0)) s = 0xFFFFFFFF := by
  decide +kernel
theorem test_moves : lane0 (.vecMoveImmediate c0 (ins 0xABCD)) (vec 0 0 0) = 0xABCD ∧
    lane0 (.vecShuffle c0 (ins 0)) (vec 5 64 0) = 5 ∧
    (run (.vecMoveImmediate c0 { ins 7 with pneg := false }) (vec 0 0 0)).laneW c0 4 0 = 0 := by decide +kernel
theorem test_compare : pred0 (.vecCompare c0 (ins 1)) (vec 0x3F800000 0x40000000 0) = true ∧
    pred0 (.vecCompare c0 (ins 6)) (vec 0x7FC00000 0 0) = true ∧ pred0 (.vecCompare c0 (ins 0)) (vec 0 0x80000000 0) = true ∧
    fRel 2 0x7FC00000 0 = false ∧ fRel 3 0 0x7FC00000 = true := by decide +kernel
theorem test_int_compare : pred0 (.intCompare c0 (ins 1)) (vec 0xFFFFFFFF 0 0) = true ∧
    pred0 (.intCompare c0 (ins 6)) (vec 0xFFFFFFFF 0 0) = false ∧ pred0 (.intCompare c0 (ins 3)) (vec 1 0 0) = true ∧
    pred0 (.intCompare c0 (ins 7)) (vec 0 0 0) = true := by decide +kernel
theorem test_predicates : let s := base.setClu c0 { preg := [(1, 1), (2, 0)] }
    pred0 (.predAnd c0 (ins 0)) s = false ∧ pred0 (.predOr c0 (ins 0)) s = true ∧ pred0 (.predNot c0 (ins 0)) s = false ∧
    pred0 (.predNot c0 { ins 0 with sa := 2 }) s = true := by decide +kernel
/-- v1 holds the pool offset o in every lane, v2 the values l + 1. -/
def vecPool (o : Nat) : State :=
  base.setClu c0 { vreg := (List.range 64).map (fun l => (64 + l, BitVec.ofNat 32 (o + 4 * l))) ++
    (List.range 64).map (fun l => (128 + l, BitVec.ofNat 32 (l + 1))) }
theorem test_store_load : let s := vecPool 0x100
    (run (.vecStore c0 (ins 0)) s).ld (poolAt c0 0x1FC) 4 = 64 ∧ (run (.vecScatter c0 (ins 4)) s).ld (poolAt c0 0x104) 4 = 1 ∧
    lane0 (.vecLoad c0 (ins 0)) (s.st (poolAt c0 0x100) 4 9) = 9 ∧ lane0 (.vecGather c0 (ins 4)) (s.st (poolAt c0 0x104) 4 9) = 9 := by
  decide +kernel
theorem test_pool_edge : (run (.vecStore c0 (ins 0)) (vecPool (2 ^ 22 - 256))).ld (poolAt c0 (2 ^ 22 - 4)) 4 = 64 ∧
    let s := vecPool (2 ^ 22 - 256)
    let t := run (.vecStore c0 (ins 4)) s
    t.mem = [] ∧ (t.clu c0).stopNext = true ∧ (s.clu c0).stopNext = false ∧
    ((run (.vecGather c0 (ins 4)) s).clu c0).stopNext = true ∧ ((run (.vecGather c0 (ins 4)) s).clu c0).vreg = (s.clu c0).vreg ∧
    ((run (.vecLoad c0 (ins 0xFFFFFFFC)) (vecPool 4)).clu c0).stopNext = false := by decide +kernel
theorem test_cross_lane : let s := vec 0x3F800000 0 0
    lane0 (.vecTreeReduction c0 (ins 0)) s = 0x3F800000 ∧ lane0 (.vecTreeReduction c0 (ins 2)) (vec 0xBF800000 0 0) = 0xBF800000 ∧
    (run (.vecScan c0 (ins 0)) s).laneW c0 4 63 = 0x3F800000 ∧ lane0 (.vecScan c0 (ins 0)) (vec 1 0 0) = 0 := by decide +kernel
theorem test_sort_order : let l := sorted false ((List.range 64).map (fun k => ((vec 0x3F800000 0 0).vreg c0 1 k, k)))
    l.head? = some (0, 1) ∧ l.getLast? = some (0x3F800000, 0) ∧ sortKey false 0x80000000 = 0 ∧ sortKey false 0xBF800000 < 0 := by decide +kernel
theorem test_reserved_forms : ((run (.vecTreeReduction c0 (ins 3)) (vec 0 0 0)).clu c0).stopNext = true ∧
    cvReserved 0x0A = true ∧ ((run (.vecConvert c0 (ins 0x0A)) (vec 0 0 0)).clu c0).stopNext = true := by decide +kernel
theorem test_convert : cvReserved 0x10 = false ∧ cv.tensor 0x10 = none ∧ cv.round 0x10 = 0 ∧ cv.dst 0x10 = some .bf16 ∧
    lane0 (.vecConvert c0 (ins 0x10)) (vec 0x3FC00000 0 0) = 0x3FC0 := by decide +kernel
theorem test_draw : let t := run (.vecDraw c0 { ins 0 with pneg := false }) (vec 0 0 0)
    ((t.clu c0).lane 0) = ((vec 0 0 0).clu c0).lane 0 ∧ (t.clu c0).ip = 1 := by decide +kernel
theorem test_draw_takes : let s := (vec 0 0 0).setClu c0 (({ preg := [(0, 1)] } : Cluster).setLane 0 { n := 1, q := [77] })
    let t := run (.vecDraw c0 { ins 0 with pneg := false }) s
    t.laneW c0 4 0 = 77 ∧ ((t.clu c0).lane 0).consumed = 1 := by decide +kernel
theorem test_branches : ((run (.vecJump c0 (ins 0xFFFFFFFF)) base).clu c0).ip = -1 ∧
    ((run (.branchAny c0 (ins 5)) base).clu c0).ip = 1 ∧ ((run (.branchNone c0 (ins 5)) base).clu c0).ip = 5 ∧
    ((run (.branchAny c0 (ins 5)) (base.setClu c0 { preg := [(0, 1)] })).clu c0).ip = 5 := by decide +kernel
theorem test_end_of_kernel : let s := base.setClu c0 { kernel := some { off := 0, count := 2 } }
    ((run (.endOfKernel c0 (ins 0)) s).clu c0).kernel = none ∧ vecOp 0x15 = none ∧
    ((run (.vecReservedOpcode c0 0x15) s).clu c0).kernel = none ∧
    ((run (.vecReservedOpcode c0 0x15) s).clu c0).stopNext = true := by decide +kernel
theorem test_kernel : (base.clu c0).kernel = none ∧ base.cluGo c0 = true ∧ (base.clu c0).emptyHeat = false ∧
    let s := base.st (poolAt c0 0x100) 8 (0x14 * 2 ^ 56 + 2 ^ 52 + 4 * 2 ^ 47 + 42)
    ((run (.kernel c0 0x100 1 0) s).clu c0).kernel = some { off := 0x100, count := 1 } ∧
    ((run (.kernel c0 0x100 1 2) s).clu c0).kernel = none ∧ (run (.kernel c0 0x100 1 2) s).laneW c0 4 63 = 42 := by decide +kernel
theorem test_prefetch : let s := base.setClu c0 (({} : Cluster).setLane 0 { n := 4, q := [1, 2, 3, 4] })
    ((run (.generatorPrefetch c0 0) s).clu c0).lane 0 = { n := 4, q := [1, 2, 3, 4] } ∧
    (((run (.generatorPrefetch c0 1) s).clu c0).lane 1).q.length = 1 := by decide +kernel

/-! ### Scout calls and copy engines (ScoutCalls, CopyQueues, CopyMovesElements, HbmRecalibration) -/

/-- A call of operation k with generators 0 and g, one row, one column, one block; results at pool offset 0x2000. -/
def dCall (k g : Nat) : Nat := g * 2 ^ 40 + k * 2 ^ 16 + 0x100 * 2 ^ 98
/-- The call stands at pool offset 0x100 and at the head of the queue. -/
def callS (d : Nat) (x : Bool) : State :=
  (base.setClu c0 { calls := [{ off := 0x100, range := sct.op d == 3, executed := x, untrusted := x }] }).st (poolAt c0 0x100) 64 d

theorem test_call_queued : ((run (.sctCall c0 4) base).clu c0).calls = [{ off := 256, range := false }] ∧
    ((run (.scoutCallItem c0 64) base).clu c0).calls = [{ off := 64, range := false }] ∧ base.cluGo c0 = true ∧
    let s := base.setClu c0 { calls := List.replicate 8 { off := 0, range := false } }
    (run (.sctCall c0 4) s).get F.SCT_STATUS_code (cluU c0) = 2 ∧ (run (.sctCall c0 4) s).clus = s.clus ∧
    (run (.scoutCallItem c0 4) s).get F.SCT_STATUS_code (cluU c0) = 2 := by decide +kernel
theorem test_scout_estimate_call : sctReserved (dCall 0 1) = false ∧ (callS (dCall 0 1) false).sctCorr c0 (dCall 0 1) = false ∧
    let t := run (.scoutEstimate c0) (callS (dCall 0 1) false)
    ((t.clu c0).calls.map (fun k => k.executed)) = [true] ∧ t.regs = (callS (dCall 0 1) false).regs := by decide +kernel
theorem test_scout_correlated : (callS (dCall 0 0) false).sctCorr c0 (dCall 0 0) = true ∧
    let t := run (.scoutEstimate c0) (callS (dCall 0 0) false)
    t.get F.SCT_STATUS_code (cluU c0) = 1 ∧ t.get F.SCT_COUNT_corr (cluU c0) = 1 := by decide +kernel
theorem test_scout_kinds : sctReserved (dCall 1 1) = false ∧ sctReserved (dCall 2 1) = false ∧ sctReserved (dCall 3 1) = false ∧
    (((run (.scoutTopK c0) (callS (dCall 1 1) false)).clu c0).calls.map (fun k => k.executed)) = [true] ∧
    (((run (.scoutThreshold c0) (callS (dCall 2 1) false)).clu c0).calls.map (fun k => k.executed)) = [true] ∧
    (((run (.scoutRange c0) (callS (dCall 3 1) false)).clu c0).calls.map (fun k => k.executed)) = [true] := by decide +kernel
theorem test_scout_done : let t := run (.scoutCallDone c0) (callS (dCall 3 1) true)
    (t.clu c0).calls = [] ∧ t.get F.SCT_COUNT_calls (cluU c0) = 1 ∧ (t.tensor 0).untrusted = true ∧
    (run (.scoutCallDone c0) (callS (dCall 0 1) true)).tensors = [] := by decide +kernel
theorem test_scout_skips : sctReserved (dCall 4 1) = true ∧ sctReserved (dCall 3 1 + 2 ^ 30) = true ∧
    (run (.scoutCallDone c0) (callS (dCall 4 1) false)).get F.SCT_STATUS_code (cluU c0) = 3 ∧
    ((run (.scoutCallDone c0) (callS (dCall 3 1 + 2 ^ 30) false)).tensor 0).untrusted = true := by decide +kernel

/-- A copy list at pool offset 0 with one descriptor d. -/
def cpyS (d : Nat) : State := (base.setClu c0 { copies := [0] }).st (poolAt c0 0) 64 d
/-- A copy of operation op in format f, `last` set, between the places src and dst, r by c elements, both strides k. -/
def dCopy (op f src dst r c k : Nat) : Nat :=
  k * 2 ^ 236 + k * 2 ^ 204 + (c - 1) * 2 ^ 184 + (r - 1) * 2 ^ 160 + dst * 2 ^ 96 + src * 2 ^ 32 + 2 ^ 15 + f * 2 ^ 8 + f * 2 ^ 4 + op
/-- HBM holds the elements 1 to 4 of two rows of two BF16 elements at 0x4000. -/
def srcS (d : Nat) : State := (cpyS d).stH 0x4000 8 (1 + 2 * 2 ^ 16 + 3 * 2 ^ 32 + 4 * 2 ^ 48)

theorem test_copy_queues : ((run (.cpySubmit c0 2) base).clu c0).copies = [128] ∧
    ((run (.copyListItem c0 2) base).clu c0).copies = [128] ∧
    let s := base.setClu c0 { copies := List.replicate 8 0, copyStopped := true }
    (run (.cpySubmit c0 2) s).get F.CPY_STATUS_code (cluU c0) = 9 ∧ (run (.cpySubmit c0 2) s).clus = s.clus ∧
    (slFind (run (.copyListItem c0 2) s).waits (cluWaiter c0 0)).isSome = true ∧
    ((run (.cpyResume c0) s).clu c0).copyStopped = false ∧ run (.cpyResume c0) base = base := by decide +kernel
theorem test_copy_invalid : (cpyS 6).copyAt c0 = some 6 ∧ cpyInvalid 6 0 = true ∧ cpyInvalid (dCopy 0 1 0x4000 0x5000 1 4 0 + 2 ^ 464) 0 = true ∧
    let t := run (.copyFill c0 .none) (cpyS 6)
    t.get F.CPY_STATUS_code (cluU c0) = 1 ∧ (t.clu c0).copyStopped = true ∧ t.mem = (cpyS 6).mem := by decide +kernel
/-- What the copy of descriptor d moves, or the place that fails. -/
def prep (s : State) (d : Nat) : CopyRun :=
  (s.cpyPrep c0 d).toOption.getD { sf := .bf16, df := .bf16, src := 0, dsts := [], moves := [], stop := true }
def prepFails (s : State) (d : Nat) : Option PlaceErr :=
  match s.cpyPrep c0 d with
  | .error e => some e
  | .ok _ => none
/-- Descriptor d at hand is ready as the statements about copies ask. -/
def ready (s : State) (d : Nat) : Bool :=
  (s.cpyPrep c0 d).toOption.isSome && !(prep s d).stop && !cpyInvalid d 0 && (s.cpyBad d (prep s d)).isNone &&
    (prep s d).moves.all (fun m => ((prep s d).srcSpans d m).all (fun p => !s.regionHeld p.1 (p.1 + p.2))) && !(s.clu c0).copyRetry
theorem test_copy_place : let d := dCopy 1 1 (2 ^ 41 - 2) 0x5000 1 4 8
    cpyInvalid d 0 = false ∧ cpy.op d = 1 ∧ (prepFails (cpyS d) d).map (fun e => e.why) = some .range ∧
    (run (.copyStrided c0 .none) (cpyS d)).get F.CPY_STATUS_code (cluU c0) = 4 ∧
    ((run (.copyStrided c0 .none) (cpyS d)).clu c0).copyStopped = true := by decide +kernel
/-- A copy from logical cluster 1 of die 0, to which no cluster is mapped: it is tried once more, then stops. -/
theorem test_copy_quarantined : let d := dCopy 1 1 (2 ^ 61 + 2 ^ 48) 0x5000 1 4 8
    cpyInvalid d 0 = false ∧ (prepFails (cpyS d) d).map (fun e => (e.why, e.logical)) = some (.quarantined, true) ∧
    let t := run (.copyStrided c0 .none) (cpyS d)
    (t.clu c0).copyRetry = true ∧ t.regs = (cpyS d).regs ∧
    (run (.copyStrided c0 .none) t).get F.CPY_STATUS_code (cluU c0) = 2 := by decide +kernel
/-- A copy of four BF16 elements to a stack on another hub. -/
def dRing : Nat := dCopy 0 1 0x4000 (2 ^ 39 + 0x5000) 1 4 0
theorem test_copy_errors : (srcS dRing).copyAt c0 = some dRing ∧ ready (srcS dRing) dRing = true ∧ cpy.op dRing = 0 ∧
    (prep (srcS dRing) dRing).converts dRing = false ∧
    ((prep (srcS dRing) dRing).ends dRing).any (fun a => ((srcS dRing).copyRoute c0 a).2.2) = true ∧
    let l := run (.copyLinear c0 { upsets := [.ring true], rows := 0 }) (srcS dRing)
    let t := run (.copyLinear c0 { upsets := [.ring false], rows := 0 }) (srcS dRing)
    l.get F.CPY_STATUS_code (cluU c0) = 7 ∧ l.get F.CPY_ERR_CNT_lasting (cluU c0) = 1 ∧ l.mem = (srcS dRing).mem ∧
    t.get F.CPY_STATUS_code (cluU c0) = 6 ∧ t.ldH (2 ^ 39 + 0x5000) 8 = (srcS dRing).ldH 0x4000 8 := by decide +kernel
/-- One HBM symbol of the source's codeword is bad: it is corrected and counted; two are not, twice. -/
theorem test_copy_hbm : let d := dCopy 0 1 0x4000 0x5000 1 4 0
    let one : HbmUpset := { first := [(7, 5)], again := [] }
    let two : HbmUpset := { first := [(0, 5), (9, 1)], again := [(0, 5), (9, 1)] }
    let t := run (.copyLinear c0 { upsets := [.hbm .src 0 one], rows := 0 }) (srcS d)
    let l := run (.copyLinear c0 { upsets := [.hbm .src 0 two], rows := 0 }) (srcS d)
    t.ldH 0x5000 8 = (srcS d).ldH 0x4000 8 ∧ t.get F.HUB_HBM_ECC_CNT_corrected 0 = 1 ∧
    l.get F.CPY_STATUS_code (cluU c0) = 8 ∧ l.ldH 0x5000 8 = 0 := by decide +kernel
theorem test_copy_linear : let d := dCopy 0 1 0x4000 0x5000 1 4 0
    cpyInvalid d 0 = false ∧ (srcS d).cluOn c0 = true ∧
    ((srcS d).cpyPrep c0 d).toOption.map (fun k => (k.sf, k.df, k.stop, k.dsts)) = some (.bf16, .bf16, false, [0x5000]) ∧
    let t := run (.copyLinear c0 .none) (srcS d)
    t.rawElem .bf16 0x5000 3 = 4 ∧ (t.clu c0).copies = [] ∧ (t.clu c0).copiesDone = 1 := by decide +kernel
theorem test_copy_strided : let d := dCopy 1 1 0x4000 0x5000 2 2 4
    (run (.copyStrided c0 .none) (srcS d)).ldH 0x5000 8 = (srcS d).ldH 0x4000 8 ∧ rowLen .bf16 2 ≤ cpy.dstStride d := by decide +kernel
theorem test_copy_transpose : let d := dCopy 2 1 0x4000 0x5000 2 2 4
    (run (.copyTranspose c0 .none) (srcS d)).ldH 0x5000 8 = 1 + 3 * 2 ^ 16 + 2 * 2 ^ 32 + 4 * 2 ^ 48 := by decide +kernel
theorem test_copy_fill : let d := dCopy 5 1 0 0x5000 2 2 4 + 0x12345 * 2 ^ 408
    (run (.copyFill c0 .none) (srcS d)).ldH 0x5000 8 = 0x2345234523452345 := by decide +kernel
/-- A row of two elements, the index table at 0x6000 naming source rows 1 and 0, of at most n. -/
def dIdx (op n : Nat) : Nat := dCopy op 1 0x4000 0x5000 2 2 4 + 0x6000 * 2 ^ 344 + n * 2 ^ 440
def idxS (op n : Nat) : State := (srcS (dIdx op n)).stH 0x6000 8 1
theorem test_copy_gather : (run (.copyGather c0 .none) (idxS 3 2)).ldH 0x5000 8 = 3 + 4 * 2 ^ 16 + 2 ^ 32 + 2 * 2 ^ 48 := by decide +kernel
theorem test_copy_scatter : (run (.copyScatter c0 .none) (idxS 4 2)).ldH 0x5000 8 = 3 + 4 * 2 ^ 16 + 2 ^ 32 + 2 * 2 ^ 48 := by decide +kernel
theorem test_copy_index : let d := dIdx 3 1
    cpyInvalid d 0 = false ∧ (prep (idxS 3 1) d).stop = true ∧ (prep (idxS 3 1) d).sf = (prep (idxS 3 1) d).df ∧
    (idxS 3 1).cpyBad d (prep (idxS 3 1) d) = none ∧
    (run (.copyGather c0 .none) (idxS 3 1)).get F.CPY_STATUS_code (cluU c0) = 5 ∧
    ((run (.copyGather c0 .none) (idxS 3 1)).clu c0).copyStopped = true := by decide +kernel
theorem test_copy_waits : let s := { idxS 3 2 with tensors := [(9, { regions := [(0x4000, 0x4004)] })] }
    s.regionHeld 0x4000 0x4004 = true ∧ (run (.copyGather c0 .none) s).mem = s.mem ∧
    (slFind (run (.copyGather c0 .none) s).waits (cluWaiter c0 1)).isSome = true := by decide +kernel
/-- Every kind of copy has a descriptor that is ready, with equal formats stored element by element. -/
theorem test_copy_ready : ∀ p ∈ [(0, dCopy 0 1 0x4000 0x5000 1 4 0), (1, dCopy 1 1 0x4000 0x5000 2 2 4), (2, dCopy 2 1 0x4000 0x5000 2 2 4),
      (5, dCopy 5 1 0 0x5000 2 2 4), (3, dIdx 3 2), (4, dIdx 4 2)],
    cpy.op p.2 = p.1 ∧ ready (idxS p.1 2) p.2 = true ∧ cpy.split p.2 = 0 ∧ ((idxS p.1 2).clu c0).copyOld = [] ∧
    (p.1 = 0 ∨ rowLen .bf16 (cpy.dCols p.2) ≤ cpy.dstStride p.2) := by decide +kernel

theorem test_hbm_recal : base.domOn (.hbm 0) = true ∧ base.quarIs 7 3 = false ∧
    (run (.hbmRecalDue 0 3 40 0) base).recals = [(3, (base.pacer.time, 40))] ∧ run (.hbmRefresh 0 3 1) base = base ∧
    (run (.hbmRecalDue 0 3 40 1) base).get F.HUB_HBM_STATUS_code 0 = 3 := by decide +kernel
theorem test_hbm_recal_fails : let t := run (.hbmRecalDue 0 3 40 2) base
    t.quarIs 7 3 = true ∧ t.get F.HUB_HBM_STATUS_code 0 = 4 ∧ t.flt.degraded = true := by decide +kernel
theorem test_hbm_temp : let s := { base with recals := [(3, (7, 40))] }
    s.live = true ∧ s.recalLast 0 3 = some (7, 40) ∧
    run (.hbmTempRecal 0 3 44 0) s = s ∧ (run (.hbmTempRecal 0 3 45 0) s).recals = [(3, (base.pacer.time, 45))] ∧
    (run (.hbmTempRecal 0 3 35 0) s).recals = [(3, (base.pacer.time, 35))] := by decide +kernel
theorem test_hbm_interval : let s := { base with recals := [(3, (7, 40))] }
    let l := { s with pacer := { s.pacer with time := 7 + 255 * 256000000 } }
    ¬(7 + s.get F.HUB_HBM_CTRL_interval_ms 0 * 256000000 ≤ s.pacer.time) ∧ run (.hbmRecalDue 0 3 40 0) s = s ∧
    (run (.hbmRecalDue 0 3 41 0) l).recals = [(3, (l.pacer.time, 41))] := by decide +kernel
theorem test_recal_frozen : let s := base.put F.TRC_FRZ_STATE_frozen 0 1
    s.frozen = true ∧ (run (.hbmRecalDue 0 3 40 0) s).recalWait = [(3, (40, 0))] ∧ (run (.hbmRecalDue 0 3 40 0) s).recals = [] := by
  decide +kernel
theorem test_recal_now : let s := base.put F.HUB_HBM_CTRL_chan 0 3
    s.get F.HUB_HBM_CTRL_chan 0 = 3 ∧ (run (.recalNow 0 50 0) s).recals = [(3, (s.pacer.time, 50))] := by decide +kernel

/-! ### Sends and links (SendsQueueAndComplete, PayloadCodingLossless, PacketsAndFlitsBuilt, FlitsReceived,
ControlFlitsAndTimers, LanesAndSwaps, LinkStates, PacketsReach) -/

/-- Link 0 UP with batons, in group 1 with member bib 6 across it. -/
def up0 : State := ((grp1 base 0).put F.RLY_STATE_state 0 3).setLnk 0 { held := [8, 8, 8, 8] }
/-- The frame of a flit with header h. -/
def rawFlit (h : Nat) (p : List Byte) : Flit := { frame := mkFrame (mkFlit h p) }
/-- A good flit of a kind, with a sequence number, from the peer. -/
def flit (kind seq : Nat) (p : List Byte) : Flit := rawFlit (seq * 2 ^ 8 + kind) p
/-- A flit with the bytes of a list of places upside down. -/
def spoil (f : Flit) (l : List Nat) : Flit := { frame := l.foldl (fun b i => b.set i (~~~(b.getD i 0))) f.frame }
/-- A send of n bytes from HBM 0x4000 to rank 1 of group 1, window 2, FP32. -/
def dSend (n : Nat) : Nat := n * 2 ^ 168 + 0x4000 * 2 ^ 64 + 2 * 2 ^ 52 + 1 * 2 ^ 8 + 1
/-- It stands at pool offset 0x100 and waits in the queue. -/
def sndS (d : Nat) (l : Nat) : State :=
  (up0.setClu c0 { sends := List.replicate l { off := 0, started := true } ++ [{ off := 0x100 }] }).st (poolAt c0 0x100) 64 d

theorem test_send_queued : ((run (.rlySend c0 2) up0).clu c0).sends = [{ off := 128 }] ∧
    ((run (.sendItem c0 64) up0).clu c0).sends = [{ off := 64 }] ∧
    let s := up0.setClu c0 { sends := List.replicate 8 { off := 0 } }
    (run (.rlySend c0 2) s).get F.RLY_SEND_STATUS_code (cluU c0) = 0x0D ∧ (run (.rlySend c0 2) s).clus = s.clus ∧
    (slFind (run (.sendItem c0 2) s).waits (cluWaiter c0 0)).isSome = true := by decide +kernel
theorem test_send_start : let s := sndS (dSend 8) 0
    sndInvalid (dSend 8) = false ∧ s.sndNoRoute (dSend 8) = false ∧ s.regionHeld 0x4000 0x4008 = false ∧
    ((run (.sendStart c0) s).clu c0).sends.map (fun k => (k.off, k.started, k.link, k.desc)) = [(0x100, true, 0, dSend 8)] ∧
    (s.resolve (snd.src (dSend 8)) (snd.bytes (dSend 8))).toOption = some 0x4000 ∧
    ((run (.sendStart c0) s).lnk 0).replay.length = 1 := by decide +kernel
theorem test_send_bounds : run (.sendStart c0) (sndS (dSend 8) 4) = sndS (dSend 8) 4 ∧
    ((run (.sendStart c0) (sndS (dSend 8) 3)).clu c0).sends.countP (fun k => k.started) = 4 ∧
    (run (.sendStart c0) (sndS (dSend 0) 0)).get F.RLY_SEND_STATUS_code (cluU c0) = 0x0B ∧
    ((run (.sendStart c0) (sndS (dSend 0) 0)).clu c0).sends = [] ∧
    (run (.sendStart c0) ((sndS (dSend 8) 0).put F.RLY_STATE_state 0 2)).get F.RLY_SEND_STATUS_code (cluU c0) = 0x0C := by decide +kernel
theorem test_send_complete : let s := up0.setClu c0 { sends := [{ off := 0x100, started := true }] }
    s.sndAcked c0 { off := 0x100, started := true } = true ∧ ((run (.sendComplete c0) s).clu c0).sends = [] ∧
    ((run (.sendComplete c0) s).clu c0).sendsDone = 1 := by decide +kernel
theorem test_coding : Fmt.bf16.codable = true ∧
    decodePayload .bf16 3 3 (codePayload .bf16 ([0x3F80, 0x3F81, 0xC000].flatMap (toBytes 2)) ++ [9]) =
      some ([0x3F80, 0x3F81, 0xC000].flatMap (toBytes 2), (codePayload .bf16 ([0x3F80, 0x3F81, 0xC000].flatMap (toBytes 2))).length) := by
  decide +kernel
/-- A data packet from bib 6, rank 1, to window 2 at offset 4, four bytes. -/
def pData : Pkt :=
  { kind := 1, group := 1, hops := 1 + 8, epoch := 2, srcBib := 6, window := 2, srcRank := 1, dstRank := 0, route := 0, dstOff := 4,
    len := 4, flags := 0, data := [1, 2, 3, 4] }
theorem test_packet_head : pData.head.length = 48 ∧ Pkt.ofBytes (pData.head ++ pData.data) = pData := by decide +kernel
set_option maxRecDepth 100000 in
theorem test_flit_good : (flit 1 5 []).frame.length = 268 ∧ flitGood (spoil (flit 1 5 []) [0, 2, 4]) = true ∧ frameDecode (spoil (flit 1 5 []) [2]).frame = ((flitBytes (flit 1 5 [])), false, [2]) ∧ flitGood (flit 1 5 []) = true ∧ flitGood (flit 10 5 []) = false ∧
    flitGood (spoil (flit 1 5 []) [0, 2, 4, 6]) = false := by decide +kernel

set_option maxRecDepth 100000 in
theorem test_idle_flit : up0.linkUp 0 = true ∧ up0.live = true ∧ (up0.lnk 0).queue = [] ∧
    ((run (.idleFlit 0 (flit 0 0 [])) up0).lnk 0).rxFrame = 1 ∧
    ((run (.batonFlit 0 (rawFlit (5 * 2 ^ 34 + 4) [])) up0).lnk 0).held = [13, 8, 8, 8] := by decide +kernel
set_option maxRecDepth 100000 in
theorem test_head_flit : (Pkt.ofBytes (padTo 244 pData.head)).rlen ≤ (Pkt.ofBytes (padTo 244 pData.head)).ptr ∧
    packetDone (padTo 244 (pData.head ++ pData.data)) = true ∧
    let t := run (.headFlit 0 (flit 1 0 (pData.head ++ pData.data))) up0
    (t.lnk 0).inbox = [(0, padTo 244 (pData.head ++ pData.data))] ∧ (t.lnk 0).rxSeq = 1 ∧ (t.lnk 0).ackDue = true ∧
    ((run (.headFlit 0 (flit 1 3 (pData.head ++ pData.data))) up0).lnk 0).inbox = [] := by decide +kernel
theorem test_link_idle : up0.linkIdle 0 ∧ up0.vcOpen 0 0 ∧ up0.ctlNew 0 8 [] := by
  refine ⟨?_, ?_, ?_⟩
  · unfold State.linkIdle; decide +kernel
  · unfold State.vcOpen; decide +kernel
  · intro c h; cases (show (none : Option (Nat × Nat × List Byte)) = some c from h)
/-- A packet of a newer epoch waits on channel 0 of link 0. -/
def heldS : State := up0.setLnk 0 { up0.lnk 0 with inbox := [(0, { pData with epoch := 3 }.head ++ pData.data)] }
set_option maxRecDepth 100000 in
theorem test_flit_parked : heldS.vcHeld 0 0 = true ∧ (heldS.lnk 0).bad = none ∧
    let t := run (.headFlit 0 (flit 1 0 (pData.head ++ pData.data))) heldS
    (t.lnk 0).parked.map (fun q => (q.1, q.2.1)) = [(0, 1)] ∧ (t.lnk 0).inbox.length = 1 ∧ (t.lnk 0).rxSeq = 1 := by decide +kernel
set_option maxRecDepth 100000 in
theorem test_body_flit : let p := { pData with len := 300, data := List.replicate 300 7 }
    packetDone (padTo 244 p.head) = false ∧
    let t := run (.headFlit 0 (flit 1 0 ((p.head ++ p.data).take 244))) up0
    slFind (t.lnk 0).asm 0 = some (.deliver ((p.head ++ p.data).take 244)) ∧
    let u := run (.bodyFlit 0 (flit 2 1 ((p.head ++ p.data).drop 244))) t
    (u.lnk 0).inbox.length = 1 ∧ slFind (u.lnk 0).asm 0 = none ∧ (u.lnk 0).rxSeq = 2 := by decide +kernel
set_option maxRecDepth 100000 in
theorem test_head_undeliverable : let p := { pData with hops := 2 + 8, route := 5 * 2 ^ 6 }
    (Pkt.ofBytes (padTo 244 p.head)).ptr < (Pkt.ofBytes (padTo 244 p.head)).rlen ∧ up0.linkUp (hopOf p.route 1) = false ∧
    let t := run (.headFlit 0 (flit 1 0 (p.head ++ p.data))) up0
    t.get F.RLY_STATUS_code 0 = 0x0A ∧ slFind (t.lnk 0).asm 0 = some .drop ∧ t.get F.RLY_DROP_bib 0 = 6 := by decide +kernel
set_option maxRecDepth 100000 in
theorem test_bad_flit : let t := run (.idleFlit 0 (spoil (flit 0 0 []) [0, 2, 4, 6])) up0
    (t.lnk 0).bad = some (0, 0) ∧ t.out.length = 1 ∧
    (run (.swapAckFlit 0 (flit 9 0 [])) (up0.put F.TRC_FRZ_STATE_frozen 0 1)).links.length = 1 := by decide +kernel
set_option maxRecDepth 100000 in
theorem test_nak_flit : let x : TxFlit := { vc := 0, kind := 1, payload := [] }
    let s := up0.setLnk 0 { up0.lnk 0 with replay := [(4, x), (5, x)], txSeq := 6 }
    let t := run (.nakFlit 0 (rawFlit (4095 * 2 ^ 20 + 3) [5, 0])) s
    (t.lnk 0).replay.length = 2 ∧ t.out.length = 1 := by decide +kernel
set_option maxRecDepth 100000 in
theorem test_time_and_heartbeat : (run (.timeFlit 0 (flit 5 0 (toBytes 12 9))) up0).out.length = 1 ∧
    (run (.heartbeatFlit 0 (flit 6 0 [5, 0, 0, 2])) (up0.put F.RLY_HB_missed 0 4)).get F.RLY_HB_missed 0 = 0 ∧
    ((run (.heartbeatFlit 0 (flit 6 0 [5, 0, 0, 2])) up0).lnk 0).hbSuspended = true := by decide +kernel
set_option maxRecDepth 100000 in
theorem test_freeze_flit : let t := run (.freezeFlit 0 (flit 7 0 [9, 1])) up0
    t.frozen = true ∧ t.get F.TRC_FRZ_STATE_id 0 = 0x109 ∧
    (run (.freezeFlit 0 (flit 7 0 [9, 1])) { up0 with frz := { seen := [0x109] } }).frozen = false := by decide +kernel
set_option maxRecDepth 100000 in
theorem test_swap_flit : let t := run (.swapFlit 0 (flit 8 0 [1, 4, 65, 0, 0, 0])) up0
    (t.lnk 0).rx.swap = some { out := 1, inn := 4, frame := 65, acked := true } ∧ t.out.length = 3 := by decide +kernel
set_option maxRecDepth 100000 in
theorem test_swap_ack : let s := up0.setLnk 0 { up0.lnk 0 with tx := { swap := some { out := 1, inn := 4, frame := 64 } } }
    ((run (.swapAckFlit 0 (flit 9 0 [1, 4, 64, 0, 0, 0])) s).lnk 0).tx.swap = some { out := 1, inn := 4, frame := 64, acked := true } := by
  decide +kernel
theorem test_replay_timeout : let s := up0.setLnk 0 { up0.lnk 0 with replay := [(4, { vc := 0, kind := 1, payload := [] })], txSeq := 5 }
    let t := run (.replayTimeout 0) s
    s.live = true ∧ (t.lnk 0).replay = (s.lnk 0).replay ∧ t.out.length = 1 ∧ t.get F.RLY_ERR_CNT_retry 0 = 1 ∧
    (run (.replayTimeout 0) t).get F.RLY_ERR_CNT_retry 0 = 2 := by decide +kernel
theorem test_baton_stall : let s := up0.setLnk 0 { held := [0, 8, 8, 8], queue := [{ vc := 0, kind := 1, payload := [] }] }
    (run (.batonStall 0 0) s).get F.RLY_STATUS_code 0 = 8 ∧ (slFind (run (.batonStall 0 0) s).waits (linkWaiter 0 0)).isSome = true := by
  decide +kernel
theorem test_heartbeat_and_exchange : (run (.heartbeatSend 0) up0).out.length = 1 ∧ (up0.get F.RLY_CTRL_time_ms 0) ≠ 0 ∧
    ((run (.timeExchangeDue 0) up0).lnk 0).exch = some (1, up0.pacer.time) ∧
    (run (.heartbeatMiss 0) up0).get F.RLY_HB_missed 0 = 3 ∧ (run (.heartbeatMiss 0) up0).get F.RLY_STATUS_code 0 = 7 ∧
    (run (.heartbeatMiss 0) (up0.put F.RLY_HB_missed 0 255)).get F.RLY_HB_missed 0 = 255 := by decide +kernel

/-- Link 0 UP with its spare lane 4 trained in both directions. -/
def spare0 : State := up0.puts 0 [(F.RLY_STATE_tx_spare, 4), (F.RLY_STATE_tx_spare_avail, 1), (F.RLY_STATE_rx_spare, 4),
  (F.RLY_STATE_rx_spare_avail, 1), (F.RLY_CTRL_swap_lane, 2)]
theorem test_swap_now : ((run (.swapNow 0) spare0).lnk 0).tx.swap = some { out := 2, inn := 4, frame := 64, tries := 1 } ∧
    spare0.get F.RLY_CTRL_retrain_s 0 ≠ 0 ∧ ((run (.laneRetrainDue 0) spare0).lnk 0).tx.last = 0 ∧
    ((run (.swapAckTimeout 0) (run (.swapNow 0) spare0)).lnk 0).tx.swap.map (fun w => w.tries) = some 2 := by decide +kernel
theorem test_swap_fails : let s := spare0.setLnk 0 { spare0.lnk 0 with tx := { swap := some { out := 2, inn := 4, frame := 64, tries := 2 } } }
    (run (.swapAckTimeout 0) s).get F.RLY_STATUS_code 0 = 0x10 ∧ ((run (.swapAckTimeout 0) s).lnk 0).tx.swap = none := by decide +kernel
theorem test_lane_switch : let w : Swap := { out := 2, inn := 4, frame := 64, acked := true, emergency := true }
    let s := spare0.setLnk 0 { spare0.lnk 0 with rx := { swap := some w } }
    let t := run (.laneSwitchFrame 0 true) s
    (t.lnk 0).rx = { act := [0, 1, 3, 4], retrain := some (2, 0) } ∧ t.get F.RLY_STATE_rx_spare 0 = 2 ∧
    t.get F.RLY_STATE_rx_spare_avail 0 = 0 ∧ t.get F.RLY_STATUS_code 0 = 4 ∧
    (run (.laneRetrainDone 0 true true) t).get F.RLY_STATE_rx_spare_avail 0 = 1 ∧
    ((run (.laneRetrainDone 0 true false) t).lnk 0).rx.retrain = some (2, 1) ∧
    (run (.laneRetrainDone 0 true false) (run (.laneRetrainDone 0 true false) t)).quarIs 5 (128 + 2) = true := by decide +kernel
theorem test_lock_loss : ((run (.laneLockLoss 0 1) spare0).lnk 0).rx.swap = some { out := 1, inn := 4, frame := 16, acked := true, emergency := true } ∧
    (run (.laneLockLoss 0 1) up0).get F.RLY_STATE_state 0 = 5 ∧ ((run (.laneLockLoss 0 4) spare0).lnk 0).rx.retrain = some (4, 0) ∧
    (run (.laneLockLoss 0 4) spare0).get F.RLY_STATE_rx_spare_avail 0 = 0 := by decide +kernel

theorem test_link_enable : base.get F.RLY_STATE_state 0 = 0 ∧ base.domOn (.link 0) = true ∧ (run (.linkEnable 0 true) base).get F.RLY_STATE_state 0 = 0 ∧
    (run (.linkEnable 0 true) (base.put F.HUB_ID_BIB_bib_valid 0 1)).get F.RLY_STATE_state 0 = 1 ∧
    (run (.linkEnable 0 false) up0).get F.RLY_STATE_state 0 = 0 ∧ (run (.linkEnable 0 false) up0).lnk 0 = {} := by decide +kernel
/-- Link 0 in TRAIN with an attempt under way, after k failed ones. -/
def trainS (k : Nat) : State := (base.put F.RLY_STATE_state 0 1).setLnk 0 { training := true, trainTries := k }
theorem test_training : ((run (.peerSignalDetect 0) (base.put F.RLY_STATE_state 0 1)).lnk 0).training = true ∧
    ((run (.trainRetry 0) ((base.put F.RLY_STATE_state 0 1).setLnk 0 { trainTries := 1 })).lnk 0).training = true ∧
    (run (.trainAttemptEnd 0 [0, 1, 2, 3, 4] [0, 1, 3, 4]) (trainS 0)).get F.RLY_STATE_state 0 = 2 ∧
    (run (.trainAttemptEnd 0 [0, 1, 2, 3, 4] [0, 1, 3, 4]) (trainS 0)).get F.RLY_STATE_tx_spare_avail 0 = 1 ∧
    (run (.trainAttemptEnd 0 [0, 1, 2, 3, 4] [0, 1, 3, 4]) (trainS 0)).get F.RLY_STATE_rx_spare_avail 0 = 0 ∧
    ((run (.trainAttemptEnd 0 [0, 1, 2, 3, 4] [0, 1, 3, 4]) (trainS 0)).lnk 0).rx.act = [0, 1, 3, 4] ∧
    (run (.trainAttemptEnd 0 [0, 1, 2, 2] [0, 1, 3, 4]) (trainS 0)) = (base.put F.RLY_STATE_state 0 1).setLnk 0 { trainTries := 1 } ∧
    (run (.trainAttemptEnd 0 [0, 1, 2, 2] [0, 1, 3, 4]) (trainS 1)).get F.RLY_STATE_state 0 = 5 ∧
    (run (.trainAttemptEnd 0 [0, 1, 2, 2] [0, 1, 3, 4]) (trainS 1)).get F.RLY_STATUS_code 0 = 1 := by decide +kernel
/-- The peer of link 0: link 3 of bib 6, batons for four channels in units of 8, and 16 exchanges, of which the third has the least
round trip: 512 ns, with the peer 1,024 ns ahead. -/
def exch6 (k : Nat) : TimeExch := { t1 := 1000, t2 := 1000 + 256 * 1280, t3 := 1000 + 256 * 1280, t4 := 1000 + 256 * (512 + 8 * k) }
def peer6 : AlignPeer :=
  { bib := 6, link := 3, batons := 0x01020304, exch := [exch6 2, exch6 1, exch6 0] ++ List.replicate 13 (exch6 3) }
theorem test_align : let s := (base.puts 0 [(F.RLY_STATE_state, 2), (F.RLY_PEER_EXPECT_any, 1)])
    let t := run (.alignDone 0 peer6) s
    peer6.exch.length = 16 ∧ s.live = true ∧ (s.lnk 0).queue = [] ∧
    t.get F.RLY_STATE_state 0 = 3 ∧ (t.lnk 0).held = [32, 24, 16, 8] ∧ t.get F.RLY_RTT_rtt_ns 0 = 512 ∧ t.get F.RLY_PEER_bib 0 = 6 ∧
    t.get64 R.RLY_OFFSET_LO R.RLY_OFFSET_HI 0 = 256 * 1024 := by decide +kernel
theorem test_align_mismatch :
    let s := (base.puts 0 [(F.RLY_STATE_state, 2), (F.RLY_PEER_EXPECT_any, 0), (F.RLY_PEER_EXPECT_bib, 7), (F.RLY_PEER_EXPECT_link, 3)])
    let t := run (.alignDone 0 peer6) s
    t.get F.RLY_STATUS_code 0 = 2 ∧ t.get F.RLY_STATE_state 0 = 2 ∧ t.links = s.links := by decide +kernel
theorem test_link_retire : (run (.linkRetire 0) up0).get F.RLY_STATE_state 0 = 5 ∧ (run (.linkRetire 0) up0).get F.RLY_STATUS_code 0 = 6 := by
  decide +kernel

/-- Packet p has arrived on channel 0 of link 0; window 2 is valid, 8 bytes at HBM 0x7000. -/
def arrived (p : Pkt) : State :=
  ((up0.setLnk 0 { inbox := [(0, p.head ++ p.data)] }).wr R.RLY_LAND_LO 0 0x8000 |>.stH 0x8040 8 0x7000 |>.stH 0x8048 8 8).stH 0x8058 1 1
theorem test_data_lands : (arrived pData).landAt 2 = 0x8040 ∧ (arrived pData).epochCheck pData = .accepted ∧
    let t := run (.dataPacket 0 0) (arrived pData)
    t.ldH 0x7004 4 = 0x04030201 ∧ t.ldH 0x8050 8 = 4 ∧ slFind t.landBib 2 = some 6 ∧ (t.lnk 0).inbox = [] := by decide +kernel
theorem test_data_refused : (run (.dataPacket 0 0) (arrived { pData with dstOff := 5 })).get F.RLY_LAND_STATUS_code 0 = 0x0F ∧
    (run (.dataPacket 0 0) (arrived { pData with window := 3 })).get F.RLY_LAND_STATUS_code 0 = 0x0E := by decide +kernel
theorem test_data_epochs : (run (.dataPacket 0 0) (arrived { pData with srcBib := 7 })).get F.GRP_STALE_CNT_foreign 0 = 1 ∧
    (run (.dataPacket 0 0) (arrived { pData with srcBib := 7 })).get F.GRP_STATUS_code 0 = 3 ∧
    (run (.dataPacket 0 0) (arrived { pData with epoch := 1 })).get F.GRP_STALE_CNT_stale 0 = 1 ∧
    run (.dataPacket 0 0) (arrived { pData with epoch := 3 }) = arrived { pData with epoch := 3 } := by decide +kernel
theorem test_reduce_up : (arrived { pData with kind := 2 }).packetIs 0 0 2 ({ pData with kind := 2 }.head ++ pData.data) ∧
    (run (.reduceUp 0 0) (arrived { pData with kind := 2, tensor := 5 })).red.inp =
      [{ group := 1, seg := 5, rank := 1, elem0 := 0, data := [1, 2, 3, 4] }] ∧
    (run (.gatherUp 0 0) (arrived { pData with kind := 4 })).red.inp.length = 1 := by
  unfold State.packetIs; decide +kernel
/-- Segment 0 waits for its result, two words at HBM 0x3800; the parent sent one of them. -/
def downS (kind : Nat) : State :=
  let k : Seg := { op := 4, group := 1, count := 2, io := .places 0x3000 0x3800, up := true }
  { arrived { pData with kind := kind, elem0 := 1, dstOff := 0 } with red := { phase := 1, segs := [k] } }
theorem test_result_down : (run (.resultDown 0 0) (downS 3)).ldH 0x3804 4 = 0x04030201 ∧
    ((run (.resultDown 0 0) (downS 3)).red.segs.map (fun k => k.got)) = [1] ∧
    (run (.gatherDown 0 0) (downS 5)).ldH 0x3804 4 = 0x04030201 := by decide +kernel

/-! ### Clauses on lost channels, lanes and windows -/

/-- HBM channel 0 of stack 0 is out of service. -/
def lostChan (s : State) : State := { s with flt := { s.flt with quar := 7 * 2 ^ 24 :: s.flt.quar } }
theorem test_send_source : (sndS (dSend 8) 0).sndSource (dSend 8) = some 0x4000 ∧ (lostChan (sndS (dSend 8) 0)).sndSource (dSend 8) = none ∧
    (run (.sendStart c0) (lostChan (sndS (dSend 8) 0))).get F.RLY_SEND_STATUS_code (cluU c0) = 0x0B := by decide +kernel
theorem test_send_quiet : (sndS (dSend 8) 0).hbmQuiet ∧ (sndS (dSend 8) 0).sramQuiet :=
  quiet_of (by decide +kernel) (by decide +kernel) (by decide +kernel)
set_option maxRecDepth 100000 in
theorem test_time_reply : let s := { up0.setLnk 0 { up0.lnk 0 with exch := some (9, 256) } with pacer := { time := 256 * 700 } }
    let p := toBytes 4 9 ++ toBytes 8 256 ++ toBytes 8 512 ++ toBytes 8 512
    leNat ((p.drop 12).take 8) ≠ 0 ∧ ((run (.timeFlit 0 (flit 5 0 p)) s).lnk 0).exch = none := by decide +kernel
theorem test_heartbeat_off_multiple : let s := { up0 with pacer := { time := 5000 } }
    s.atMultiple (s.get F.RLY_CTRL_hb_us 0) = false ∧ up0.atMultiple (up0.get F.RLY_CTRL_hb_us 0) = true ∧ run (.heartbeatSend 0) s = s := by
  decide +kernel
/-- A swap of lane 1 for the spare holds on the receive side of link 0; `e`: an emergency swap. -/
def swapping (e : Bool) : State :=
  spare0.setLnk 0 { spare0.lnk 0 with rx := { swap := some { out := 1, inn := 4, frame := 64, acked := true, emergency := e } } }
theorem test_second_lane : (run (.laneLockLoss 0 2) (swapping true)).get F.RLY_STATE_state 0 = 5 ∧
    run (.laneLockLoss 0 1) (swapping true) = swapping true ∧
    (run (.laneLockLoss 0 4) (swapping true)).get F.RLY_STATE_state 0 = 5 ∧
    ((run (.laneLockLoss 0 4) (swapping false)).lnk 0).rx.retrain = some (4, 0) ∧ spareAvail true = F.RLY_STATE_rx_spare_avail ∧
    (run (.laneSwitchFrame 0 true) ((swapping true).put F.RLY_STATE_rx_spare_avail 0 0)).get F.RLY_STATE_state 0 = 5 := by decide +kernel
theorem test_requalification : let q := fun (st : Nat) (s : State) => (s.put F.RLY_STATE_state 0 st).setLnk 0 { s.lnk 0 with requal := true }
    (run (.linkEnable 0 false) (q 1 base)).get F.RLY_STATE_state 0 = 5 ∧ fltUnitOk 6 0 = true ∧
    (run (.linkEnable 0 false) (q 1 base)).get F.HUB_FLT_STATUS_code 0 = 7 ∧
    (run (.trainAttemptEnd 0 [0, 1] [0, 1, 3, 4]) (q 1 (trainS 1))).get F.HUB_FLT_STATUS_code 0 = 7 ∧
    (run (.alignDone 0 peer6) (q 2 (base.put F.RLY_PEER_EXPECT_any 0 1))).get F.HUB_FLT_STATUS_code 0 = 6 := by decide +kernel
/-- Transmit lane 1 of link 0 is in quarantine. -/
theorem test_training_quarantined : let s := { trainS 0 with flt := { base.flt with quar := [5 * 2 ^ 24 + 1] } }
    s.quarIs 5 (laneUnit 0 false 1) = true ∧
    ((run (.trainAttemptEnd 0 [0, 1, 2, 3, 4] [0, 1, 3, 4]) s).lnk 0).tx.act = [0, 2, 3, 4] ∧
    (run (.trainAttemptEnd 0 [0, 1, 2, 3, 4] [0, 1, 3, 4]) s).get F.RLY_STATE_tx_spare_avail 0 = 0 := by decide +kernel
set_option maxRecDepth 100000 in
theorem test_align_answers : let s := base.put F.RLY_STATE_state 0 2
    (run (.timeFlit 0 (flit 5 0 (toBytes 12 9))) s).out.length = 1 ∧
    bits (leNat ((flitBytes (flit 5 0 (toBytes 12 9))).take 8)) 3 0 = 5 := by decide +kernel
theorem test_data_quiet : (arrived pData).hbmQuiet ∧ (arrived pData).sramQuiet :=
  quiet_of (by decide +kernel) (by decide +kernel) (by decide +kernel)
theorem test_data_lost_channel : (lostChan (arrived pData)).hbmBad 0x7000 0x7008 = false ∧
    let s := { arrived pData with flt := { base.flt with quar := [7 * 2 ^ 24 + 16] } }
    s.hbmBad 0x7000 0x7008 = true ∧ placeReserved 0x7000 = false ∧ (run (.dataPacket 0 0) s).get F.RLY_LAND_STATUS_code 0 = 0x0E := by
  decide +kernel
/-- Segment 0 has gone up to the parent. -/
theorem test_segment_over : let s := downS 2
    s.segOver { pData with kind := 2, elem0 := 1, dstOff := 0 } = true ∧ (run (.reduceUp 0 0) s).red = s.red ∧
    (downS 2).segOver { pData with tensor := 1 } = false ∧ (downS 3).red.segs.map (downS 3).segTotal = [2] := by decide +kernel

/-! ### Groups (BeatsAndProbes, AdvanceAndDecrees) -/

/-- Group 1 with this module as rank `self`, the route book at HBM 0xA000 with bib 6 and the spare bib 7, both across link 0. -/
def mbrS (self : Nat) : State :=
  ((((grp1 base self).put F.RLY_STATE_state 0 3).setLnk 0 { held := [8, 8, 8, 8] }).wr R.GRP_MBR_BOOK_LO 0 0xA000 |>.put
    F.GRP_MBR_BOOK_HI_entries_m1 0 1).stH 0xA000 16 (6 + 2 ^ 32) |>.stH 0xA010 16 (7 + 2 ^ 24 + 2 ^ 32)
/-- A membership packet from the other member, with its payload. -/
def pMbr (kind self : Nat) (d : List Byte) : Pkt :=
  { kind := kind, group := 1, hops := 9, epoch := 2, srcBib := 6, srcRank := 1 - self, dstRank := self, route := 0, len := d.length, data := d }
/-- It has arrived on channel 0 of link 0. -/
def mbrIn (self : Nat) (p : Pkt) : State := (mbrS self).setLnk 0 { held := [8, 8, 8, 8], inbox := [(0, p.head ++ p.data)] }

theorem test_member_packet : (mbrIn 0 (pMbr 0x10 0 (toBytes 16 0))).memberIs 0 0 0x10 ((pMbr 0x10 0 (toBytes 16 0)).head ++ toBytes 16 0) := by
  unfold State.memberIs State.packetIs; decide +kernel
theorem test_beat_send : (mbrS 0).grpValid 1 = true ∧ (mbrS 0).neighbours 1 = [1] ∧ (run (.beatSend 1) (mbrS 0)).txCount 0 = 1 := by
  decide +kernel
theorem test_beat_miss : ((mbrS 0).nbr 1 1).suspended ≤ (mbrS 0).ns ∧ (run (.beatMiss 1 1) (mbrS 0)).get F.GRP_STATUS_code 0 = 9 ∧
    ((run (.beatMiss 1 1) (mbrS 0)).nbr 1 1).missed = 3 ∧ ((run (.beatMiss 1 1) (run (.beatMiss 1 1) (mbrS 0))).nbr 1 1).missed = 4 ∧
    ((run (.beatMiss 1 1) ((mbrS 0).setNbr 1 1 { missed := 255 })).nbr 1 1).missed = 255 := by decide +kernel
theorem test_beat : beatOk (pMbr 0x10 0 (toBytes 16 2)) = true ∧
    ((run (.beat 0 0) (mbrIn 0 (pMbr 0x10 0 (toBytes 16 0)))).nbr 1 1) = { last := 0 } ∧
    ((run (.beat 0 0) (mbrIn 0 (pMbr 0x10 0 (toBytes 16 2)))).nbr 1 1).suspended = 100000000 ∧
    (mbrS 0).judgeOf 1 1 = 0 ∧ (run (.beat 0 0) (mbrIn 0 (pMbr 0x10 0 (toBytes 16 1)))).mbr.confirmed = [65536 + 1] := by decide +kernel
theorem test_suspect : (mbrS 0).liveRanks 1 = [0, 1] ∧
    slFind (run (.suspect 0 0) (mbrIn 0 (pMbr 0x11 0 (toBytes 2 1 ++ toBytes 3 6 ++ toBytes 11 0)))).mbr.probes (mbrKey 1 1) = some (1, 1) := by
  decide +kernel
theorem test_probe : (run (.probe 0 0) (mbrIn 0 (pMbr 0x12 0 (toBytes 4 5 ++ toBytes 12 1)))).txCount 0 = 1 := by decide +kernel
theorem test_probe_reply : let s := fun n => { mbrIn 0 (pMbr 0x13 0 (toBytes 4 5 ++ toBytes 12 n)) with mbr := { probes := [(65537, (5, 1))] } }
    (run (.probeReply 0 0) (s 0)).mbr.probes = [] ∧ (run (.probeReply 0 0) (s 0)).mbr.confirmed = [] ∧
    (run (.probeReply 0 0) (s 1)).mbr.confirmed = [65537] := by decide +kernel
theorem test_probe_timeout : let s := fun a => { mbrS 0 with mbr := { probes := [(65537, (5, a))], probeNo := 5 } }
    (run (.probeTimeout 1 1) (s 1)).mbr.probes = [(65537, (6, 2))] ∧ (run (.probeTimeout 1 1) (s 2)).mbr.confirmed = [65537] ∧
    (run (.probeTimeout 1 1) (s 2)).mbr.probes = [] := by decide +kernel
theorem test_member_foreign : let s := mbrIn 0 { pMbr 0x10 0 (toBytes 16 0) with srcBib := 8 }
    s.bookFind 8 = none ∧ (run (.beat 0 0) s).get F.GRP_STATUS_code 0 = 3 ∧ (run (.beat 0 0) s).get F.GRP_STALE_CNT_foreign 0 = 1 := by
  decide +kernel
/-- A pending advance of group 1 to epoch e with the member array at HBM 0x1040. -/
def advS (e : Nat) : State :=
  (((((mbrS 0).put F.GRP_SEL_group 0 1).stH 0x44 4 e).stH 0x58 8 0x1040).stH 0x4F 1 3).stH 0x1040 16 5 |>.stH 0x1050 16 (6 + 2 ^ 32)
theorem test_advance : (advS 3).grpOk 1 0x1040 = true ∧ (run .grpAdvance (advS 3)).grpEpoch 1 = 3 ∧
    (run .grpAdvance (advS 3)).grpMem 1 = 0x1040 ∧ bit ((run .grpAdvance (advS 3)).grpF 1 15 1) 1 = false := by decide +kernel
theorem test_advance_refused : (run .grpAdvance (advS 2)).grpEpoch 1 = 2 ∧ (run .grpAdvance (advS 2)).get F.GRP_STATUS_code 0 = 2 ∧
    (run .grpAdvance (advS 0xFFFFFFFF)).grpEpoch 1 = 2 ∧ bit ((run .grpAdvance (advS 2)).grpF 1 15 1) 1 = false := by decide +kernel
theorem test_batch_end : run (.decreeBatchEnd 1) (mbrS 0) = mbrS 0 ∧ let s := { mbrS 0 with mbr := { confirmed := [65537] } }
    s.assign 1 [1] [] = [(1, some 7)] ∧
    slFind (run (.decreeBatchEnd 1) s).mbr.adopted 1 = some { group := 1, epoch := 3, base := 2, total := 1, ents := [(1, some 7)] } ∧
    (run (.decreeBatchEnd 1) s).mbr.confirmed = [] := by decide +kernel
/-- A decree of epoch e and `n` entries that gives rank r the bib x. -/
def dDec (e n r x : Nat) : List Byte := toBytes 4 e ++ toBytes 4 2 ++ toBytes 4 n ++ toBytes 4 0 ++ decreeEnt (r, some x)
def decIn (e n r x : Nat) : State := mbrIn 0 (pMbr 0x14 0 (dDec e n r x))
theorem test_decree_kept : decreeOk (pMbr 0x14 0 (dDec 3 2 1 7)) = true ∧
    (run (.decree 0 0) (decIn 3 2 1 7)).mbr.parts = [{ group := 1, epoch := 3, base := 2, total := 2, ents := [(1, some 7)] }] := by decide +kernel
theorem test_decree_adopted : slFind (run (.decree 0 0) (decIn 3 1 1 7)).mbr.adopted 1 =
      some { group := 1, epoch := 3, base := 2, total := 1, ents := [(1, some 7)] } ∧
    (run (.decree 0 0) (decIn 3 1 1 7)).mbr.noVote = [] ∧ (run (.decree 0 0) (decIn 2 1 1 7)).mbr = (decIn 2 1 1 7).mbr := by decide +kernel
theorem test_decree_names_this_module : (decIn 3 1 1 5).bib = 5 ∧ (decIn 3 1 1 5).mbr.parts = [] ∧ slFind (decIn 3 1 1 5).mbr.adopted 1 = none ∧
    (decIn 3 1 1 5).grpEpoch 1 = 2 ∧ (decIn 3 1 1 5).grpValid 1 = true ∧
    slFind (run (.decree 0 0) (decIn 3 1 1 5)).mbr.adopted 1 = some { group := 1, epoch := 3, base := 2, total := 1, ents := [(1, some 5)] } := by
  decide +kernel
theorem test_decree_member : (decIn 3 1 1 7).memberIs 0 0 0x14 ((pMbr 0x14 0 (dDec 3 1 1 7)).head ++ dDec 3 1 1 7) := by
  unfold State.memberIs State.packetIs; decide +kernel
theorem test_decree_contradicts : let s := { decIn 3 1 1 7 with mbr := { adopted := [(1, { group := 1, epoch := 3, base := 2, total := 1, ents := [(1, none)] })] } }
    (run (.decree 0 0) s).mbr.noVote = [1] ∧ (run (.decree 0 0) s).get F.GRP_STATUS_code 0 = 0x0B := by decide +kernel
theorem test_decree_leaves : (run (.decree 0 0) (decIn 3 1 0 7)).grpValid 1 = false ∧
    (run (.decree 0 0) (decIn 3 1 0 7)).get F.GRP_STATUS_code 0 = 0x0D ∧ (run (.decree 0 0) (decIn 3 1 1 9)).get F.GRP_STATUS_code 0 = 0x0C := by
  decide +kernel
theorem test_beat_off_multiple : let s := { mbrS 0 with pacer := { time := 5000 } }
    s.atMultiple (s.get F.GRP_MBR_CFG_beat_us 0) = false ∧ (mbrS 0).atMultiple ((mbrS 0).get F.GRP_MBR_CFG_beat_us 0) = true ∧
    run (.beatSend 1) s = s := by decide +kernel
theorem test_member_reserved : let p := { pMbr 0x10 0 (toBytes 16 0) with tensor := 1 }
    let r := { pMbr 0x10 0 (toBytes 16 0) with hops := 9 + 64 }
    p.plainHead = false ∧ Pkt.reservedSet (r.head ++ r.data) = true ∧ (run (.beat 0 0) (mbrIn 0 p)).get F.GRP_STATUS_code 0 = 3 ∧
    (run (.beat 0 0) (mbrIn 0 r)).get F.GRP_STATUS_code 0 = 3 := by decide +kernel
/-- A decree for group 2, which is not valid here, and which does not name this module. -/
theorem test_decree_foreign : let s := mbrIn 0 { pMbr 0x14 0 (dDec 3 1 1 7) with group := 2 }
    s.grpValid 2 = false ∧ (run (.decree 0 0) s).get F.GRP_STALE_CNT_foreign 0 = 1 ∧ (run (.decree 0 0) s).mbr = s.mbr := by decide +kernel
/-- The first decree of epoch 3 named a member that the route book does not hold. -/
theorem test_decree_refused : let t := run (.decree 0 0) (decIn 3 1 1 9)
    let s := { decIn 3 1 1 7 with mbr := t.mbr }
    (slFind t.mbr.refused 1).map (fun d => d.ents) = some [(1, some 9)] ∧ (run (.decree 0 0) s).mbr.noVote = [1] ∧
    (run (.decree 0 0) s).get F.GRP_STATUS_code 0 = 0x0B := by decide +kernel

/-! ### Snapshots, restore, fills (SnapshotCopies, RestoreFetches, FillTraffic) -/

/-- A snapshot packet of a kind from bib 6 has arrived at a state. -/
def snpIn (s : State) (k : Nat) (d : List Byte) : State :=
  let p : Pkt := { kind := k, group := 0, hops := 9, epoch := 0, srcBib := 6, srcRank := 0, dstRank := 0, route := 0, len := d.length, data := d }
  s.setLnk 0 { held := [8, 8, 8, 8], inbox := [(0, p.head ++ p.data)] }
/-- Snapshots go to bib 6 and bib 7; a run of lap 9 of two chunks has sent `n` of them. -/
def runS (n : Nat) (c : SnpCopy) : State :=
  let r : SnpRun := { lap := 9, pos := 1, time := 2, bank := 0, sects := [], head := [], bytes := 2 ^ 26 + 64, next := n,
                      digests := [[1]], copies := [c, { bib := 7, ok := true }] }
  { (mbrS 0).puts 0 [(F.SNP_BUDDY0_en, 1), (F.SNP_BUDDY0_bib, 6), (F.SNP_BUDDY1_en, 1), (F.SNP_BUDDY1_bib, 7)] with snp := { run := some r } }
def cpy6 : SnpCopy := { bib := 6, ok := true }
/-- What the acknowledgement of chunk k with a bad flag holds. -/
def dAck (k b : Nat) : List Byte := toBytes 8 9 ++ toBytes 4 k ++ toBytes 4 b
/-- The copies of the run. -/
def copiesOf (s : State) : List SnpCopy := (s.snp.run.map (fun r => r.copies)).getD []

theorem test_snp_now : (run .snpNow base).snp.now = true := by decide +kernel
/-- A snapshot packet's bytes. -/
def pSnp (k : Nat) (d : List Byte) : List Byte :=
  ({ kind := k, group := 0, hops := 9, epoch := 0, srcBib := 6, srcRank := 0, dstRank := 0, route := 0, len := d.length, data := d } : Pkt).head ++ d
theorem test_snp_packet : (snpIn (runS 1 cpy6) 0x19 (dAck 0 0)).snpIs 0 0 0x19 (pSnp 0x19 (dAck 0 0)) := by
  unfold State.snpIs State.packetIs; decide +kernel
theorem test_transfer_fails : let s := { runS 1 { cpy6 with ok := false } with links := [] }.put F.RLY_STATE_state 0 2
    (run .snapshotTransfer s).get F.SNP_STATUS_code 0 = 3 ∧ (run .snapshotTransfer s).snp.run = none := by decide +kernel
/-- The next chunk of the run was read before; with the first channel of stack 0 out of service a chunk that was not cannot be read. -/
def sentS (c : SnpCopy) : State :=
  { runS 1 c with snp := { run := (runS 1 c).snp.run.map (fun r => { r with sent := [(1, [5])], sects := [(1, 0, 2 ^ 26 + 64, 0x4000)] }) } }
theorem test_transfer_sends : (sentS cpy6).live = true ∧ (copiesOf (sentS cpy6)).map (fun c => (c.complete, (sentS cpy6).snpRoute c.bib)) =
      [(false, true), (false, true)] ∧ let t := run .snapshotTransfer (sentS cpy6)
    t.snp.run.map (fun r => (r.next, r.digests.length)) = some (2, 2) ∧ (copiesOf t).map (fun c => c.ok) = [true, true] ∧
    t.snp.run.map (fun r => slFind r.sent 1) = some (some [5]) := by decide +kernel
theorem test_transfer_read_fails : let u := sentS cpy6
    let s := { u with snp := { run := u.snp.run.map (fun r => { r with sent := [] }) }, flt := { u.flt with quar := [7 * 2 ^ 24] } }
    (s.snp.run.map (fun r => (s.runMeet r r.next).2)) = some true ∧ (run .snapshotTransfer s).snp.run = none ∧
    (run .snapshotTransfer s).get F.SNP_STATUS_code 0 = 3 := by decide +kernel
theorem test_run_quiet : (sentS cpy6).hbmQuiet := (quiet_of (by decide +kernel) (by decide +kernel) (by decide +kernel)).1
theorem test_chunk_ack : (copiesOf (run (.chunkAck 0 0) (snpIn (runS 1 cpy6) 0x19 (dAck 0 0)))).map (fun c => c.acks) = [[0], []] ∧
    (copiesOf (run (.chunkAck 0 0) (snpIn (runS 1 { cpy6 with resent := [0] }) 0x19 (dAck 0 1)))).map (fun c => c.ok) = [false, true] ∧
    run (.chunkAck 0 0) (snpIn (runS 0 cpy6) 0x19 (dAck 0 0)) = (snpIn (runS 0 cpy6) 0x19 (dAck 0 0)).packetTake 0 0 := by decide +kernel
theorem test_manifest_ack : let s := snpIn (runS 2 { cpy6 with manifest := true }) 0x19 (dAck 0xFFFFFFFF 0)
    (copiesOf (run (.manifestAcknowledgement 0 0) s)).map (fun c => c.complete) = [true, false] ∧
    let r := { snpIn (runS 2 { cpy6 with manifest := true }) 0x19 (dAck 0xFFFFFFFF 0) with snp := { run := some { ((runS 2 cpy6).snp.run.getD
      { lap := 0, pos := 0, time := 0, bank := 0, sects := [], head := [], bytes := 0, copies := [] }) with copies :=
        [{ cpy6 with manifest := true }, { bib := 7, ok := true, complete := true }] } } }
    (run (.manifestAcknowledgement 0 0) r).snp.run = none ∧ (run (.manifestAcknowledgement 0 0) r).get F.SNP_STATUS_code 0 = 1 ∧
    (run (.manifestAcknowledgement 0 0) r).get F.SNP_LAST_lap 0 = 9 := by decide +kernel
/-- Bib 6 is ward 0, with slots of one chunk; lap 9 is being written to slot 0. -/
def vltS (m : List Byte) : State :=
  { (mbrS 0).puts 0 [(F.SNP_WARD0_en, 1), (F.SNP_WARD0_bib, 6), (F.SNP_VAULT_HI_slot_chunks, 1), (F.SNP_VAULT_HI_base_hi, 1)] with
    snp := { slots := [(0, { lap := 9, st := 1, manifest := m })] } }
/-- A chunk packet: chunk k, flags f, then four bytes after the digest. -/
def dChunk (k f : Nat) : List Byte := toBytes 8 9 ++ toBytes 4 k ++ toBytes 4 4 ++ toBytes 4 0 ++ toBytes 4 f ++ zeros 64 ++ [1, 2, 3, 4]
theorem test_chunk_refused : (mbrS 0).wardOf 6 = none ∧ (run (.chunkToBuddy 0 0) (snpIn (mbrS 0) 0x18 (dChunk 0 3))).get F.SNP_STATUS_code 0 = 5 ∧
    (run (.manifestToBuddy 0 0) (snpIn (mbrS 0) 0x1A (toBytes 16 9))).get F.SNP_STATUS_code 0 = 0 := by decide +kernel
theorem test_chunk_first : let t := run (.chunkToBuddy 0 0) (snpIn (vltS []) 0x18 (dChunk 0 1))
    (vltS []).wardOf 6 = some 0 ∧ (vltS []).slotFor 0 9 = 0 ∧ slFind t.snp.rxBuf 0 = some (zeros 64, [1, 2, 3, 4]) ∧ ((vltS []).ward 0).2.1 = false ∧
    t.slot 0 0 = { lap := 9, st := 1 } := by decide +kernel
theorem test_chunk_whole : let t := run (.chunkToBuddy 0 0) ((snpIn (vltS []) 0x18 (dChunk 0 3)).put F.RLY_STATE_state 0 2)
    t.ldBytes ((vltS []).slotBase 0 0 + 2 ^ 23) 4 = [1, 2, 3, 4] ∧ (t.slot 0 0).chunks = [(0, 4)] ∧ (t.slot 0 0).digests = [(0, zeros 64)] ∧ t.freeCtr = 1 ∧
    (run (.chunkToBuddy 0 0) (snpIn (vltS []) 0x18 (dChunk 1 3))).mem = (vltS []).mem := by decide +kernel
theorem test_manifest_part : ((run (.manifestToBuddy 0 0) (snpIn (vltS []) 0x1A (toBytes 8 9 ++ toBytes 4 8 ++ zeros 4 ++ [1, 2]))).slot 0 0).manifest =
      [1, 2] ∧ let t := run (.manifestToBuddy 0 0) (snpIn (vltS []) 0x1A (toBytes 8 9 ++ toBytes 4 2 ++ zeros 4 ++ [1, 2]))
    t.ldBytes ((vltS []).slotBase 0 0) 2 = [1, 2] ∧ (t.slot 0 0).st = 1 := by decide +kernel

/-- A restore descriptor at HBM 0xC000: lap 9 of bib 6, sources bib 6 and bib 7, no local copy. -/
def rstS : State := ((mbrS 0).wr R.SNP_RESTORE_LO 0 0xC000).stH 0xC000 17 (9 + 6 * 2 ^ 64 + 6 * 2 ^ 88 + 7 * 2 ^ 112)
/-- A restore asks its first or only source. -/
def rstR (l : List Nat) (m : Option (List Byte)) : State :=
  { rstS with snp := { restore := some { desc := rstS.ldBytes 0xC000 64, src := 1, srcs := l, manifest := m, home := 1 } } }
/-- With no route to either source, a restore without a local copy ends. -/
theorem test_restore_nowhere : let s := rstS.put F.RLY_STATE_state 0 2
    s.snpRoute 6 = false ∧ s.snpRoute 7 = false ∧ rst.local_ (s.ldBytes 0xC000 64) = 0 ∧ (run .snpRestore s).snp.restore = none ∧
    (run .snpRestore s).get F.SNP_STATUS_code 0 = 8 := by decide +kernel
theorem test_restore : rstS.snpRoute (rst.src (rstS.ldBytes 0xC000 64) 1) = true ∧ rst.local_ (rstS.ldBytes 0xC000 64) = 0 ∧ let t := run .snpRestore rstS
    t.snp.restore = some { desc := rstS.ldBytes 0xC000 64, src := 1, srcs := [2] } ∧ t.get F.PCR_SPT_CTRL_arm 0 = 0 ∧
    t.txCount 0 = 1 ∧ run .snpRestore (rstR [] none) = rstR [] none := by decide +kernel
theorem test_fetch_served : let s := { vltS [] with snp := { slots := [(0, { lap := 9, st := 2, manifest := [1, 2], chunks := [(0, 4)] })] } }
    let r := fun k => snpIn s 0x1C (toBytes 8 9 ++ toBytes 4 6 ++ toBytes 4 k)
    (run (.restoreFetchRequest 0 0) (r 0xFFFFFFFF)).txCount 0 = 1 ∧ (run (.restoreFetchRequest 0 0) (r 0)).txCount 0 = 1 ∧
    (run (.restoreFetchRequest 0 0) (r 1)).txCount 0 = 0 := by decide +kernel
/-- A reply for lap 9 of bib 6: item k or length n, at offset 0, then bytes. -/
def dRep (n : Nat) (bs : List Byte) : List Byte := toBytes 4 6 ++ toBytes 8 9 ++ toBytes 4 n ++ toBytes 4 0 ++ bs
theorem test_reply_manifest : (rstR [] none).replyOk (Pkt.ofBytes (pSnp 0x1D (dRep 2 [5, 6]))) = true ∧
    ((run (.restoreFetchReply 0 0) (snpIn (rstR [] none) 0x1D (dRep 9 [5, 6]))).snp.restore.map (fun r => r.buf)) = some [5, 6] ∧
    (run (.restoreFetchReply 0 0) (snpIn (rstR [] none) 0x1D (dRep 2 [5, 6]))).snp.restore = none ∧
    (run (.restoreFetchReply 0 0) (snpIn (rstR [] none) 0x1D (dRep 2 [5, 6]))).get F.SNP_STATUS_code 0 = 8 := by decide +kernel
/-- A chunk reply of chunk k: flags 3, a digest, four bytes. -/
def dRepC (k : Nat) : List Byte :=
  toBytes 4 6 ++ toBytes 8 9 ++ toBytes 4 k ++ toBytes 4 4 ++ toBytes 4 0 ++ toBytes 4 3 ++ zeros 64 ++ [1, 2, 3, 4]
theorem test_reply_chunk : let m := zeros 32 ++ toBytes 8 64 ++ toBytes 4 2 ++ zeros 300
    let p := Pkt.ofBytes (zeros 48 ++ dRepC 0)
    p.f 12 4 = 0 ∧ chunkHdrOk p 4 = true ∧ p.f 24 1 = 3 ∧ ¬((((p.data.take 96).drop 28).drop 64).length = chunkLen m 0) ∧
    (rstR [] (some m)).snp.restore.map (fun r => (r.manifest, r.chunk)) = some (some m, 0) := by decide +kernel
theorem test_restore_quiet : (vltS []).hbmQuiet := (quiet_of (by decide +kernel) (by decide +kernel) (by decide +kernel)).1
/-- The data-parallel group is group 1; a fill packet from its other member has arrived at a state. -/
def fillIn (s : State) (k : Nat) (d : List Byte) : State :=
  let p := pMbr k 0 d
  { s with gates := some (1, 1) }.setLnk 0 { held := [8, 8, 8, 8], inbox := [(0, p.head ++ p.data)] }
theorem test_fill_packet : (fillIn (mbrS 0) 0x1B (toBytes 26 9)).fillIs 0 0 0x1B ((pMbr 0x1B 0 (toBytes 26 9)).head ++ toBytes 26 9) := by
  unfold State.fillIs State.packetIs; decide +kernel
theorem test_lap_cut : let d := toBytes 8 9 ++ toBytes 4 1 ++ toBytes 4 2 ++ zeros 8 ++ [5, 6]
    (run (.lapCut 0 0) (fillIn (mbrS 0) 0x1B d)).snp.cuts = [(1, [(9, [5, 6])])] ∧
    let f : OwnFill := { rank := 1, epoch := 2, failed := 6, lap := 10, pos := 0, holder := 1 }
    ((run (.lapCut 0 0) (fillIn { mbrS 0 with snp := { own := some f } } 0x1B d)).snp.own.map (fun f => f.cut)) = some [(9, [5, 6])] := by
  decide +kernel
/-- A spare on lap 3 is told by the cut that lap 10 is to be replayed, and asks for it. -/
theorem test_lap_cut_tells : let d := toBytes 8 9 ++ toBytes 4 1 ++ toBytes 4 2 ++ zeros 8 ++ [5, 6]
    let f : OwnFill := { rank := 1, epoch := 2, failed := 6, lap := 3, pos := 0, holder := 1 }
    let t := run (.lapCut 0 0) (fillIn { mbrS 0 with snp := { own := some f } } 0x1B d)
    t.snp.own.map (fun g => (g.lap, g.pos, g.holder)) = some (10, 0, 1) ∧ t.snp.own.map (fun g => g.cut) = some [(9, [5, 6])] ∧ t.txCount 0 = 1 := by
  decide +kernel
/-- A fill request for rank 1, chunk 0. -/
def dReq : List Byte := toBytes 4 1 ++ zeros 20 ++ toBytes 4 2 ++ toBytes 4 1 ++ zeros 16
theorem test_fill_request : let s := fillIn ({ mbrS 0 with lap := { step := 7 } }.put F.GRP_LAP_VERDICT_outcome 0 0) 0x20 dReq
    dReq.length = 48 ∧ s.fillHeld = true ∧ (run (.fillRequest 0 0) s).snp.late = [(1, dReq)] ∧ (fillIn (mbrS 0) 0x20 dReq).fillHeld = false ∧
    at_ dReq 28 2 = 1 ∧ at_ dReq 32 4 = 0 := by decide +kernel
/-- This module fills rank 1 from the other member; the chunk `next` is awaited. -/
def ownS (resent : Bool) : State :=
  { mbrS 0 with snp := { own := some { rank := 1, epoch := 2, failed := 6, lap := 10, pos := 0, holder := 1, resent := resent } } }
/-- A fill chunk packet: flags f, a digest, four bytes. -/
def dFill (f : Nat) : List Byte :=
  toBytes 4 2 ++ toBytes 4 1 ++ toBytes 4 0 ++ toBytes 4 4 ++ toBytes 4 0 ++ toBytes 4 f ++ zeros 64 ++ [1, 2, 3, 4]
theorem test_fill_chunk_first : ((run (.fillChunk 0 0) (fillIn (ownS false) 0x21 (dFill 1))).snp.own.map (fun f => f.buf)) = some [1, 2, 3, 4] := by
  decide +kernel
theorem test_fill_chunk_last : let p := Pkt.ofBytes ((pMbr 0x21 0 (dFill 3)).head ++ dFill 3)
    p.f 20 1 = 3 ∧ p.f 8 4 = 0 ∧ p.srcRank = 1 ∧ ¬((((p.data.take p.len).drop 24).drop 64).length = p.f 12 4 + 1) ∧
    (((p.data.take p.len).drop 24).drop 64).length = p.f 12 4 ∧
    ({ ownS true with gates := some (1, 1) } : State).holders 0 = [1] := by decide +kernel
/-- A chunk that matches under the request made before the last one comes to nothing. -/
theorem test_fill_chunk_old : let f : OwnFill := { rank := 1, epoch := 2, failed := 6, lap := 10, pos := 0, holder := 1, req := [8], olds := [[7]] }
    let s := { mbrS 0 with snp := { own := some f } }
    let d := toBytes 4 2 ++ toBytes 4 1 ++ toBytes 4 0 ++ toBytes 4 4 ++ toBytes 4 0 ++ toBytes 4 3
    (run (.fillChunk 0 0) (fillIn s 0x21 (d ++ chunkDigest [7] 0 [1, 2, 3, 4] ++ [1, 2, 3, 4]))).snp.own = some f := by
  decide +kernel
/-- The plan at HBM 0xB000: one region of 2^27 bytes, held by every replica; this module serves chunk k to rank 1. -/
def srvS (k : Nat) (resent : Bool) : State :=
  { (((mbrS 0).wr R.SNP_PLAN_LO 0 0xB000).stH 0xB000 1 1).stH 0xB018 8 (2 ^ 27) with
    gates := some (1, 1), snp := { serve := [{ rank := 1, spare := 6, spareRank := 1, req := dReq, chunk := k, resent := resent }] } }
def dFack (k b : Nat) : List Byte := toBytes 4 2 ++ toBytes 4 1 ++ toBytes 4 k ++ toBytes 4 b
set_option maxRecDepth 1000000 in
theorem test_fill_length : (srvS 0 false).fillN = 3 := by decide +kernel
set_option maxRecDepth 1000000 in
theorem test_fill_ack : (run (.fillAck 0 0) (fillIn (srvS 2 false) 0x22 (dFack 2 0))).snp.serve = [] ∧
    (run (.fillAck 0 0) (fillIn (srvS 0 false) 0x22 (dFack 1 0))).snp.serve = (srvS 0 false).snp.serve := by decide +kernel
theorem test_fill_quiet : (fillIn (srvS 0 false) 0x22 (dFack 0 1)).hbmQuiet :=
  (quiet_of (by decide +kernel) (by decide +kernel) (by decide +kernel)).1
set_option maxRecDepth 1000000 in
theorem test_fill_chunk_good : let f : OwnFill := { rank := 1, epoch := 2, failed := 6, lap := 10, pos := 0, holder := 1, req := [8] }
    let s := { srvS 0 false with snp := { own := some f } }
    let d := toBytes 4 2 ++ toBytes 4 1 ++ toBytes 4 0 ++ toBytes 4 4 ++ toBytes 4 0 ++ toBytes 4 3
    let t := run (.fillChunk 0 0) (fillIn s 0x21 (d ++ chunkDigest [8] 0 [1, 2, 3, 4] ++ [1, 2, 3, 4]))
    t.snp.own.map (fun g => (g.next, g.stream)) = some (1, [1, 2, 3, 4]) := by decide +kernel
theorem test_fill_nak : (run (.fillAck 0 0) (fillIn (srvS 0 true) 0x22 (dFack 0 1))).snp.serve = [] := by decide +kernel
theorem test_fill_done : let s := { srvS 0 false with snp := { (srvS 0 false).snp with fills := [{ rank := 1, epoch := 2, failed := 6, spare := 7 }] } }
    let d := fun n => toBytes 4 2 ++ toBytes 2 1 ++ toBytes 1 n ++ zeros 17
    ((run (.fillDone 0 0) (fillIn s 0x23 (d 0))).snp.fills.map (fun f => f.done)) = [true] ∧
    (run (.fillDone 0 0) (fillIn s 0x23 (d 0))).snp.serve = [] ∧ (run (.fillDone 0 0) (fillIn s 0x23 (d 1))).get F.SNP_STATUS_code 0 = 0x10 := by
  decide +kernel
/-- A manifest of lap 9 of bib 6 with two chunks and no section, whose first chunk is [1, 2, 3, 4]; a signature that verifies under the
neutral point. -/
def mHead : List Byte := toBytes 4 1 ++ toBytes 4 6 ++ toBytes 8 9 ++ zeros 16 ++ toBytes 8 4 ++ toBytes 4 2 ++ toBytes 4 0
def mGood : List Byte := mHead ++ zeros 80 ++ chunkDigest mHead 0 [1, 2, 3, 4] ++ zeros 64 ++ (1 :: zeros 56) ++ zeros 57
def rstK (m : Option (List Byte)) : State :=
  let s := (rstS.stH 0xC028 8 0xD000).stH 0xD000 1 1
  { s with snp := { restore := some { desc := s.ldBytes 0xC000 64, src := 1, srcs := [2], manifest := m, home := 1, rest := [2] } } }
set_option maxRecDepth 100000 in
theorem test_reply_manifest_good : mGood.length = manifestLen mGood ∧ (rstK none).manifestFits ((rstK none).ldBytes 0xC000 64) mGood = true ∧
    at_ mGood 40 4 = 2 ∧ ((run (.restoreFetchReply 0 0) (snpIn (rstK none) 0x1D (dRep mGood.length mGood))).snp.restore.map
      (fun r => (r.manifest, r.home))) = some (some mGood, 1) := by decide +kernel
set_option maxRecDepth 100000 in
theorem test_reply_chunk_good : let d := toBytes 4 6 ++ toBytes 8 9 ++ toBytes 4 0 ++ toBytes 4 4 ++ toBytes 4 0 ++ toBytes 4 3
    let t := run (.restoreFetchReply 0 0) (snpIn (rstK (some mGood)) 0x1D (d ++ zeros 64 ++ [1, 2, 3, 4]))
    chunkLen mGood 0 = 4 ∧ manifestDigest mGood 0 = chunkDigest (mGood.take 48) 0 [1, 2, 3, 4] ∧
    t.snp.restore.map (fun r => (r.got, r.chunk, r.src)) = some ([1, 2, 3, 4], 1, 1) := by decide +kernel

/-! ### Faults (QuarantineRemaps, RequalifyAndTest, TakeoverRefillPersist) -/

/-- The number of a command's kind and unit. -/
def u24 (n : Nat) : BitVec 24 := BitVec.ofNat 24 n
/-- The code that HUB_FLT_STATUS shows after a command. -/
def fltCode (i : Instr) (s : State) : Nat := (run i s).get F.HUB_FLT_STATUS_code 0

theorem test_quarantine_refused : fltUnitOk 10 0 = false ∧ fltUnitOk 1 33 = false ∧ fltUnitOk 1 32 = true ∧
    fltCode (.faultQuarantine 10 0) base = 0x0A ∧ (run (.faultQuarantine 10 0) base).flt = base.flt ∧
    fltCode (.faultQuarantine 3 0) (base.setClu c0 { refillPend := true }) = 0x0B := by decide +kernel
theorem test_quarantine_core : base.activeCores c0 = [0, 1] ∧ base.holdsPos c0 = true ∧ base.quarIs 2 0 = false ∧
    base.quarIs 2 (coreUnit (coreNo c0 2)) = false ∧ let t := run (.faultQuarantine 2 0) base
    t.quarIs 2 0 = true ∧ t.mapped.activeCores c0 = [2, 1] ∧ t.activeCores c0 = [0, 1] ∧ (t.clu c0).refillPend = true ∧ t.flt.dirty = true ∧
    t.flt.mapDue = [2 * 2 ^ 24 + coreUnit (coreNo c0 2)] := by decide +kernel
theorem test_quarantine_cluster : base.activeClus 0 = [0] ∧ base.quarIs 3 0 = false ∧ let t := run (.faultQuarantine 3 0) base
    t.mapped.activeClus 0 = [1] ∧ t.activeClus 0 = [0] ∧ t.dom (.cluster c0) = .off ∧ t.dom (.cluster c1) = .on ∧
    (t.clu c1).refillPend = true := by decide +kernel
theorem test_quarantine_die : base.altFor 0 = true ∧ (run (.faultQuarantine 4 0) base).flt.takeovers = [0] ∧
    let s := { base with flt := { base.flt with alt := none } }
    s.altFor 0 = false ∧ (run (.faultQuarantine 4 0) s).flt.degraded = true ∧ (run (.faultQuarantine 4 0) s).flt.takeovers = [] := by
  decide +kernel
/-- Die 1 waits for its takeover while die 0 meets a core's and a cluster's fault; die 0, the alternate without a position, is lost. -/
theorem test_quarantine_queued : let s := { base with flt := { base.flt with dieMap := [0, 1], takeovers := [1] } }
    s.takeoverNear 0 = true ∧ s.quarIs 2 0 = false ∧ s.quarIs 3 0 = false ∧ s.fltBusy 2 0 = false ∧ s.fltBusy 3 0 = false ∧
    s.flt.alt = some 16 ∧ (run (.faultQuarantine 2 0) s).flt.queued = [(0, 2 * 2 ^ 24)] ∧
    (run (.faultQuarantine 3 0) s).flt.queued = [(0, 3 * 2 ^ 24)] ∧ (run (.faultQuarantine 2 0) s).flt.coreNext = [] := by decide +kernel
theorem test_quarantine_alternate : let s := { base with flt := { base.flt with dieMap := [1], alt := some 0 } }
    let w := { s with flt := { s.flt with takeovers := [1] } }
    s.fltBusy 4 0 = false ∧ s.quarIs 4 0 = false ∧ (run (.faultQuarantine 4 0) s).flt.alt = none ∧
    (run (.faultQuarantine 4 0) s).flt.degraded = false ∧ w.fltBusy 4 0 = true ∧ fltCode (.faultQuarantine 4 0) w = 0x0B := by
  decide +kernel
theorem test_quarantine_others : (run (.faultQuarantine 6 0) up0).get F.RLY_STATE_state 0 = 5 ∧
    (run (.faultQuarantine 7 0x203) base).flt.degraded = true ∧ (run (.faultQuarantine 7 0x203) base).quarIs 7 0x203 = true ∧
    (run (.faultQuarantine 5 0x104) base).quarIs 5 0x104 = true ∧ (run (.faultQuarantine 8 7) base).quarIs 8 7 = true := by decide +kernel
theorem test_quarantine_steward : let s := { base with starter := { stewReady := true, stk := [(2, [(7, 3)])] } }
    let t := run (.faultQuarantine 9 2) s
    t.stack 2 = [] ∧ t.srcPend 7 = true ∧ t.quarIs 9 2 = true := by decide +kernel
theorem test_quarantine_column : base.get F.CORE_COLMAP_retired_col (coreU k0) = 32 ∧
    (run (.faultQuarantine 1 32) base).get F.CORE_COLMAP_spare_avail (coreU k0) = 0 ∧
    base.flag F.CORE_COLMAP_spare_avail (coreU k0) = true ∧ base.get F.CORE_COLMAP_retired_col_next (coreU k0) = 32 ∧
    let t := run (.faultQuarantine 1 5) base
    t.get F.CORE_COLMAP_retired_col_next (coreU k0) = 5 ∧ t.flt.coreMap = base.flt.coreMap ∧
    (run (.faultQuarantine 1 9) t).quarIs 2 0 = true ∧
    (run (.faultQuarantine 1 5) (base.put F.CORE_COLMAP_spare_avail (coreU k0) 0)).quarIs 2 0 = true := by decide +kernel
/-- A core whose column 9 a test finds lasting does not come back. -/
theorem test_requalify_column : let s := { base with flt := { base.flt with quar := [2 * 2 ^ 24] } }
    colIn 2 0 (k0, 9) = true ∧ colsPass 2 [k0] = false ∧ colsPass 2 [] = true ∧
    (run (.faultRequalify 2 0 ⟨[⟨k0, 9, true⟩], true⟩) s).quarIs 2 0 = true ∧
    fltCode (.faultRequalify 2 0 ⟨[⟨k0, 9, true⟩], true⟩) s = 7 ∧ fltCode (.faultTest 2 0 ⟨[⟨k0, 9, true⟩], true⟩) base = 7 ∧
    fltCode (.faultTest 2 0 ⟨[⟨k0, 9, false⟩], true⟩) base = 6 := by decide +kernel
theorem test_requalify : run (.faultRequalify 3 0 ⟨[], true⟩) base = base ∧
    let s := { base with flt := { base.flt with quar := [3 * 2 ^ 24 + 0x5000] } }
    s.unitOut 3 0x5000 = true ∧ fltCode (.faultRequalify 3 (u24 0x5000) ⟨[], true⟩) s = 6 ∧
    (run (.faultRequalify 3 (u24 0x5000) ⟨[], true⟩) s).unitOut 3 0x5000 = false ∧
    fltCode (.faultRequalify 3 (u24 0x5000) ⟨[], false⟩) s = 7 ∧ (run (.faultRequalify 3 (u24 0x5000) ⟨[], false⟩) s).flt = s.flt ∧
    (run (.faultRequalify 3 (u24 0x5000) ⟨[], false⟩) s).get F.HUB_FLT_LOG_HEAD_head 0 = 1 := by decide +kernel
theorem test_requalify_kinds : let s := { base with flt := { base.flt with quar := [4 * 2 ^ 24 + 2 ^ 19, 5 * 2 ^ 24 + 0x84, 2 ^ 24 + 32] } }
    (run (.faultRequalify 4 (u24 (2 ^ 19)) ⟨[], true⟩) s).flt.alt = some 1 ∧
    (run (.faultRequalify 5 (u24 0x84) ⟨[], true⟩) s).get F.RLY_STATE_rx_spare_avail 0 = 1 ∧
    (run (.faultRequalify 1 32 ⟨[], true⟩) (s.put F.CORE_COLMAP_spare_avail (coreU k0) 0)).get F.CORE_COLMAP_spare_avail (coreU k0) = 1 ∧
    let r := s.put F.RLY_STATE_state 0 5
    let t := run (.faultRequalify 6 0 ⟨[], true⟩) r
    r.unitOut 6 0 = true ∧ t.get F.RLY_STATE_state 0 = 1 ∧ (t.lnk 0).requal = true := by decide +kernel
theorem test_fault_test : fltCode (.faultTest 4 0 ⟨[], true⟩) base = 6 ∧ fltCode (.faultTest 4 0 ⟨[], false⟩) base = 7 ∧
    (run (.faultTest 4 0 ⟨[], false⟩) base).flt = base.flt := by decide +kernel
theorem test_takeover : let s := { base with flt := { base.flt with takeovers := [0] } }
    s.altFor 0 = true ∧ s.flt.alt.isSome = true ∧ let t := s.takeover false
    s.flt.queued = [] ∧
    t.flt.dieMap = [16] ∧ t.flt.alt = some 0 ∧ t.flt.takeovers = [] ∧ t.get F.HUB_FLT_STATUS_code 0 = 4 ∧
    let s2 := { s with flt := { s.flt with alt := none } }
    (s.takeover true).flt.dieMap = [0] ∧ (s.takeover true).flt.degraded = true ∧ s2.altFor 0 = false ∧
    (s2.takeover false).flt.dieMap = [0] ∧ (s2.takeover false).flt.degraded = true := by decide +kernel
theorem test_refill : let m := { base with img := { mirrors := [(0, 0x9000)] } }.stH 0x9000 4 0x12345678
    let s := (m.setClu c0 { refillPend := true }).put F.GOV_CFG_layers (cluU c0) 1
    s.mapped.logClu c0 = some 0 ∧ s.mapped.mirrorAt c0 = some 0x9000 ∧ ((run (.refill c0) s).clu c0).refillPend = false ∧ s.img.store = [] ∧
    ((run (.refill c0) s).clu c0).refreshPend = true ∧
    (run (.refill c0) s).ld (poolAt c0 0) 4 = 0x12345678 := by decide +kernel
theorem test_persist : let s := { base with flt := { base.flt with dirty := true, quar := [6 * 2 ^ 24, 7 * 2 ^ 24], copy0 := { gen := 4 }, copy1 := { gen := 3 } } }
    let t := run .remapPersist s
    t.flt.dirty = false ∧ t.flt.copy1.gen = 5 ∧ t.flt.copy1.tab.quar = [7 * 2 ^ 24] ∧ t.flt.copy0 = { gen := 4 } ∧
    run .remapPersist base = base := by decide +kernel

/-! ### Site time and split timers (SiteTime) -/

/-- A time code for s = v that passes its CRC. -/
def code (v : Nat) : BitVec 80 := BitVec.ofNat 80 (v + crc16 v 64 * 2 ^ 64)
/-- Site time t in 1/256 ns; LOCKED, mark 5 is due and code 4 was accepted. -/
def lockS (t : Nat) : State :=
  { base.put F.PCR_STATE_lock 0 2 with pacer := { time := t, lastS := some 4, markS := some 5, loadNext := false, goodCodes := 2 } }
/-- The site time of mark 5. -/
def t5 : Nat := 5 * 256000000000
/-- Timer u with target g: armed, compare value c, periodic flag, period. -/
def spt (s : State) (u g c per : Nat) : State :=
  (s.put64 R.PCR_SPT_CMP_LO R.PCR_SPT_CMP_HI u c).puts u [(F.PCR_SPT_CTRL_arm, 1), (F.PCR_SPT_CTRL_target, g),
    (F.PCR_SPT_CTRL_periodic, if per = 0 then 0 else 1), (F.PCR_SPT_PERIOD_period, per)]
/-- Base at 1,000 ns. -/
def at1us : State := { base with pacer := { time := 256000 } }
/-- PCR_STATUS code after a command. -/
def pcrCode (i : Instr) (s : State) : Nat := (run i s).get F.PCR_STATUS_code 0

theorem test_code : codeS (code 5).toNat = some 5 ∧ codeS (code 5 ^^^ 1).toNat = none ∧ codeS (code 0).toNat = some 0 := by decide +kernel
theorem test_mark_slew : let t := run (.syncMark (code 5) 1) (lockS (t5 - 24))
    (t.pacer.time, t.pacer.slew, t.pacer.markS, t.get F.PCR_MARK_ERR_err 0) = (t5 - 24, -8, some 5, 2 ^ 32 - 8) ∧
    t.get F.PCR_STATUS_code 0 = 0 := by decide +kernel
theorem test_mark_load : let t := run (.syncMark (code 5) 0) { lockS (t5 + 24) with pacer := { (lockS (t5 + 24)).pacer with loadNext := true } }
    (t.pacer.time, t.pacer.slew) = (t5, 0) ∧ t.get F.PCR_STATUS_code 0 = 0 := by decide +kernel
theorem test_mark_far : (run (.syncMark (code 5) 0) (lockS (t5 - 256000001))).pacer.time = t5 ∧
    pcrCode (.syncMark (code 5) 0) (lockS (t5 - 256000001)) = 4 ∧ pcrCode (.syncMark (code 5) 0) (lockS (t5 + 256000001)) = 5 ∧
    pcrCode (.syncMark (code 5) 0) (lockS (t5 - 256000000)) = 0 ∧ pcrCode (.syncMark (code 5) 0) (lockS (t5 + 256000000)) = 0 := by
  decide +kernel
theorem test_mark_code : pcrCode (.syncMark (code 5 ^^^ 1) 0) base = 6 ∧
    (run (.syncMark (code 5) 0) base).get F.PCR_STATE_lock 0 = 1 ∧
    let s := { base.put F.PCR_STATE_lock 0 1 with pacer := { lastS := some 4, goodCodes := 1 } }
    (run (.syncMark (code 5) 0) s).get F.PCR_STATE_lock 0 = 2 ∧ pcrCode (.syncMark (code 5) 0) s = 1 := by decide +kernel
theorem test_mark_missing : pcrCode .markMissing base = 0 ∧ pcrCode .markMissing (base.put F.PCR_STATE_missed_marks 0 1) = 2 ∧
    (run .markMissing (base.put F.PCR_STATE_missed_marks 0 255)).get F.PCR_STATE_missed_marks 0 = 255 := by decide +kernel
theorem test_sync_clk : (run .syncClkLoss base).get F.PCR_STATE_lock 0 = 3 ∧ pcrCode .syncClkLoss base = 3 ∧
    run .syncClkLoss (run .syncClkLoss base) = run .syncClkLoss base ∧ run .syncClkReturn base = base ∧
    (run .syncClkReturn (run .syncClkLoss base)).get F.PCR_STATE_lock 0 = 2 := by decide +kernel
theorem test_resync : pcrCode .pcrResync { base with lap := { step := 1 } } = 9 ∧ pcrCode .pcrResync { base with lap := { lam := 1 } } = 9 ∧
    (run .pcrResync { base with pacer := { loadNext := false } }).pacer.loadNext = true := by decide +kernel
theorem test_timer_arm : pcrCode (.splitTimerArm 2 1) base = 7 ∧ (run (.splitTimerArm 2 1) base).get F.PCR_STATUS_timer 0 = 2 ∧
    (run (.splitTimerArm 3 1) base).get F.IMG_STATUS_code 0 = 0x12 ∧ (run (.splitTimerArm 3 1) base).get F.PCR_SPT_CTRL_arm 3 = 0 ∧
    let s := { base with claims := [{ scope := 1, ldie := 0, lclu := 0, res := 2, cls := 4, whenN := 0, id := 3, startUs := 0, endUs := 0,
                                      base := 0, len := 0, granted := true }] }
    s.sptClaimed 3 = true ∧ (run (.splitTimerArm 3 0x45) s).get F.PCR_SPT_CTRL_target 3 = 4 ∧
    (run (.splitTimerArm 3 0x41) { s with claims := s.claims.map fun k => { k with cls := 3 } }).get F.PCR_SPT_CTRL_target 3 = 4 ∧
    (run (.splitTimerArm 3 0x15) s).get F.PCR_SPT_CTRL_target 3 = 0 ∧ (run (.splitTimerArm 3 0x15) s).get F.PCR_SPT_CTRL_arm 3 = 1 := by
  decide +kernel
theorem test_timer_before : run (.splitTimerFire 5) (spt at1us 5 0 1001 0) = spt at1us 5 0 1001 0 ∧ run (.splitTimerFire 5) base = base := by
  decide +kernel
theorem test_timer_one_shot : let t := run (.splitTimerFire 0) (spt at1us 0 1 1000 0)
    t.get F.PCR_SPT_CTRL_arm 0 = 0 ∧ t.pacer.lapDue = some 1000 ∧ t.pacer.scanDue = true ∧
    (run (.splitTimerFire 1) (spt at1us 1 2 1000 0)).pacer.scanDue = true ∧ (run (.splitTimerFire 2) (spt at1us 2 3 1000 0)).pacer.planDue = true ∧
    (run (.splitTimerFire 5) (spt at1us 5 4 1000 0)).frozen = true := by decide +kernel
theorem test_timer_irq : let s := ((spt at1us 5 0 1000 0).put F.PCR_SPT_CTRL_irq 5 1).put F.HUB_INT_SRC_prio 2245 3
    (run (.splitTimerFire 5) s).srcPend 2245 = true := by decide +kernel
theorem test_timer_waits : let s := (spt at1us 5 0 1000 0).put F.PWR_STATE_state 0 4
    (run (.splitTimerFire 5) s).pacer.acts = [5] ∧ s.live = false ∧ let s2 := (spt at1us 0 1 1000 0).put F.PWR_STATE_state 0 4
    (run (.splitTimerFire 0) { s2 with pacer := { s2.pacer with acts := [0] } }).pacer.acts = [0] := by decide +kernel
theorem test_timer_periodic : let t := run (.splitTimerFire 5) (spt at1us 5 0 970 10)
    t.get64 R.PCR_SPT_CMP_LO R.PCR_SPT_CMP_HI 5 = 1010 ∧ t.get F.PCR_SPT_CTRL_arm 5 = 1 ∧ t.get F.PCR_SPT_CTRL_missed 5 = 3 ∧
    t.get F.PCR_STATUS_code 0 = 8 ∧ pcrCode (.splitTimerFire 5) (spt at1us 5 0 991 10) = 0 := by decide +kernel
/-- Site time after an empty step. -/
def tickT (s : State) : Nat × Int := match step s with
  | .next t => (t.pacer.time, t.pacer.slew)
  | _ => (0, 0)
theorem test_tick : tickT base = (1024, 0) ∧ tickT { base with pacer := { slew := 5 } } = (1023, 4) ∧
    base.snp.restore = none ∧ base.jdg.run = none ∧ base.img.loading = none ∧ base.img.waiting = none ∧ base.img.sect = none ∧
    base.pwr = 0 ∧ base.pacer.sink = none ∧ t5 < 2 ^ 72 ∧
    tickT { base with pacer := { slew := -5 } } = (1025, -4) ∧ tickT State.reset = (0, 0) := by decide +kernel

/-! ### Supply, cap, plan, domains (SupplyCrossings, BlocksAndLoss, CapPlanDomains) -/

/-- Supply state p with cause c, the bus threshold at 44.0 V. -/
def pwrS (p c : Nat) : State := base.puts 0 [(F.PWR_STATE_state, p), (F.PWR_STATE_cause, c), (F.PWR_SAG_sag_dv, 440)]
/-- The supply state and the PWR_STATUS code after a command. -/
def pwrAft (i : Instr) (s : State) : Nat × Nat := ((run i s).pwr, (run i s).get F.PWR_STATUS_code 0)
/-- Above the absolute maximum. -/
def pastMax (s : State) : State := { s with pacer := { s.pacer with overMax := true } }

theorem test_sag : (pwrS 0 0).sagMv = 44000 ∧ pwrAft (.supplySag 43999) (pwrS 0 0) = (1, 1) ∧
    run (.supplySag 44000) (pwrS 0 0) = pwrS 0 0 ∧
    (run (.supplySag 43999) ((pwrS 0 0).put F.PWR_STATE_stretch 0 6)).get F.PWR_STATE_stretch 0 = 6 := by decide +kernel
theorem test_sag_end : pwrAft (.sagEnd 44501) (pwrS 1 0) = (0, 0) ∧ run (.sagEnd 44500) (pwrS 1 0) = pwrS 1 0 := by decide +kernel
theorem test_undervoltage : pwrAft (.undervoltage 39999) (pwrS 0 0) = (2, 2) ∧ pwrAft (.undervoltage 39999) (pwrS 1 0) = (2, 2) ∧
    pwrAft (.undervoltage 39999) (pwrS 5 1) = (4, 0) ∧ (run (.undervoltage 39999) (pwrS 5 1)).pacer.lowMv = some 39999 ∧ (run (.undervoltage 39999) (pwrS 5 1)).get F.PWR_STATE_cause 0 = 2 ∧
    run (.undervoltage 40000) (pwrS 0 0) = pwrS 0 0 := by decide +kernel
theorem test_ride_recover : pwrAft (.rideRecover 40501) (pwrS 2 0) = (1, 3) ∧ pwrAft (.rideRecover 44500) (pwrS 2 0) = (1, 3) ∧
    pwrAft (.rideRecover 44501) (pwrS 2 0) = (0, 3) ∧ run (.rideRecover 40500) (pwrS 2 0) = pwrS 2 0 ∧
    let s := run (.pwrCapWrite 0x640078) (pwrS 2 0)
    s.pacer.capHeld.isSome = true ∧ (run (.rideRecover 44501) s).get F.PWR_CAP_cap_w 0 = 120 ∧
    (run (.rideRecover 44501) s).pacer.cap.v1 = 1200000000 := by decide +kernel
theorem test_swell : pwrAft (.supplySwell 60001) (pwrS 0 0) = (0, 6) ∧ run (.supplySwell 60000) (pwrS 0 0) = pwrS 0 0 := by decide +kernel
theorem test_absolute : pwrAft (.absoluteMaximum 64001) (pwrS 0 0) = (2, 2) ∧ pwrAft (.absoluteMaximum 64001) (pwrS 4 1) = (4, 0) ∧
    run (.absoluteMaximum 64000) (pwrS 0 0) = pwrS 0 0 ∧ pwrAft (.absoluteMaximum 61999) (pastMax (pwrS 2 0)) = (0, 3) ∧
    pwrAft (.absoluteMaximum 40500) (pastMax (pwrS 2 0)) = (2, 0) ∧ pwrAft (.absoluteMaximum 61999) (pastMax (pwrS 4 1)) = (4, 0) ∧
    (run (.absoluteMaximum 62000) (pastMax (pwrS 2 0))).pacer.overMax = true := by decide +kernel
theorem test_ripple : run (.rippleMeasure 900) base = base ∧
    let s := { base.put F.PWR_RIPPLE_ripple_lim_mv 0 900 with pacer := { period := 16666667 } }
    pwrAft (.rippleMeasure 901) s = (0, 7) ∧ pwrAft (.rippleMeasure 900) s = (0, 0) ∧
    (run (.rippleMeasure 900) s).get F.PWR_RIPPLE_ripple_mv 0 = 900 := by decide +kernel
theorem test_phase : (run .supplyPhaseEdge base).pacer.edge = some 0 ∧
    let s := fun n => { base with pacer := { time := 256 * n, edge := some 0 } }
    (run .supplyPhaseEdge (s 14300000)).get F.PWR_PHASE_period_us 0 = 14300 ∧
    (run .supplyPhaseEdge (s 25000000)).pacer.period = 25000000 ∧ (run .supplyPhaseEdge (s 14299999)).pacer.period = 0 ∧
    (run .supplyPhaseEdge (s 25000001)).pacer.period = 0 ∧ pwrAft .phaseLoss (s 1) = (0, 0x0A) := by decide +kernel

/-- In RUN, the module draws w watts. -/
def drawS (w : Nat) : State := (pwrS 0 0).put F.PWR_MEAS_power_w 0 w
/-- An entry into Blocks has begun, and is complete. -/
def blkS : State := run .blocks (drawS 650)
def inBlkS : State := aTick blkS
theorem test_blocks : pwrAft .blocks (pwrS 2 0) = (3, 0) ∧ run .blocks (pwrS 3 0) = pwrS 3 0 ∧
    run .blocks ((pwrS 0 0).put F.HUB_HOST_READY_stage 0 6) = (pwrS 0 0).put F.HUB_HOST_READY_stage 0 6 ∧
    (pwrS 0 0).stage = 0x0F ∧ (blkS.pwr, blkS.get F.PWR_STATE_cause 0) = (3, 1) ∧ blkS.pending = [] := by decide +kernel
theorem test_blocks_done : (inBlkS.pwr, inBlkS.get F.PWR_STATUS_code 0) = (4, 4) ∧ inBlkS.dom (.cluster c0) = .retention ∧
    inBlkS.pacer.stacksRest = true ∧ inBlkS.get F.PWR_EVENTS_blocks 0 = 1 := by decide +kernel
/-- From 1,000 W the draw has 350 W to fall, at the ramp of the reset value. -/
theorem test_blocks_falls : (drawS 1000).rho ≠ 0 ∧ let s := run .blocks (drawS 1000)
    s.pwr = 0 ∧ s.pacer.sink = some (350000000 / (drawS 1000).rho) ∧ run .blocks s = s ∧ s.pwrTick = s ∧
    ({ s with pacer := { s.pacer with time := 256 * 350000000 } }).pwrTick.pwr = 3 := by decide +kernel
theorem test_wake : (run .wake inBlkS).pwr = 5 ∧ (aTick (run .wake inBlkS)).pwr = 0 ∧ (aTick (run .wake inBlkS)).get F.PWR_STATUS_code 0 = 5 ∧
    (aTick (run .wake inBlkS)).dom (.cluster c0) = .on ∧ (aTick (run .wake inBlkS)).pacer.stacksRest = false := by decide +kernel
theorem test_wake_not : run .wake (pwrS 4 2) = pwrS 4 2 ∧ run .wake (pwrS 0 0) = pwrS 0 0 ∧ pwrAft (.supplyWake 44001) (pwrS 4 2) = (5, 0) ∧
    run (.supplyWake 44000) (pwrS 4 2) = pwrS 4 2 := by decide +kernel
theorem test_ride_end : pwrAft (.rideEnd 36000) (pwrS 2 0) = (3, 0) ∧ (run (.rideEnd 36000) (pwrS 2 0)).get F.PWR_STATE_cause 0 = 2 ∧
    let s := (pwrS 2 0).put F.HUB_HOST_READY_stage 0 6
    (run (.rideEnd 36000) s).stage = 1 ∧ (run (.rideEnd 36000) s).doms = [] ∧ (run (.rideEnd 36000) s).pacer.waitBus = true := by
  decide +kernel
/-- A cap write that waited for the end of a ride is taken at the entry into Blocks. -/
theorem test_ride_end_cap : let s := run (.pwrCapWrite 0x640078) (pwrS 2 0)
    s.pacer.capHeld.isSome = true ∧ (run (.rideEnd 36000) s).pacer.capHeld = none ∧ (run (.rideEnd 36000) s).get F.PWR_CAP_cap_w 0 = 120 := by
  decide +kernel
theorem test_collapse : Mem.wf (pwrS 2 0).flash = true ∧ (run (.rideEnd 35999) (pwrS 2 0)).stage = 0 ∧
    (run (.rideEnd 35999) (pwrS 2 0)).flash.isEmpty = false ∧ (run (.collapse 35999) (pwrS 3 0)).stage = 0 ∧
    (run (.collapse 50000) (pastMax (pwrS 4 1))).stage = 0 ∧ run (.collapse 36000) (pwrS 4 1) = pwrS 4 1 := by decide +kernel
theorem test_thermal_trip : (run (.thermalTrip 110) base).pacer.thermtrip = true ∧ (run (.thermalTrip 110) base).stage = 0 ∧
    (run (.thermalTrip 110) base).get F.HUB_RST_CAUSE_cause 0 = 3 ∧ run (.thermalTrip 109) base = base := by decide +kernel

/-- A stretch code and a cap of 1,200 W in effect. -/
def capS (f : Nat) : State := { (pwrS 1 0).puts 0 [(F.PWR_STATE_stretch, f), (F.PWR_SAG_sag_cap, 500)] with
  pacer := { cap := { v0 := 1200000000, v1 := 1200000000 } } }
theorem test_cap_control : (capS 6).capEff = 1200 ∧ pwrAft (.capControl 1201) (capS 6) = (1, 8) ∧
    (run (.capControl 1201) (capS 6)).pacer.said = [8] ∧ (run (.capControl 1201) (capS 6)).get F.PWR_STATE_stretch 0 = 6 ∧
    (run (.capControl 1201) (capS 6)).freeCtr = 1 ∧ (capS 6).drawMost = 1200 ∧ (capS 6).drawLeast = 0 ∧ (capS 3).get F.PWR_STATE_stretch 0 ≤ 6 ∧ (capS 3).asleep = false ∧
    (capS 0).capEff = 1200 := by decide +kernel
/-- The draw fell from 2,000 W at once: ballast is called for, and what it does not hold is reported. -/
theorem test_cap_falls : let s := { capS 3 with pacer := { (capS 3).pacer with cap := { v0 := 3000000000, v1 := 3000000000 }, drawn := some (2000, 0) } }
    s.drawLeast = 2000 ∧ s.drawMost = 2100 ∧ (run (.capControl 1950) s).pacer.ballast = true ∧
    (run (.capControl 1950) s).get F.PWR_STATUS_code 0 = 0 ∧ (run (.capControl 1899) s).get F.PWR_STATUS_code 0 = 9 ∧ (run (.capControl 1899) s).pacer.drawn = none ∧ (run (.capControl 1899) s).pacer.said = [9] ∧
    (run (.capControl 2000) s).pacer.ballast = false := by decide +kernel
theorem test_ballast_not : base.pacer.ballast = false ∧ run (.ballastPass c0) base = base := by decide +kernel
theorem test_ballast : let b := base.waitOpen (cluWaiter c0 0) 1 0 0
    let s := { b with pacer := { b.pacer with ballast := true } }
    s.cluOn c0 = true ∧ (slFind s.waits (cluWaiter c0 0)).isSome = true ∧ s.activeCores c0 = [0, 1] ∧ (s.activeCores c0).Nodup ∧
    (run (.ballastPass c0) s).freeCtr = 1 := by decide +kernel
theorem test_cap_write : (run (.pwrCapWrite 0xC801F4) base).get F.PWR_CAP_cap_w 0 = 500 ∧
    (run (.pwrCapWrite 0xC801F4) base).get F.PWR_CAP_ramp 0 = 200 ∧ (run (.pwrCapWrite 0x010078) base).get F.PWR_CAP_ramp 0 = 1 ∧
    (run (.pwrCapWrite 0x010078) base).pacer.cap = { t0 := 0, v0 := 1200000000, v1 := 1200000000 } ∧
    (run (.pwrCapWrite 0x010078) (drawS 3000)).pacer.cap = { t0 := 0, v0 := 3000000000, v1 := 1200000000 } := by decide +kernel
theorem test_plan_step : let s := { base with pacer := { time := 256000, planDue := true, plan := [(1000, 2000)] } }
    (run .powerPlanStep s).pacer.plan = [] ∧ (run .powerPlanStep s).pacer.floor.v1 = 2000000000 ∧
    (run .powerPlanStep s).get F.PCR_SPT_CTRL_arm 2 = 0 ∧
    let s2 := { base with pacer := { time := 256000, planDue := true, plan := [(1000, 2000), (9000000, 3000)] } }
    (run .powerPlanStep s2).get F.PCR_SPT_CTRL_arm 2 = 1 ∧ (run .powerPlanStep s2).get F.PCR_SPT_CTRL_target 2 = 3 ∧
    (run .powerPlanStep s2).pacer.plan = [(9000000, 3000)] := by decide +kernel
theorem test_thermal_throttle : let s := base.put F.PWR_THERM_t_throttle 0 95
    (run (.thermalThrottle 96) s).pacer.therm = some 4900 ∧ pwrAft (.thermalThrottle 96) s = (0, 0x0C) ∧
    (run (.thermalThrottle 92) { s with pacer := { s.pacer with therm := some 1200 } }).pacer.therm = none ∧
    (run (.thermalThrottle 93) { s with pacer := { s.pacer with therm := some 1200 } }).pacer.therm = some 1200 ∧
    (run (.thermalThrottle 96) { s with pacer := { s.pacer with therm := some 1250 } }).pacer.therm = some 1200 := by decide +kernel
theorem test_domain_switch : base.domMay (.cluster c1) = false ∧ run (.domainSwitch (.cluster c1) .on) base = base ∧
    base.domMay (.fabric 1) = true ∧ (run (.domainSwitch (.fabric 1) .on) base).dom (.fabric 1) = .on ∧
    (run (.domainSwitch (.cluster c0) .retention) base).dom (.cluster c0) = .retention ∧
    let s := base.st (poolAt c0 0) 4 7
    s.ld (poolAt c0 0) 4 = 7 ∧ (run (.domainSwitch (.cluster c0) .off) s).ld (poolAt c0 0) 4 = 0 ∧
    (run (.domainSwitch (.cluster c0) .off) s).dom (.cluster c0) = .off := by decide +kernel

/-! ### Structure images and claims (ImagesLoadAndApply, ClaimsByClass) -/

/-- An image header with one empty directory entry at HBM 0x40000, for product p. -/
def imgS (p : Nat) : State :=
  ((base.puts 0 [(F.IMG_SRC_LO_src, 0x1000)]).stH 0x40000 64 (0x49534C4B + 2 ^ 32 + 2 ^ 48 + 0xFFFF * 2 ^ 64 + 2 ^ 80 + p * 2 ^ 96 + 320 * 2 ^ 128)).stH
    0x40100 32 (1 + 0xFFFF * 2 ^ 32 + 320 * 2 ^ 64)
/-- An image of a scope for logical die 0 and cluster 0, with one section, of no claims. -/
def img1 (scope : Nat) : Image := { scope := scope, ldie := 0, lclu := 0, id := 77, digest := [1], sects := [⟨9, 0, 255, 255, [], 0⟩] }
/-- An image waits. -/
def imgW (scope : Nat) : State := { base with img := { waiting := some (img1 scope) } }
/-- IMG_STATUS code after a command. -/
def imgCode (i : Instr) (s : State) : Nat := (run i s).get F.IMG_STATUS_code 0

/-- A state in which the image at HBM a is being verified. -/
def ldng (a : Nat) (s : State) : State := { s with img := { s.img with loading := some a } }
/-- IMG_STATUS code after the tick that ends a verification of the image at a. -/
def imgV (a : Nat) (s : State) : Nat := (ldng a s).imgTick.get F.IMG_STATUS_code 0

theorem test_img_load : base.live = true ∧ base.stage = 0x0F ∧ base.img.loading = none ∧ imgCode .imgLoad (imgW 1) = 0x0F ∧
    imgCode .imgLoad (base.put F.HUB_HOST_READY_stage 0 6) = 0x0F ∧ imgCode .imgLoad (ldng 0 base) = 0x0F ∧
    (run .imgLoad base).img.loading = some 0 := by decide +kernel
theorem test_img_verify : (ldng 0 base).jdg.run = none ∧ (ldng 0 base).hbmQuiet ∧ (ldng 0 base).imgCheck 0 = some (3, 0) ∧ imgV 0 base = 3 ∧
    (imgS 0).imgSrc = 0x40000 ∧ (ldng 0x40000 (imgS 0)).imgFormat 0x40000 = true ∧ imgV 0x40000 (imgS 0) = 4 ∧ imgV 0x40000 (imgS 0xA1) = 5 ∧
    imgV 0x40000 { imgS 0xA1 with jdg := { ok := true } } = 6 :=
  ⟨by decide +kernel, (quiet_of (by decide +kernel) (by decide +kernel) (by decide +kernel)).1, by decide +kernel⟩
/-- The channel that holds the image is out of service. -/
theorem test_img_read_fails : let s := ldng 0 { base with flt := { base.flt with quar := [7 * 2 ^ 24] } }
    (s.hbmMeet 0 (max 256 (s.ldH 16 8))).2 = true ∧ s.imgTick.get F.IMG_STATUS_code 0 = 7 := by decide +kernel
/-- A signed image for logical cluster 0 of die 0 at HBM 0x40000, with one section of claims: split timer 3, on demand. -/
def goodImg : State :=
  let h := toBytes 4 0x49534C4B ++ toBytes 2 1 ++ [3, 1, 0, 0, 1, 0, 0xA1, 0, 0, 0] ++ toBytes 8 384 ++ zeros 40
  let d := [9, 0, 0, 0, 255, 255, 0, 0] ++ toBytes 8 320 ++ toBytes 8 32 ++ zeros 8
  let c := [2, 4, 2, 3] ++ zeros 28
  let rest := d ++ zeros 32 ++ c ++ zeros 32
  let bs := h ++ shake256 (h ++ rest) 64 ++ (1 :: zeros 56) ++ zeros 57 ++ zeros 14 ++ rest
  { base.puts 0 [(F.IMG_SRC_LO_src, 0x1000), (F.IMG_STORE_HI_size_gib, 1)] with
    mem := (bs.zipIdx.filter (fun p => p.1 != 0)).map (fun p => (0x40000 + p.2, p.1))
    img := { digest := [1] }
    jdg := { ok := true, keys := [(1, { pub := 1 :: zeros 56, purpose := 15, st := 1 })] } }
set_option maxRecDepth 100000 in
theorem test_img_passes : goodImg.stage = 0x0F ∧ goodImg.imgSrc = 0x40000 ∧ goodImg.imgCheck 0x40000 = none := by decide +kernel
theorem test_img_discard : run .imgDiscard base = base ∧ run .imgApply base = base ∧ (run .imgDiscard (imgW 1)).img.waiting = none := by
  decide +kernel
theorem test_img_absent : let s := { imgW 3 with flt := { (imgW 3).flt with dieMap := [] } }
    s.regionAbsent (img1 3) = true ∧ imgCode .imgApply s = 0x10 := by decide +kernel
theorem test_img_busy : let s := { imgW 3 with flt := { (imgW 3).flt with takeovers := [0] } }
    s.regionAbsent (img1 3) = false ∧ s.regionBusy (img1 3) = true ∧ (run .imgApply s).img.applying = true ∧
    (run .imgApply s).img.sect = none ∧ (imgW 3).regionIdle (img1 3).region = false ∧ (run .imgApply (imgW 3)).img.sect = none ∧
    (imgW 1).regionAbsent (img1 1) = false ∧ (imgW 1).regionBusy (img1 1) = false ∧
    (run .imgApply { imgW 1 with lap := { step := 1 } }).img.sect = none := by decide +kernel
theorem test_img_takes : (imgW 1).lap.step = 0 ∧ (run .imgApply (imgW 1)).img.sect = some 0 ∧
    ((run .imgApply (imgW 1)).clu c0).stalled = true := by decide +kernel
theorem test_img_takes_partial : let s := (imgW 3).put F.CLU_SEQ_STATUS_stop (cluU c0) 9
    s.regionBusy (img1 3) = false ∧ s.regionAbsent (img1 3) = false ∧ s.regionClus (img1 3).region = [c0] ∧ s.regionIdle (img1 3).region = true ∧
    (run .imgApply s).img.sect = some 0 := by decide +kernel
/-- An application under way past its only section: the next tick ends it. -/
def imgE (scope : Nat) : State :=
  let s := run .imgApply ((imgW scope).put F.CLU_SEQ_STATUS_stop (cluU c0) 9)
  { s with img := { s.img with sect := some 1 } }
theorem test_img_under_way : (imgE 1).img.hit = false ∧ (imgE 1).img.loading = none ∧ ((imgE 1).clu c0).stalled = true ∧
    (run .imgDiscard (imgE 1)).img.sect = some 1 ∧ (imgE 1).img.waiting = some (img1 1) ∧ (img1 1).sects.length = 1 := by decide +kernel
theorem test_img_ends : (imgE 3).imgTick.img.waiting = none ∧ (imgE 3).imgTick.get F.IMG_STATUS_code 0 = 2 ∧
    (imgE 1).imgTick.img.digest = [1] ∧ (imgE 1).imgTick.get64 R.IMG_ID_LO R.IMG_ID_HI 0 = 77 ∧
    ((imgE 1).imgTick.clu c0).stalled = false := by decide +kernel

/-- A claim of class c on split timer 3, by a moment w. -/
def clm (c w : Nat) : Claim :=
  { scope := 1, ldie := 255, lclu := 255, res := 2, cls := c, whenN := w, id := 3, startUs := 1, endUs := 2, base := 0, len := 0 }
/-- Site time 1 us; the claims. -/
def clmS (l : List Claim) : State := { base with pacer := { time := 256000 }, claims := l }
/-- Granted and waiting of each claim after a command. -/
def clmAft (i : Instr) (l : List Claim) : List (Bool × Bool) := ((run i (clmS l)).claims).map (fun k => (k.granted, k.waiting))

theorem test_claim_granted : clmAft (.claimRequest 0) [clm 4 2] = [(true, false)] ∧ clmAft (.claimWindowOpen 0) [clm 4 1] = [(true, false)] ∧
    clmAft (.claimRequest 0) [{ clm 4 2 with waiting := true }] = [(false, true)] ∧
    clmAft (.claimWindowOpen 0) [{ clm 4 1 with startUs := 2 }] = [(false, false)] := by decide +kernel
theorem test_claim_preempts : clmAft (.claimRequest 0) [clm 3 2, { clm 4 0 with granted := true }] = [(true, false), (false, true)] ∧
    imgCode (.claimRequest 0) (clmS [clm 3 2, { clm 4 0 with granted := true }]) = 0x11 ∧
    clmAft (.claimRequest 0) [clm 4 2, { clm 4 0 with granted := true }] = [(false, true), (true, false)] ∧
    clmAft (.claimRequest 0) [clm 5 2, { clm 4 0 with granted := true }] = [(false, true), (true, false)] := by decide +kernel
theorem test_claim_released : clmAft (.claimRelease 0) [{ clm 4 2 with granted := true }] = [(false, false)] ∧
    clmAft (.claimRelease 0) [{ clm 4 0 with granted := true }] = [(true, false)] ∧
    clmAft (.claimRelease 0) [{ clm 4 1 with granted := true, endUs := 1 }, { clm 5 2 with waiting := true }] = [(false, false), (true, false)] := by
  decide +kernel

/-! ### Trace, freeze, photo-finish (TraceRecordsWaits, FreezeAndScan) -/

/-- Cluster 0's sequencer waits since 0 ns; site time n ns; quadrant 0 traces. -/
def wtS (n : Nat) : State :=
  { ((base.waitOpen (cluWaiter c0 0) 3 0 0).put F.TRC_Q_MODE_en 0 1).puts (cluU c0) [(F.CLU_TRC_CFG_min_ns, 100), (F.CLU_TRC_CFG_timeout_us, 5)] with
    pacer := { time := 256 * n } }
def w0 : Waiter := .cluster c0 0
/-- A region of 64 MiB at HBM 1 MiB for quadrant 0 and for the photo, with claims on it. -/
def rgnS : State :=
  let k : Claim := { scope := 1, ldie := 255, lclu := 255, res := 3, cls := 4, whenN := 0, id := 0, startUs := 0, endUs := 0,
                     base := 2 ^ 20, len := 2 ^ 26, granted := true }
  { base.puts 0 [(F.TRC_Q_SIZE_size_mib, 64), (F.TRC_Q_POST_post_mib, 63), (F.TRC_Q_BASE_LO_base, 1), (F.TRC_PHOTO_CTRL_armed, 1),
      (F.TRC_PHOTO_CTRL_level, 3), (F.TRC_PHOTO_SIZE_size_mib, 64), (F.TRC_PHOTO_BASE_LO_base, 1)] with claims := [k, { k with cls := 3 }] }
/-- TRC_STATUS code after a command. -/
def trcCode (i : Instr) (s : State) : Nat := (run i s).get F.TRC_STATUS_code 0

theorem test_wait_end : (wtS 100).live = true ∧ (slFind (wtS 100).waits (waiterCode w0)).isSome = true ∧
    waiterClu (waiterCode w0) = some c0 ∧ (slFind (run (.waitEnd w0) (wtS 100)).waits (waiterCode w0)).isSome = false ∧
    (run (.waitEnd w0) (wtS 100)).perfAt (cluBase (cluU c0) + 0x340 + 40) = 100 ∧
    (run (.waitEnd w0) (wtS 100)).perfAt (cluBase (cluU c0) + 0x340 + 48) = 1 ∧
    ((run (.waitEnd w0) (wtS 100)).tru 0).queue.length = 1 ∧ ((run (.waitEnd w0) (wtS 99)).tru 0).queue.length = 0 ∧
    (run (.waitEnd w0) (wtS 99)).perfAt (cluBase (cluU c0) + 0x340 + 56) = 1 := by decide +kernel
theorem test_sync_timeout : trcCode (.syncTimeout w0) (wtS 6000) = 5 ∧
    (wtS 6000).waitsOf (waiterCode w0) = [waiterCode w0] ∧ ((wtS 6000).tru 0).queue.length = 0 ∧
    (slFind (run (.syncTimeout w0) (wtS 6000)).waits (waiterCode w0)).map (fun y => y.timedOut) = some true ∧
    run (.syncTimeout w0) (run (.syncTimeout w0) (wtS 6000)) = run (.syncTimeout w0) (wtS 6000) ∧
    run (.syncTimeout w0) ((wtS 6000).put F.CLU_TRC_CFG_timeout_us (cluU c0) 0) = (wtS 6000).put F.CLU_TRC_CFG_timeout_us (cluU c0) 0 ∧
    let s := (wtS 6000).put F.CLU_TRC_CFG_to_act (cluU c0) 1
    ((run (.syncTimeout w0) s).clu c0).abandoned = true ∧ (run (.syncTimeout w0) s).get F.CLU_SEQ_STATUS_stop (cluU c0) = 9 := by
  decide +kernel
theorem test_trigger : run .traceTrigger base = base ∧ trcCode .traceTrigger ((wtS 7).put F.TRC_TRIG_CFG_en 0 1) = 1 ∧
    (run .traceTrigger ((wtS 7).put F.TRC_TRIG_CFG_en 0 1)).flag F.TRC_Q_MODE_triggered 0 = true ∧
    (run .traceTrigger ((wtS 7).put F.TRC_TRIG_CFG_en 0 1)).get64 R.TRC_TRIG_TIME_LO R.TRC_TRIG_TIME_HI 0 = 7 ∧
    (run .traceTrigger ((wtS 7).puts 0 [(F.TRC_TRIG_CFG_en, 1), (F.TRC_TRIG_CFG_freeze_on, 1)])).frozen = true ∧
    (run .traceTrigger ((wtS 7).puts 0 [(F.TRC_TRIG_CFG_en, 1), (F.TRC_TRIG_CFG_freeze_on, 4)])).frozen = false := by decide +kernel
theorem test_trace_enable : trcCode (.traceEnable 0) (rgnS.put F.TRC_Q_POST_post_mib 0 64) = 0x0D ∧
    trcCode (.traceEnable 0) (rgnS.put F.TRC_Q_SIZE_size_mib 0 63) = 0x0D ∧ trcCode (.traceEnable 0) (rgnS.put F.TRC_Q_MODE_mode 0 3) = 0x0D ∧
    (run (.traceEnable 0) { rgnS with claims := [] }).get F.IMG_STATUS_code 0 = 0x12 ∧
    rgnS.claimHeld 3 4 0 (rgnS.trcBase 0) (64 * 2 ^ 20) = true := by decide +kernel
theorem test_trace_enable_memory : rgnS.memOk := by unfold State.memOk; decide +kernel
theorem test_perf_clear : let s := base.perfCore k0 6 9
    s.perfAt (coreBase (coreU k0) + 0x40 + 48) = 9 ∧ (run .perfClear s).perfAt (coreBase (coreU k0) + 0x40 + 48) = 0 ∧
    (run .perfClear s).stage = 0x0F := by decide +kernel

theorem test_freeze : (run .freeze base).frozen = true ∧ trcCode .freeze base = 0x0B ∧ (run .freezeNFall base).get F.TRC_FRZ_STATE_pin_low 0 = 1 ∧
    (run .freeze base).get F.TRC_FRZ_STATE_pin_low 0 = 0 ∧ (run .freeze base).frz.srcs.map (fun x => x.kind) = [2] ∧
    (run .freeze (run .freezeNFall base)).frz.total = 2 ∧ (run .freeze (run .freezeNFall base)).get F.TRC_FRZ_STATE_sources 0 = 2 := by
  decide +kernel
theorem test_freeze_armed : rgnS.claimHeld 3 3 0 rgnS.photoBase (64 * 2 ^ 20) = true ∧ rgnS.photoFit (64 * 2 ^ 20) 3 = some 2 ∧
    (run .freeze rgnS).photo.map (fun p => p.level) = some 2 ∧ (run .freeze rgnS).get F.TRC_FRZ_STATE_scan 0 = 1 ∧
    (run .freeze rgnS).get F.TRC_PHOTO_CTRL_armed 0 = 0 := by decide +kernel
theorem test_freeze_end : run .freezeRelease base = base ∧ run .freezeEnd base = base ∧ run .freezeEnd (run .freeze base) = run .freeze base ∧
    let s := run .freezeRelease (run .freeze base)
    s.get F.TRC_FRZ_STATE_held 0 = 0 ∧ s.frozen = true ∧ (run .freezeEnd s).frozen = false ∧ trcCode .freezeEnd s = 7 ∧
    (run .freezeEnd s).get F.PWR_STATE_stretch 0 = 6 ∧ s.recalWait = [] ∧ s.photo = none ∧
    run .freezeEnd (run .freezeRelease (run .freeze rgnS)) = run .freezeRelease (run .freeze rgnS) := by decide +kernel
theorem test_scan_none : run .scanOutDone base = base ∧ run .abortScan base = base := by decide +kernel
theorem test_scan_meets : (run .freeze rgnS).photo.isSome = true ∧ (run .freeze rgnS).memOk ∧ (run .freeze rgnS).asleep = false := by
  unfold State.memOk; decide +kernel

/-! ### The Judge (JudgeAdministers, JudgeAuthorizes). What the device's own secret gives (ENROLL) is open and cannot be evaluated: the
cases before it are met here. -/

/-- A module with an identity, slot 1 in force for every purpose, and a request of n bytes with value v. -/
def jdgS (n v : Nat) : State :=
  { base with jdg := { ok := true, priv := some [3], keys := [(1, { pub := [9], purpose := 15, st := 1 })], fw := some (5, []), floor := 2,
                       certs := [(0, [7, 8, 9])] } }.stH 0 n v
/-- The state after a mailbox command and the Judge's tick that ends it. -/
def runJ (i : Instr) (s : State) : State := (run i s).jdgDone
/-- JDG_STATUS code after a command. -/
def jdgCode (i : Instr) (s : State) : Nat := (runJ i s).get F.JDG_STATUS_code 0
/-- The Judge has no identity. -/
def noId (s : State) : State := { s with jdg := { s.jdg with priv := none } }
/-- The first n bytes of the response. -/
def rsp (i : Instr) (s : State) (n : Nat) : List Byte := (runJ i s).ldBytes 2048 n

theorem test_judge_down : let s := base.put F.JDG_STATE_error 0 1
    s.judgeUp = false ∧ jdgCmds.all (fun c => decide (run c s = s)) = true ∧ run (.selfTest []) s = s := by decide +kernel
theorem test_judge_up : (jdgS 1 0).judgeUp = true ∧ (jdgS 1 0).memOk := by unfold State.memOk; decide +kernel
theorem test_judge_busy : let s := run .attest (jdgS 1 0)
    s.jdg.run = some (5, []) ∧ (jdgS 1 0).jdg.run = none ∧ (run .readCert s).get F.JDG_STATUS_code 0 = 2 ∧
    (run (.selfTest []) s).get F.JDG_STATUS_code 0 = 2 ∧ (run .zeroize s).jdg.run = some (9, []) ∧
    s.flt.fwAsk = false ∧ s.snp.run = none ∧ s.jdg.doe = none := by decide +kernel
theorem test_verify_fw : jdgCode .jdgVerifyFw (jdgS 1 2) = 3 ∧ jdgCode .jdgVerifyFw (jdgS 1 1) = 4 ∧ jdgCode .jdgVerifyFw (jdgS 1 0) = 4 := by
  decide +kernel
theorem test_raise_floor : (runJ .raiseFloor (jdgS 4 5)).jdg.floor = 5 ∧ (runJ .raiseFloor (jdgS 4 5)).jdg.floorAdv = 1 ∧
    (runJ .raiseFloor (jdgS 4 2)).jdg.floorAdv = 0 ∧ jdgCode .raiseFloor (jdgS 4 2) = 1 ∧ jdgCode .raiseFloor (jdgS 4 6) = 7 ∧
    jdgCode .raiseFloor (jdgS 4 1) = 7 ∧ (runJ .raiseFloor (jdgS 4 5)).get F.JDG_FLOOR_floor 0 = 5 := by decide +kernel
theorem test_admin_checks : (noId (jdgS 1 0)).adminCheck 1 false = some 9 ∧ (jdgS 2 0x701).adminCheck 1 false = some 5 ∧
    (jdgS 3 0x10101).adminCheck 1 false = some 6 ∧ (noId (jdgS 1 7)).adminCheck 0 true = some 5 ∧
    (noId (jdgS 2 0x101)).adminCheck 0 true = some 6 := by decide +kernel
theorem test_install_key : jdgCode .installKey (jdgS 2 0) = 3 ∧ jdgCode .installKey (jdgS 2 8) = 3 ∧ jdgCode .installKey (jdgS 2 0x1001) = 3 ∧
    jdgCode .installKey (jdgS 60 (0x0F07 + 7 * 2 ^ 472)) = 5 ∧ jdgCode .installKey (noId (jdgS 2 0x0F07)) = 9 ∧
    jdgCode .installKey { jdgS 2 1 with jdg := { (jdgS 2 1).jdg with keys := [(1, { st := 2 })] } } = 3 := by decide +kernel
theorem test_revoke_key : jdgCode .revokeKey (jdgS 1 0) = 3 ∧ jdgCode .revokeKey (jdgS 1 8) = 3 ∧ jdgCode .revokeKey (jdgS 2 0x707) = 5 ∧
    jdgCode .revokeKey (noId (jdgS 1 1)) = 9 := by decide +kernel
theorem test_certs : jdgCode .installCert (jdgS 1 4) = 3 ∧ jdgCode .installCert (jdgS 3 (1801 * 256)) = 3 ∧
    jdgCode .installCert (noId (jdgS 3 (1800 * 256 + 3))) = 9 ∧ jdgCode .readCert (jdgS 1 4) = 3 ∧ jdgCode .readCert (jdgS 1 1) = 3 ∧
    jdgCode .readCert (jdgS 3 0x300) = 3 ∧ jdgCode .readCert (jdgS 3 0x200) = 1 ∧ rsp .readCert (jdgS 3 0x100) 6 = [3, 0, 2, 0, 8, 9] := by
  decide +kernel
theorem test_set_mode : jdgCode .setMode (jdgS 1 2) = 3 ∧ jdgCode .setMode (noId (jdgS 1 1)) = 9 ∧ jdgCode .setMode (jdgS 2 0x700) = 5 := by
  decide +kernel
theorem test_enroll : jdgCode .enroll (jdgS 1 7) = 5 ∧ jdgCode .enroll (jdgS 2 0x101) = 6 := by decide +kernel
theorem test_zeroize : jdgCode .zeroize (jdgS 1 0) = 0x0E ∧ (runJ .zeroize (jdgS 1 0)).jdg.keys = [] ∧ (runJ .zeroize (jdgS 1 0)).jdg.priv = none ∧
    (runJ .zeroize (jdgS 1 0)).jdg.floor = 2 := by decide +kernel
theorem test_self_test : jdgCode (.selfTest []) (jdgS 1 0) = 1 ∧ rsp (.selfTest []) (jdgS 1 0) 1 = [3] ∧
    jdgCode (.selfTest [(1, true)]) (jdgS 1 0) = 0x0A ∧ (runJ (.selfTest [(0, true)]) (jdgS 1 0)).get F.JDG_STATE_error 0 = 1 ∧
    jdgCode (.selfTest [(0, false)]) (jdgS 1 0) = 1 ∧ (runJ (.selfTest [(0, false)]) (jdgS 1 0)).get F.HUB_FLT_LOG_HEAD_head 0 = 1 := by
  decide +kernel

/-- The neutral point as a public key: under it the signature with first half neutral and S = 0 verifies any message. -/
def neutral : List Byte := 1 :: zeros 56
def anySig : List Byte := neutral ++ zeros 57
/-- A request c signed by the key in slot 1, at counter value 0. -/
def signed (c : List Byte) : State :=
  ({ jdgS 0 0 with jdg := { (jdgS 0 0).jdg with keys := [(1, { pub := neutral, purpose := 15, st := 1 })] } }).stBytes 0
    (c ++ [1] ++ toBytes 8 0 ++ anySig)
theorem test_signature : ed448Verify neutral [1, 2] (neutral ++ toBytes 57 1) = false := by
  decide +kernel
set_option maxRecDepth 100000 in
theorem test_admin_set_mode : (signed [1]).adminCheck 1 false = none ∧ (runJ .setMode (signed [1])).jdg.policy = true ∧
    (runJ .setMode (signed [1])).jdg.admin = 1 ∧ (runJ .revokeKey (signed [1])).keySlot 1 = { pub := neutral, purpose := 15, st := 2 } := by
  decide +kernel
set_option maxRecDepth 100000 in
theorem test_admin_install_key : let s := signed ([2, 15] ++ List.replicate 57 7)
    s.adminCheck 59 false = none := by decide +kernel
set_option maxRecDepth 100000 in
theorem test_admin_install_cert : let s := signed [2, 1, 0, 77]
    s.adminCheck 4 false = none := by decide +kernel
set_option maxRecDepth 100000 in
theorem test_admin_enroll : (noId (signed [])).adminCheck 0 true = none := by decide +kernel
/-- Slot 1 of the firmware holds an image without blocks, svn 7, whose signature verifies under the key in slot 1. -/
def slotS : State :=
  let h := toBytes 4 0x57464C4B ++ toBytes 2 1 ++ [1, 0xA1] ++ toBytes 4 7 ++ zeros 52
  let s := { signed [1] with flash := Mem.write [] (fwAt 1) (h ++ shake256 h 64 ++ anySig) }
  { s with jdg := { s.jdg with verified := [(1, shake256 h 64)] } }
set_option maxRecDepth 100000 in
theorem test_slot_verifies : (match slotS.fwVerify 1 with
      | .ok v => v.1 == 7 && slFind slotS.jdg.verified 1 == some v.2
      | .error _ => false) = true := by decide +kernel
theorem test_slot_memory : slotS.memOk := by unfold State.memOk; decide +kernel

theorem test_attest : jdgCode .attest (noId (jdgS 1 0)) = 9 ∧ (jdgS 1 0).identity.isSome = true := by decide +kernel
theorem test_dbg_challenge : jdgCode .dbgChallenge (jdgS 4 4) = 3 ∧ jdgCode .dbgChallenge (noId (jdgS 4 3)) = 9 ∧ (jdgS 4 3).rqN 0 4 = 3 ∧
    (jdgS 4 3).jdg.dbg = 0 := by decide +kernel
/-- A challenge with counter 4 for purposes 3 is out; the debug counter is n. -/
def chalS (n : Nat) (s : State) : State := { s with jdg := { s.jdg with dbg := n, chal := some (4, 3, [1]) } }
theorem test_dbg_token : jdgCode .dbgToken (jdgS 8 9) = 6 ∧ jdgCode .dbgToken (chalS 5 (jdgS 9 (2 ^ 64))) = 6 ∧
    jdgCode .dbgToken (chalS 4 (jdgS 9 (2 * 2 ^ 64))) = 5 ∧ jdgCode .dbgToken (chalS 4 (jdgS 9 (2 ^ 64))) = 8 ∧
    (chalS 4 (jdgS 9 (1 + 2 ^ 64))).rqN 0 8 = 1 ∧ (chalS 4 (jdgS 9 (1 + 2 ^ 64))).ns = 0 ∧
    (chalS 4 (jdgS 9 (1 + 2 ^ 64))).keyFor ((chalS 4 (jdgS 9 (1 + 2 ^ 64))).rqN 8 1) 2 = some [9] := by decide +kernel
set_option maxRecDepth 100000 in
theorem test_dbg_token_grants : let s := chalS 4 ((signed []).stBytes 0 (toBytes 8 9 ++ [1] ++ anySig))
    s.keyFor (s.rqN 8 1) 2 = some neutral ∧ ed448Verify neutral ([1] ++ toBytes 8 9) (s.rq 9 114) = true ∧ s.ns < 9 ∧
    (runJ .dbgToken s).jdg.grant = some (3, 9) := by decide +kernel
/-- An authorization for purposes 3 until n ns. -/
def grantS (n : Nat) : State := { base with jdg := { grant := some (3, n) } }
theorem test_dbg_revoke : jdgCode .dbgRevoke base = 1 ∧ jdgCode .dbgRevoke (grantS 9) = 0x10 ∧ (runJ .dbgRevoke (grantS 9)).jdg.grant = none := by
  decide +kernel
theorem test_debug_expiry : run .debugExpiry base = base ∧ run .debugExpiry (grantS 1) = grantS 1 ∧ jdgCode .debugExpiry (grantS 0) = 0x10 ∧
    (run .debugExpiry (grantS 0)).get F.JDG_DBG_granted 0 = 0 := by decide +kernel
/-- Type and body of the DOE answer in a state's output. -/
def doeOf (s : State) : Nat × List Byte := match s.out with
  | [.doe _ t b] => (t, b)
  | _ => (0, [])
/-- A request of the report. -/
def doeQ : List Byte := toBytes 4 1 ++ zeros 36
theorem test_doe_meets : base.pcieOn = true ∧ base.judgeFree = true ∧ (jdgS 1 0).jdg.ok = true ∧ base.jdg.ok = false ∧ base.host.scanMode = 0 ∧
    (run .attest (jdgS 1 0)).judgeFree = false ∧ doeQ.length = 40 ∧ leNat (doeQ.take 4) = 1 ∧ leNat ((doeQ.drop 4).take 4) = 0 ∧
    ((jdgS 1 0).report (doeQ.drop 8)).isSome = true ∧ State.reset.pcieOn = false := by decide +kernel
theorem test_doe_answers : doeOf ((noId (jdgS 1 0)).doeAnswer doeQ) = (1, toBytes 4 0xFFFF ++ toBytes 4 9) ∧
    doeOf ((jdgS 1 0).doeAnswer [1]) = (1, toBytes 4 0xFFFF ++ toBytes 4 3) := by decide +kernel
theorem test_doe_discovery : (doeOf (run (.doeRequest ⟨1, 0, [0, 0, 0, 0]⟩) base)).2 = [1, 0, 0, 1] := by decide +kernel
theorem test_doe_abort : let s := { base with jdg := { base.jdg with doe := some doeQ } }
    (run .doeAbort s).jdg.doe = none := by decide +kernel

/-! ### BAR2 and orders (Bar2ReachesHbm, OrdersComplete) -/

/-- HBM not available. -/
def noHbm : State := base.put F.HUB_HOST_READY_hbm 0 0
/-- A BAR2 of 4 KiB. -/
def smallBar : State := { base with host := { base.host with bar2 := 12 } }
/-- HUB_PCI_STATUS code after a command. -/
def pciCode (i : Instr) (s : State) : Nat := (run i s).get F.HUB_PCI_STATUS_code 0

theorem test_bar2_out : run (.bar2Write 0xFFF [(1, true), (2, true)] .none) smallBar = smallBar ∧ run (.bar2Read 0xFFF 2 .none) smallBar = smallBar ∧
    (run (.bar2Write 0xFFF [(1, true)] .none) smallBar).ld 0xFFF 1 = 1 ∧
    let s := { base with doms := [] }
    run (.bar2Write 0 [(1, true)] .none) s = s ∧ run (.bar2Read 0 1 .none) s = s := by decide +kernel
theorem test_bar2_no_hbm : pciCode (.bar2Write 0 [(1, true)] .none) noHbm = 4 ∧ (run (.bar2Write 0 [(1, true)] .none) noHbm).mem = [] ∧
    pciCode (.bar2Read 0 1 .none) noHbm = 4 ∧ (run (.bar2Read 0 1 .none) noHbm).out = [.unsupported] := by decide +kernel
theorem test_bar2_write : base.hbmUp = true ∧ let t := run (.bar2Write 0 [(1, true), (2, false), (3, true)] .none) (base.put F.HUB_PCI_B2_b2_base 0 2)
    t.ldBytes (2 * 2 ^ 30) 3 = [1, 0, 3] ∧ (run (.bar2Write 2 [(3, true)] .none) (base.put F.IMG_STORE_HI_size_gib 0 1)).mem = [] := by decide +kernel
/-- One symbol of a codeword differs; two do. -/
def oneBad : HbmUpset := { first := [(7, 5)], again := [] }
def twoBad (again : Bool) : HbmUpset := { first := [(0, 5), (9, 1)], again := if again then [(0, 5), (9, 1)] else [] }
theorem test_bar2_write_fails : partWrite 64 [true, true] 0 = true ∧ base.bar2At 64 = 64 ∧ let s := base.stH 64 4 0x04030201
    hbmDecode 64 (s.ldBytes 64 64) (twoBad true).first = .bad ∧ hbmDecode 64 (s.ldBytes 64 64) (twoBad true).again = .bad ∧
    (run (.bar2Write 64 [(7, true), (8, true)] ⟨[(0, twoBad true)]⟩) s).ldBytes 64 4 = [1, 2, 3, 4] ∧
    (run (.bar2Write 64 [(7, true), (8, true)] ⟨[(0, twoBad false)]⟩) s).ldBytes 64 4 = [7, 8, 3, 4] := by decide +kernel
theorem test_bar2_read : let s := base.stH 64 4 0x04030201
    let c := fun (t : State) (f : Fld) => t.get f 0
    s.hbmBad 64 68 = false ∧ s.bar2At 64 = 64 ∧ (run (.bar2Read 64 4 .none) s).out = [.data [1, 2, 3, 4]] ∧
    hbmDecode 64 (s.ldBytes 64 64) [] = .clean ∧ hbmDecode 64 (s.ldBytes 64 64) oneBad.first = .corrected ∧
    hbmDecode 64 (s.ldBytes 64 64) (twoBad true).first = .bad ∧
    (run (.bar2Read 64 4 ⟨[(0, oneBad)]⟩) s).out = [.data [1, 2, 3, 4]] ∧
    c (run (.bar2Read 64 4 ⟨[(0, oneBad)]⟩) s) F.HUB_HBM_ECC_CNT_corrected = 1 ∧
    (run (.bar2Read 64 4 ⟨[(0, twoBad false)]⟩) s).out = [.data [1, 2, 3, 4]] ∧
    c (run (.bar2Read 64 4 ⟨[(0, twoBad false)]⟩) s) F.HUB_HBM_ECC_CNT_transient = 1 ∧
    (run (.bar2Read 64 4 ⟨[(0, twoBad true)]⟩) s).out = [.poisoned] ∧ pciCode (.bar2Read 64 4 ⟨[(0, twoBad true)]⟩) s = 3 ∧
    c (run (.bar2Read 64 4 ⟨[(0, twoBad true)]⟩) s) F.HUB_HBM_ECC_CNT_lasting = 1 := by decide +kernel
theorem test_bar2_quarantine : let b := { base with flt := { base.flt with quar := [7 * 2 ^ 24 + 1] } }
    b.hbmBad 256 257 = true ∧ b.hbmBad 255 256 = false ∧ pciCode (.bar2Read 256 1 .none) b = 3 ∧ (run (.bar2Read 256 1 .none) b).out = [.poisoned] := by
  decide +kernel

/-- One order of an operation at head 0, with n words, flags 0, `seq` q and 56 bytes from byte 32; rings at 64 MiB and 128 KiB. -/
def ordS (op n q reply body : Nat) : State :=
  (base.puts 0 [(F.HUB_ORD_BASE_HI_en, 1), (F.HUB_CMP_BASE_HI_en, 1), (F.HUB_ORD_BASE_LO_base, 1),
      (F.HUB_CMP_BASE_LO_base, 0x20000 / 2 ^ 12), (F.HUB_CMP_BASE_HI_size_log2, 12), (F.HUB_ORD_TAIL_tail, 1), (F.HUB_ORD_CFG_batch, 1)]).stBytes (2 ^ 26)
    (toBytes 2 op ++ [0] ++ toBytes 1 n ++ toBytes 4 q ++ toBytes 16 0 ++ toBytes 8 reply ++ toBytes 56 body)
/-- `head`, and status, done and value of the first completion, after a command. -/
def ordAft (i : Instr) (s : State) : Nat × Nat × Nat × Nat :=
  let t := run i s
  (t.get F.HUB_ORD_HEAD_head 0, t.ld (0x20000 + 4) 2, t.ld (0x20000 + 6) 2, t.ld (0x20000 + 24) 8)

set_option maxRecDepth 100000 in
theorem test_order_memory : (ordS 1 0 0 0 0).memOk ∧ (ordS 2 1 0 0 0x1234_00070000).memOk := by unfold State.memOk; decide +kernel
theorem test_order_quiet : (ordS 1 0 0 0 0).hbmQuiet := (quiet_of (by decide +kernel) (by decide +kernel) (by decide +kernel)).1
theorem test_order_nop : (ordS 1 0 0 0 0).ordReady = true ∧ run .regRead (ordS 1 0 0 0 0) = ordS 1 0 0 0 0 ∧ run .nop base = base ∧
    ordAft .nop (ordS 1 0 0 0 0) = (1, 0, 0, 0) ∧ ordAft .nop (ordS 1 0 1 0 0) = (1, 2, 0, 0) ∧ ordAft .nop (ordS 1 1 0 0 0) = (1, 1, 0, 0) := by
  decide +kernel
theorem test_order_write : ordRefused 0x0100_0000 = true ∧ ordAft .regWrite (ordS 2 1 0 0 0x0100_0000) = (1, 3, 0, 0) ∧
    ordRefused (R.CLU_MODE_ALLOW.addr (cluU c0)) = false ∧
    ordAft .regWrite (ordS 2 1 0 0 (R.CLU_TRC_CFG.addr (cluU c0) + 0x64 * 2 ^ 32)) = (1, 0, 1, 0) ∧
    (run .regWrite (ordS 2 1 0 0 (R.CLU_TRC_CFG.addr (cluU c0) + 0x64 * 2 ^ 32))).get F.CLU_TRC_CFG_min_ns (cluU c0) = 0x64 := by
  decide +kernel
theorem test_order_freeze :
    let t := run .regWrite (ordS 2 2 0 0 (R.TRC_FRZ_CTRL.addr 0 + 2 ^ 32 + R.CLU_TRC_CFG.addr (cluU c0) * 2 ^ 64 + 0x64 * 2 ^ 96))
    let u := t.put F.TRC_FRZ_STATE_frozen 0 0
    (t.get F.HUB_ORD_HEAD_head 0, t.host.pairsDone, t.pacer.scanDue, t.live) = (0, 1, true, false) ∧
    ordAft .orderScan u = (1, 0, 2, 0) ∧ (run .orderScan u).get F.CLU_TRC_CFG_min_ns (cluU c0) = 0x64 := by decide +kernel
theorem test_order_read : let s := ordS 3 1 0 0x30000 (R.HUB_ID_PART.addr 0)
    ordAft .regRead s = (1, 0, 1, 0) ∧ (run .regRead s).ld 0x30000 4 = (s.busRead (R.HUB_ID_PART.addr 0)).2 ∧
    ordAft .regRead (ordS 3 1 0 0x30002 0) = (1, 1, 0, 0) := by decide +kernel
theorem test_order_poll : let s := fun m v us => ordS 4 1 0 0 (R.HUB_HOST_READY.addr 0 + m * 2 ^ 32 + v * 2 ^ 64 + us * 2 ^ 96)
    ordAft .regPoll (s 0xF00 0xF00 0) = (1, 0, 0, (base.busRead (R.HUB_HOST_READY.addr 0)).2) ∧
    ordAft .regPoll (s 0xF00 0xE00 0) = (0, 0, 0, 0) ∧ ordAft .regPoll (s 0xF00 0xE00 5) = (0, 0, 0, 0) ∧
    (ordAft .regPoll { s 0xF00 0xE00 5 with pacer := { time := 256 * 6000 }, host := { bar2 := 41, pollAt := some 1000 } }).2.1 = 4 := by
  decide +kernel
theorem test_order_scan : run .orderScan base = base ∧
    let due := fun (s : State) => { s with pacer := { s.pacer with scanDue := true } }
    (due base).startMay = false ∧ (run .orderScan (due base)) = base ∧
    ordAft .orderScan (due (ordS 1 0 0 0 0)) = (1, 0, 0, 0) ∧ (run .orderScan (due (ordS 1 0 0 0 0))).pacer.scanDue = false ∧
    run .orderScan { due base with starter := {} } = { due base with starter := {} } := by decide +kernel

/-! ### Endpoint, SMBus, JTAG (EndpointAndSideband) -/

theorem test_endpoint_resets : [Instr.perstN, .hotReset, .functionLevelReset].all (fun c =>
    let t := run c (base.put F.HUB_PCI_B2_b2_base 0 5)
    decide (t.get F.HUB_PCI_STATUS_code 0 = 5) && t.get F.HUB_PCI_B2_b2_base 0 == 0 && decide (t.host.bar2 = 41)) = true := by decide +kernel
theorem test_pci_link : pciCode .pciLinkDown base = 1 ∧ pciCode (.pciLinkTrained 4 7) base = 0 ∧ pciCode (.pciLinkTrained 3 7) base = 2 ∧
    pciCode (.pciLinkTrained 4 6) base = 2 ∧ (run (.pciLinkTrained 4 7) base).get F.HUB_PCI_STATUS_width 0 = 4 ∧
    (run (.pciLinkTrained 0 1) base).get F.HUB_PCI_STATUS_rate 0 = 1 := by decide +kernel
theorem test_smbus_pec : (run (.getId false) base).out = [.nack] ∧ (run (.getState false) base).out = [.nack] ∧
    (run (.setBib 7 false) base).out = [.nack] ∧ (run (.readReg 0 false) base).out = [.nack] ∧ (run (.clearAlert 255 false) base).out = [.nack] := by
  decide +kernel
/-- The bytes of the SMBus answer to a command. -/
def smb (i : Instr) (s : State) : List Byte := match (run i s).out with
  | [.smbus b] => b
  | _ => []
theorem test_get_id : (smb (.getId true) base).length = 16 ∧ leNat ((smb (.getId true) base).take 2) = base.get F.HUB_ID_PART_part 0 ∧
    (smb (.getId true) ((base.put F.HUB_ID_BIB_bib 0 0x123456).put F.HUB_ID_BIB_bib_valid 0 1)).drop 4 = [0x56, 0x34, 0x12, 1, 0, 0, 0, 0, 0, 0, 0, 0] := by
  decide +kernel
theorem test_get_state : smb (.getState true) ((base.put F.PWR_MEAS_bus_mv 0 0x1234).put F.PWR_THERM_t_max 0 77) =
    [0x29, 0x0F, 0, 0, 0, 0, 0x34, 0x12, 0, 0, 77, 0] := by decide +kernel
theorem test_set_bib : base.stage ≠ 0 ∧ run (.setBib 7 true) State.reset = State.reset ∧ run (.getId true) State.reset = State.reset ∧
    (let s := base.put F.RLY_CTRL_enable 5 1; (run (.setBib 7 true) s).get F.RLY_STATE_state 5 = 1 ∧
      (run (.setBib 7 true) s).get F.RLY_STATE_state 4 = 0) ∧ (run (.setBib 0x123456 true) base).get F.HUB_ID_BIB_bib 0 = 0x123456 ∧
    (run (.setBib 0x123456 true) (base.put F.RLY_STATE_state 63 1)).out = [.nack] := by decide +kernel
theorem test_read_reg : R.JDG_REQ_LO ∈ rwRegs ∧ plainOf (BitVec.ofNat 32 (R.JDG_REQ_LO.addr 0)).toNat = R.JDG_REQ_LO.addr 0 ∧
    base.served R.JDG_REQ_LO.blk 0 R.JDG_REQ_LO.off = true ∧
    smb (.readReg (BitVec.ofNat 32 (R.JDG_REQ_LO.addr 0)) true) (base.put F.JDG_REQ_LO_req 0 5) =
      toBytes 4 ((base.put F.JDG_REQ_LO_req 0 5).rd R.JDG_REQ_LO 0).toNat := by decide +kernel
theorem test_alert : run .alertResponse base = base ∧ let s := { base with host := { base.host with alerts := 6 }, flt := { base.flt with degraded := true } }
    smb .alertResponse s = [0x58] ∧ (run (.clearAlert 6 true) s).host.alerts = 4 ∧ (run (.clearAlert 1 true) s).host.alerts = 6 := by decide +kernel
theorem test_jtag : (run .bypass { base with host := { base.host with scanMode := 1 } }).host.scanMode = 0 ∧ (run .extest base).host.scanMode = 1 ∧
    (run .clamp base).host.scanMode = 2 ∧ (run .highz base).host.scanMode = 3 ∧ (run .extest base).emit .nack = run .extest base ∧
    (run (.samplePreload 9) base).host.scanCells = 9 ∧ (run (.samplePreload 9) base).out.length = 1 ∧ Emit.nack.onPins = true := by decide +kernel

/-! ### Power-on, resets, stewards (PowerOnAndResets, StewardsAndFirmware) -/

/-- What bring-up finds when nothing fails, with the bus at mv. -/
def clean (mv : Nat) : BringUp :=
  { stewardFails := [], stackFails := [], dieFails := [], clusterFails := [], copyFails := [], ringFails := false, testFails := [], retried := [],
    mv := mv }
/-- Remap tables for one die with one cluster; copy k has generation k. -/
def cold : State :=
  let tab : RemapTable := { dieMap := [0], cluMap := [(0, [0])], coreMap := [(0, [0, 1])] }
  { State.reset with flt := { copy0 := { gen := 0, tab := tab }, copy1 := { gen := 1, tab := { tab with cluMap := [(0, [1])] } } } }
/-- A switch pending, a restart of the stewards, failures of it; no firmware slot verifies. -/
def fwS (pend : Nat) (restart : Bool) (fails : Nat) : State :=
  { base.put F.HUB_FW_STATUS_pending 0 pend with flt := { base.flt with fwRestart := restart, fwFails := fails } }

theorem test_power_on_refused : run (.powerOn (clean 50000)) base = base ∧ run (.powerOn (clean 39999)) cold = cold ∧
    (let s := { cold with pacer := { thermtrip := true } }; run (.powerOn (clean 50000)) s = s) ∧
    let s := ({ cold with pacer := { waitBus := true } }).put F.PWR_SAG_sag_dv 0 440
    run (.powerOn (clean 44000)) s = s := by decide +kernel
theorem test_power_on : bringUpClean (clean 40000) ∧ let t := run (.powerOn (clean 40000)) cold
    t.stage = 6 ∧ t.flt.cluMap = [(0, [1])] ∧ t.dom (.cluster c1) = .on ∧ t.dom (.cluster c0) = .off ∧ t.dom .judge = .on ∧
    t.get F.HUB_HOST_READY_hbm 0 = 1 := by unfold bringUpClean; decide +kernel
theorem test_power_on_copy0 : let s := { cold with flt := { cold.flt with copy0 := { gen := 1, tab := cold.flt.copy0.tab } } }
    cold.remapBad [] = [] ∧ s.remapBad [] = [] ∧
    { cold with flt := { cold.flt with copy0 := { cold.flt.copy0 with gen := 1 } } }.remapBad [] = [0] ∧
    (run (.powerOn (clean 40000)) s).flt.cluMap = [(0, [0])] := by decide +kernel
theorem test_power_on_no_copy : (run (.powerOn { clean 40000 with copyFails := [0, 1] }) cold).stage = 0x83 := by decide +kernel
theorem test_pwr_ok_fall : (run .pwrOkFall base).stage = 0 ∧ (run .pwrOkFall base).doms = [] ∧
    (run .pwrOkFall { cold with pacer := { thermtrip := true } }).pacer.thermtrip = false := by decide +kernel
theorem test_module_reset : run (.moduleReset 0xA9800000) base = base ∧ run (.moduleReset 1) base = base ∧
    let t := run (.moduleReset 0xA9800001) ((base.put F.HUB_ID_BIB_bib 0 7).put F.PCR_SPT_CTRL_arm 31 1)
    t.stage = 1 ∧ t.get F.HUB_ID_BIB_bib 0 = 7 ∧ t.get F.HUB_RST_CAUSE_resets 0 = 1 ∧ t.get F.HUB_RST_CAUSE_cause 0 = 1 ∧
    t.get F.PCR_SPT_CTRL_arm 31 = 0 ∧ t.flt.dieMap.length = 16 := by decide +kernel

theorem test_fw_switch_waits : let s := { fwS 0 false 0 with jdg := { run := some (5, []) } }
    s.judgeUp = true ∧ (run .hubFwSwitch s).flt.fwAsk = true ∧ run .hubFwSwitch (run .hubFwSwitch s) = run .hubFwSwitch s := by decide +kernel
theorem test_fw_switch : run .hubFwSwitch (fwS 1 false 0) = fwS 1 false 0 ∧ run .hubFwSwitch (fwS 0 true 0) = fwS 0 true 0 ∧
    (match (fwS 0 false 0).fwVerify 1 with | .error c => c == 4 | .ok _ => false) = true ∧ (run .hubFwSwitch (fwS 0 false 0)).get F.HUB_FLT_STATUS_code 0 = 0x0C ∧
    (run .hubFwSwitch (fwS 0 false 0)).get F.HUB_FW_STATUS_fallback 0 = 1 ∧
    (run .hubFwSwitch (base.put F.JDG_STATE_error 0 1)).get F.HUB_FW_STATUS_pending 0 = 0 := by decide +kernel
theorem test_steward_ready : (let s := fwS 0 true 0; let l := { s with flt := { s.flt with fwLost := true } }; run .stewardReady l = l) ∧ let s := base.puts 0 [(F.HUB_HOST_READY_stage, 6), (F.JDG_STATE_ready, 1)]
    (run .stewardReady s).stage = 0x0F ∧ (run .stewardReady s).get F.PCR_SPT_PERIOD_period 1 = 50000 ∧
    (run .stewardReady s).get64 R.PCR_SPT_CMP_LO R.PCR_SPT_CMP_HI 1 = 50000 ∧ run .stewardReady base = base ∧
    (run .stewardReady (fwS 0 true 0)).flt.fwRestart = false ∧ (run .stewardReady (fwS 1 true 0)).get F.HUB_FW_STATUS_active 0 = 1 ∧
    (run .stewardReady (fwS 1 true 0)).jdg.boot = 1 := by decide +kernel
theorem test_steward_timeout : run .stewardReadyTimeout base = base ∧ run .stewardReadyTimeout (fwS 0 true 0) = fwS 0 true 0 ∧
    (run .stewardReadyTimeout (fwS 1 true 0)).flt.fwFails = 1 ∧ (run .stewardReadyTimeout (fwS 1 true 1)).get F.HUB_FW_STATUS_fallback 0 = 1 ∧
    (run .stewardReadyTimeout (fwS 1 true 1)).get F.HUB_FW_STATUS_pending 0 = 0 := by decide +kernel
theorem test_power_on_stops : let t := run (.powerOn { clean 40000 with copyFails := [0, 1] }) cold
    t.dom (.hubCtl 0) = .on ∧ t.dom (.hubCtl 1) = .off ∧ t.dom (.hbm 0) = .off ∧ cold.live = true ∧
    (let f := cold.put F.TRC_FRZ_STATE_frozen 0 1; run (.powerOn (clean 40000)) f = f) := by decide +kernel
theorem test_power_on_core : let t := run (.powerOn { clean 40000 with coreFails := [coreNo c1 0] }) cold
    t.quarIs 2 (coreUnit (coreNo c1 0)) = true ∧ (t.activeCores c1).take 2 = [50, 1] := by decide +kernel
end Sys2Proof.Tests
end

/-!
PROOFS. The end of a verification whose image cannot be read (R444), and the refutation of ImagesLoadAndApply.
-/

namespace Sys2Proof.Machine

/-- A register that two states hold alike counts a report from either. -/
theorem State.reports_of_rd_eq {s t v : State} {r : RegDef} {u c : Nat} (heq : t.rd r u = s.rd r u) (hrep : t.reports v r u c) :
    s.reports v r u c := by
  unfold State.reports at hrep ⊢
  rwa [← heq]

/-- The image loader's report of a code (R459). -/
theorem State.imgPost_reports (s : State) (c i : Nat) (hc : c < 256) : s.reports (s.imgPost c i) R.IMG_STATUS 0 c :=
  (State.post_spec s R.IMG_STATUS 0 [(F.IMG_STATUS_index, i)] c 1361 (by simp [F.IMG_STATUS_index]) hc (by decide)
    (by decide +kernel)).1

/-- While the clocks run and no mailbox command does, a tick ends the verification under way (log 53). -/
theorem State.imgTick_of_loading (s : State) (a : Nat) (hload : s.img.loading = some a) (hlive : s.live = true)
    (hrun : s.jdg.run = none) : s.imgTick = s.imgVerdict a := by
  simp [State.imgTick, hload, hlive, hrun]

/-- Verification of an image of which a read failed: IMG_STATE goes back to 0 and code 7 is reported, in the state that the read
leaves (R444, log 127). -/
theorem State.imgVerdict_of_read_fails (s : State) (a : Nat) (hfail : (s.hbmMeet a (max 256 (s.ldH (a + 16) 8))).2 = true) :
    let t := (s.hbmMeet a (max 256 (s.ldH (a + 16) 8))).1
    s.imgVerdict a = (({ t with img := { t.img with loading := none } }).puts 0
      [(F.IMG_STATE_scope, 0), (F.IMG_STATE_state, 0)]).imgPost 7 0 := by
  simp only [State.imgVerdict, hfail, if_true]

/-- The report of a failed read counts on from what IMG_STATUS holds after the read, which may itself have reported. -/
theorem State.imgVerdict_reports_of_read_fails (s : State) (a : Nat)
    (hfail : (s.hbmMeet a (max 256 (s.ldH (a + 16) 8))).2 = true) :
    (s.hbmMeet a (max 256 (s.ldH (a + 16) 8))).1.reports (s.imgVerdict a) R.IMG_STATUS 0 7 := by
  rw [State.imgVerdict_of_read_fails s a hfail]
  refine State.reports_of_rd_eq ?_ (State.imgPost_reports _ 7 0 (by decide))
  exact State.puts_rd_other _ 0 _ R.IMG_STATUS 0 (by decide)

/-- Two symbols of an access of HBM read wrong, which its code detects and cannot correct (R287). -/
def twoSymbols : List (Fin 39 × BitVec 16) := [(0, 5), (9, 1)]

/-- An image at HBM 0 is being verified, and its access at 64 shows a lasting error. Trigger 5, a lasting fault, is enabled and
freezes (R501); the freeze is to drive FREEZE_N, for which no claim is held (R450, R504). -/
def readFreezes : State :=
  { State.reset.puts 0 [(F.HUB_HOST_READY_stage, 0x0F), (F.TRC_TRIG_CFG_en, 2 ^ 5), (F.TRC_TRIG_CFG_freeze_on, 2 ^ 5),
      (F.TRC_FRZ_CTRL_drive, 1)] with
    img := { loading := some 0 }
    upsets := { hbm := [(64, { first := twoSymbols, again := twoSymbols })] } }

theorem readFreezes_live : readFreezes.live = true := by decide +kernel

/-- The read of the image fails, and on its way the freeze reports that its drive of FREEZE_N is denied. -/
theorem readFreezes_read : (readFreezes.hbmMeet 0 (max 256 (readFreezes.ldH (0 + 16) 8))).2 = true ∧
    readFreezes.reports (readFreezes.hbmMeet 0 (max 256 (readFreezes.ldH (0 + 16) 8))).1 R.IMG_STATUS 0 0x12 := by
  unfold State.reports
  decide +kernel

/-- Refutes O50: where the read that fails an image has a lasting error, the fault may freeze the module, and the freeze may report
a denied claim in IMG_STATUS. The clause on a failed read, that one report of code 7 follows, then fails by its `seq`: in
`readFreezes`, which meets the conditions, the tick reports twice, 0x12 and then 7. -/
theorem not_imagesLoadAndApply : ¬ Obligations.ImagesLoadAndApply := by
  unfold Obligations.ImagesLoadAndApply
  intro h
  obtain ⟨-, -, hverify, -⟩ := h readFreezes readFreezes_live
  obtain ⟨hfail, -, hdenied⟩ := readFreezes_read
  obtain ⟨⟨-, honce⟩, -⟩ := (hverify 0 rfl rfl).1 hfail
  obtain ⟨-, htwice⟩ := State.imgVerdict_reports_of_read_fails readFreezes 0 hfail
  rw [State.imgTick_of_loading readFreezes 0 rfl readFreezes_live rfl] at honce
  omega

end Sys2Proof.Machine

/-!
PROOFS. The Judge's report of a code, a mailbox command run to its end (R481, R483, R485; log 43).
-/

namespace Sys2Proof.Machine

variable {s t u : State} {c n : Nat} {l : List Nat}

/-- What an event leaves alone does not speak of the Judge's own state or of memory. -/
theorem State.onlyEvent_setJdgMem (h : u.onlyEvent t l) (j : Judge) (m : List Host.Cell) :
    State.onlyEvent { u with jdg := j, mem := m } { t with jdg := j, mem := m } l := by
  obtain ⟨heq, hregs⟩ := h
  exact ⟨by rw [heq], hregs⟩

/-- The Judge's report of a code (R485). -/
theorem State.jdgPost_spec (s : State) (hc : c < 256) :
    s.reports (s.jdgPost c) R.JDG_STATUS 0 c ∧ s.onlyEvent (s.jdgPost c) [R.JDG_STATUS.addr 0] :=
  State.post_spec s R.JDG_STATUS 0 [] c 2304 (by simp) hc (by decide) (by decide +kernel)

@[simp] theorem State.jdgPost_jdg (s : State) (c : Nat) : (s.jdgPost c).jdg = s.jdg := State.post_jdg s _ _ _ _ _

@[simp] theorem State.jdgPost_mem (s : State) (c : Nat) : (s.jdgPost c).mem = s.mem := State.post_mem s _ _ _ _ _

/-- A report of the Judge leaves the fields of JDG_DBG as they are. -/
theorem State.jdgPost_granted (s : State) (hc : c < 256) :
    (s.jdgPost c).get F.JDG_DBG_granted 0 = s.get F.JDG_DBG_granted 0 := by
  obtain ⟨-, hevent⟩ := State.jdgPost_spec s hc
  unfold State.get
  rw [State.rd_of_onlyEvent hevent F.JDG_DBG_granted.reg 0 (by decide +kernel) (by decide +kernel)]

/-- A change of the Judge's state, of memory and of the registers of l, and then the report of a code. -/
theorem State.jdgSays_jdgPost (h : s.onlyEvent { u with jdg := s.jdg, mem := s.mem } l) (hl : R.JDG_STATUS.addr 0 ∉ l)
    (hc : c < 256) : s.jdgSays (u.jdgPost c) c l := by
  obtain ⟨hreport, hevent⟩ := State.jdgPost_spec u hc
  refine ⟨State.reports_of_rd_eq ?_ hreport, State.onlyEvent_trans (State.onlyEvent_mono h ?_)
    (State.onlyEvent_mono (State.onlyEvent_setJdgMem hevent s.jdg s.mem) ?_)⟩
  · exact State.rd_of_onlyEvent h R.JDG_STATUS 0 hl (by decide +kernel)
  · exact fun a ha => List.mem_cons_of_mem _ ha
  · simp

/-- A report that follows a change of the Judge's state and of memory alone. -/
theorem State.jdgSays_jdgPost_of_regs (s : State) (j : Judge) (m : List Host.Cell) (hc : c < 256) :
    s.jdgSays (State.jdgPost { s with jdg := j, mem := m } c) c [] :=
  State.jdgSays_jdgPost (u := { s with jdg := j, mem := m }) (State.onlyEvent_refl s []) (by simp) hc

/-- A command that only reports a code is refused with it. -/
theorem State.jdgRefuses_jdgPost (s : State) (hc : c < 256) : s.jdgRefuses (s.jdgPost c) c :=
  ⟨State.jdgSays_jdgPost_of_regs s s.jdg s.mem hc, by simp, by simp⟩

/-- Memory after the response bs was written (R482). -/
theorem State.jdgReplied_of_mem (hs : s.memOk) (bs : List Byte) (hm : t.mem = (s.jdgReply bs).mem) : s.jdgReplied t bs := by
  obtain ⟨hmem, -⟩ := hs
  constructor
  · rw [State.ldBytes, hm]
    exact Mem.read_write _ _ bs hmem
  · intro x hx
    rw [hm]
    exact Mem.get_write_out _ _ x bs hmem hx

/-- In service and with no command running, the Judge starts the command (R481, R483). -/
theorem State.jdgStart_of_idle (s : State) (n : Nat) (fails : List (Fin 2 × Bool)) (hup : s.judgeUp = true)
    (hrun : s.jdg.run = none) : s.jdgStart n fails = { s with jdg := { s.jdg with run := some (n, fails) } } := by
  simp [State.jdgStart, hup, hrun]

/-- A command that starts on an idle Judge runs to what its number names, in the state that it started in (log 43). -/
theorem State.jdgRan_of_idle {i : Instr} {fails : List (Fin 2 × Bool)} {effect : State → State} (hup : s.judgeUp = true)
    (hrun : s.jdg.run = none) (hstart : exec i s = .next (s.jdgStart n fails))
    (hdone : ∀ v : State, v.jdg.run = some (n, fails) → v.jdgDone = effect { v with jdg := { v.jdg with run := none } }) :
    s.jdgRan i n fails (effect s) := by
  refine ⟨by rw [hstart, State.jdgStart_of_idle s n fails hup hrun], ?_⟩
  rw [hdone _ rfl]
  have hidle : { s.jdg with run := none } = s.jdg := by rw [← hrun]
  simp only [hidle]

/-- A command that runs to the report of a code alone is refused with it. -/
theorem State.jdgRan_refused {i : Instr} {fails : List (Fin 2 × Bool)} (hran : s.jdgRan i n fails t) (ht : t = s.jdgPost c)
    (hc : c < 256) : ∃ t, s.jdgRan i n fails t ∧ s.jdgRefuses t c :=
  ⟨t, hran, ht ▸ State.jdgRefuses_jdgPost s hc⟩

theorem State.jdgRan_attest (hup : s.judgeUp = true) (hrun : s.jdg.run = none) : s.jdgRan .attest 5 [] s.attest :=
  State.jdgRan_of_idle hup hrun rfl fun v hv => by simp only [State.jdgDone, hv]

theorem State.jdgRan_dbgChallenge (hup : s.judgeUp = true) (hrun : s.jdg.run = none) :
    s.jdgRan .dbgChallenge 6 [] s.dbgChallenge :=
  State.jdgRan_of_idle hup hrun rfl fun v hv => by simp only [State.jdgDone, hv]

theorem State.jdgRan_dbgToken (hup : s.judgeUp = true) (hrun : s.jdg.run = none) : s.jdgRan .dbgToken 7 [] s.dbgToken :=
  State.jdgRan_of_idle hup hrun rfl fun v hv => by simp only [State.jdgDone, hv]

theorem State.jdgRan_dbgRevoke (hup : s.judgeUp = true) (hrun : s.jdg.run = none) :
    s.jdgRan .dbgRevoke 8 [] (if s.jdg.grant.isNone then s.jdgPost 1 else s.dbgEnd) :=
  State.jdgRan_of_idle (effect := fun v => if v.jdg.grant.isNone then v.jdgPost 1 else v.dbgEnd) hup hrun rfl
    fun v hv => by simp only [State.jdgDone, hv]

end Sys2Proof.Machine

/-!
PROOFS. What attestation, the debug authorization and DOE requests do, case by case (R473 to R478), and JudgeAuthorizes.
-/

namespace Sys2Proof.Machine

variable {s : State} {n p : Nat} {c k pub id : List Byte}

/-! ### Attestation (R473 to R475) -/

theorem State.report_of_no_identity (nonce : List Byte) (hid : s.identity = none) : s.report nonce = none := by
  simp [State.report, hid]

/-- With an identity the report is its body, then the signature. -/
theorem State.report_of_identity (nonce : List Byte) (hid : s.identity = some pub) :
    ∃ sig, s.report nonce = some (s.reportBody nonce pub ++ sig) := by
  obtain ⟨key, hkey, -⟩ := Option.map_eq_some_iff.mp hid
  refine ⟨padTo 114 (ed448Sign key (s.reportBody nonce pub)) ++ [0, 0], ?_⟩
  simp [State.report, hid, State.idSign, hkey]

theorem State.attest_of_no_identity (hid : s.identity = none) : s.attest = s.jdgPost 9 := by
  simp [State.attest, State.report_of_no_identity _ hid]

theorem State.attest_of_report {r : List Byte} (hr : s.report (s.rq 0 32) = some r) : s.attest = (s.jdgReply r).jdgPost 1 := by
  simp [State.attest, hr]

/-! ### The debug authorization (R476 to R478) -/

theorem State.dbgChallenge_of_purposes (hp : 3 < s.rqN 0 4) : s.dbgChallenge = s.jdgPost 3 := by
  simp [State.dbgChallenge, hp]

theorem State.dbgChallenge_of_no_identity (hp : s.rqN 0 4 ≤ 3) (hid : s.identity = none) : s.dbgChallenge = s.jdgPost 9 := by
  simp [State.dbgChallenge, Nat.not_lt.mpr hp, hid]

/-- The challenge for the next value n of the debug counter (R476). -/
def State.nextChallenge (s : State) (id : List Byte) : List Byte :=
  shake256 (id ++ toBytes 8 (s.jdg.dbg + 1) ++ toBytes 4 (s.rqN 0 4)) 64

/-- The Judge's state once the debug counter has advanced: the new challenge stands, the one before it is past (R476, R477). -/
def State.challenged (s : State) (id : List Byte) : Judge :=
  { s.jdg with
    dbg := s.jdg.dbg + 1
    chal := some (s.jdg.dbg + 1, s.rqN 0 4, s.nextChallenge id)
    past := s.jdg.past ++ (s.jdg.chal.map (fun x => x.2.2)).toList }

theorem State.dbgChallenge_of_identity (hp : s.rqN 0 4 ≤ 3) (hid : s.identity = some id) (hdbg : s.jdg.dbg < 2 ^ 24) :
    s.dbgChallenge = State.jdgPost { s with
      jdg := s.challenged id
      mem := (s.jdgReply (toBytes 8 (s.jdg.dbg + 1) ++ s.nextChallenge id)).mem } 1 := by
  have hleft : ¬ counterMax ≤ s.jdg.dbg := Nat.not_le.mpr hdbg
  simp only [State.dbgChallenge, Nat.not_lt.mpr hp, hid, hleft, if_false, State.challenged, State.nextChallenge,
    State.jdgReply, State.stBytes]

/-- Does the token of the request answer challenge q: its signature verifies over q and the expiry (R477). -/
def State.tokenAnswers (s : State) (q : List Byte) : Bool :=
  ed448Verify (s.keySlot (s.rqN 8 1)).pub (q ++ toBytes 8 (s.rqN 0 8)) (s.rq 9 114)

/-- The debug counter still stands at the challenge's n, and the token answers no earlier challenge: the first check of R477. -/
def State.tokenCurrent (s : State) (n : Nat) : Prop := s.jdg.dbg = n ∧ ∀ q ∈ s.jdg.past, s.tokenAnswers q = false

theorem State.dbgToken_of_no_challenge (hchal : s.jdg.chal = none) : s.dbgToken = s.jdgPost 6 := by
  simp [State.dbgToken, hchal]

/-- A token whose first check fails. -/
theorem State.dbgToken_of_stale (hchal : s.jdg.chal = some (n, p, c)) (hold : ¬ s.tokenCurrent n) :
    s.dbgToken = s.jdgPost 6 := by
  have hcheck : (s.jdg.dbg != n || s.jdg.past.any (fun q => s.tokenAnswers q)) = true := by
    rw [State.tokenCurrent, Classical.not_and_iff_not_or_not] at hold
    simpa using hold
  simp only [State.tokenAnswers] at hcheck
  simp only [State.dbgToken, hchal, hcheck, if_true]

/-- A token whose first check passes: the checks that remain. -/
theorem State.dbgToken_of_current (hchal : s.jdg.chal = some (n, p, c)) (hcur : s.tokenCurrent n) :
    s.dbgToken = if (s.keyFor (s.rqN 8 1) 2).isNone then s.jdgPost 5
      else if s.rqN 0 8 ≤ s.ns then s.jdgPost 8
      else if !s.tokenAnswers c then s.jdgPost 4
      else (State.put { s with jdg := { s.jdg with grant := some (p, s.rqN 0 8) } } F.JDG_DBG_granted 0 p).jdgPost 0x0F := by
  obtain ⟨hdbg, hpast⟩ := hcur
  have hcheck : (s.jdg.dbg != n || s.jdg.past.any (fun q => s.tokenAnswers q)) = false := by simpa [hdbg] using hpast
  simp only [State.tokenAnswers] at hcheck
  simp only [State.dbgToken, State.tokenAnswers, hchal, hcheck, Bool.false_eq_true, if_false]
  cases s.keyFor (s.rqN 8 1) 2 with
  | none => simp only [Option.isNone_none, if_true]
  | some _ => simp only [Option.isNone_some, Bool.false_eq_true, if_false]

/-- A key in force is the key of its slot (R464). -/
theorem State.pub_of_keyFor {slot purpose : Nat} (hkey : s.keyFor slot purpose = some k) : (s.keySlot slot).pub = k := by
  simp only [State.keyFor] at hkey
  split at hkey
  · exact Option.some.inj hkey
  · cases hkey

/-- The Judge sets its debug grant and shows the purposes granted in JDG_DBG, with the report of it: how an authorization begins
and how it ends. -/
theorem State.jdgSays_grant (s : State) (g : Option (Nat × Nat)) (p code : Nat) (hc : code < 256) :
    let t := (State.put { s with jdg := { s.jdg with grant := g } } F.JDG_DBG_granted 0 p).jdgPost code
    s.jdgSays t code [R.JDG_DBG.addr 0] ∧ t.mem = s.mem ∧ t.jdg = { s.jdg with grant := g } ∧
      t.get F.JDG_DBG_granted 0 = p % 4 := by
  refine ⟨State.jdgSays_jdgPost ?_ (by decide +kernel) hc, by simp, by simp, ?_⟩
  · exact State.onlyEvent_setJdgMem (State.onlyEvent_wr _ _ _ _) s.jdg s.mem
  · rw [State.jdgPost_granted _ hc]
    exact State.get_put_same _ F.JDG_DBG_granted 0 p (by decide) (by decide)

theorem State.dbgEnd_of_grant {g : Nat × Nat} (hg : s.jdg.grant = some g) :
    s.dbgEnd = (State.put { s with jdg := { s.jdg with grant := none } } F.JDG_DBG_granted 0 0).jdgPost 0x10 := by
  simp [State.dbgEnd, hg]

theorem exec_debugExpiry_of_no_grant (hg : s.jdg.grant = none) : exec .debugExpiry s = .next s := by
  show execDebugExpiry s = _
  simp [execDebugExpiry, hg]

theorem exec_debugExpiry_of_grant {g : Nat × Nat} (hg : s.jdg.grant = some g) :
    exec .debugExpiry s = .next (if g.2 ≤ s.ns then s.dbgEnd else s) := by
  show execDebugExpiry s = _
  simp [execDebugExpiry, hg]

/-! ### DOE requests (R473, R475, R552) -/

/-- An object of the module's own attestation type (R473). -/
def State.doeOwn (s : State) (q : DoeObj) : Prop := q.vendor = s.pciConfig 0 % 2 ^ 16 ∧ q.typ = 1

/-- A discovery object (R473). -/
def doeDiscovers (q : DoeObj) : Prop := q.vendor = 1 ∧ q.typ = 0

/-- A request for attestation in the form that R473 gives it. -/
abbrev doeGood (body : List Byte) : Prop := body.length = 40 ∧ leNat (body.take 4) = 1 ∧ leNat ((body.drop 4).take 4) = 0

/-- While the boundary scan does not drive the pins, an output is issued (R566). -/
theorem State.emit_of_no_scan (e : Emit) (hscan : s.host.scanMode = 0) : s.emit e = { s with out := s.out ++ [e] } := by
  simp [State.emit, hscan]

theorem exec_doeRequest_of_off (q : DoeObj) (hoff : s.pcieOn = false) : exec (.doeRequest q) s = .next s := by
  show execDoeRequest q s = _
  simp [execDoeRequest, hoff]

theorem exec_doeRequest_of_other {q : DoeObj} (hown : ¬ s.doeOwn q) (hdisc : ¬ doeDiscovers q) :
    exec (.doeRequest q) s = .next s := by
  have hdisc' : (q.vendor == 1 && q.typ == 0) = false := by simpa [doeDiscovers] using hdisc
  have hother : (q.vendor != s.pciConfig 0 % 2 ^ 16 || q.typ != 1) = true := by
    rw [State.doeOwn, Classical.not_and_iff_not_or_not] at hown
    simpa using hown
  show execDoeRequest q s = _
  simp only [execDoeRequest, hdisc', hother, Bool.false_eq_true, if_true, if_false, ite_self]

theorem exec_doeRequest_of_discovery {q : DoeObj} (hon : s.pcieOn = true) (hdisc : doeDiscovers q) :
    exec (.doeRequest q) s = .next (s.doeDiscover q.body) := by
  obtain ⟨hvendor, htyp⟩ := hdisc
  show execDoeRequest q s = _
  simp [execDoeRequest, hon, hvendor, htyp]

/-- An attestation request is answered when the Judge serves it, and else waits (R473, R481, R552). -/
theorem exec_doeRequest_of_own {q : DoeObj} (hon : s.pcieOn = true) (hown : s.doeOwn q) :
    exec (.doeRequest q) s = .next (if s.judgeFree && s.jdg.ok then s.doeAnswer q.body
      else { s with jdg := { s.jdg with doe := some q.body } }) := by
  obtain ⟨hvendor, htyp⟩ := hown
  show execDoeRequest q s = _
  simp [execDoeRequest, hon, hvendor, htyp]

/-- A discovery answer has four bytes (log 132). -/
theorem State.doeDiscover_spec (body : List Byte) (hscan : s.host.scanMode = 0) :
    ∃ r, r.length = 4 ∧ s.doeDiscover body = { s with out := s.out ++ [.doe 1 0 r] } := by
  simp only [State.doeDiscover, State.emit_of_no_scan _ hscan]
  refine ⟨_, ?_, rfl⟩
  split <;> rfl

/-- The response to an attestation request with report r. -/
theorem State.doeAnswer_of_report {body r : List Byte} (hscan : s.host.scanMode = 0) (hgood : doeGood body)
    (hr : s.report (body.drop 8) = some r) :
    s.doeAnswer body = { s with out := s.out ++ [.doe (s.pciConfig 0 % 2 ^ 16) 1 r] } := by
  obtain ⟨hlen, hver, hzero⟩ := hgood
  simp [State.doeAnswer, State.doeReply, hlen, hver, hzero, hr, State.emit_of_no_scan _ hscan]

theorem State.doeAnswer_of_malformed {body : List Byte} (hbad : ¬ doeGood body) : s.doeAnswer body = s.doeError 3 := by
  have hcheck : (body.length != 40 || leNat (body.take 4) != 1 || leNat ((body.drop 4).take 4) != 0) = true := by
    rw [doeGood, Classical.not_and_iff_not_or_not, Classical.not_and_iff_not_or_not, ← or_assoc] at hbad
    simpa only [Bool.or_eq_true, bne_iff_ne] using hbad
  simp only [State.doeAnswer, hcheck, if_true]

theorem State.doeAnswer_of_no_identity {body : List Byte} (hgood : doeGood body) (hid : s.identity = none) :
    s.doeAnswer body = s.doeError 9 := by
  obtain ⟨hlen, hver, hzero⟩ := hgood
  simp [State.doeAnswer, hlen, hver, hzero, State.report_of_no_identity _ hid]

/-- The error body says which of the two is missing: a form that R473 gives, or an identity. -/
theorem State.doeAnswer_error {body : List Byte} (hnone : ¬ doeGood body ∨ s.identity = none) :
    s.doeAnswer body = s.doeError (if doeGood body then 9 else 3) := by
  by_cases hgood : doeGood body
  · rw [if_pos hgood, State.doeAnswer_of_no_identity hgood (hnone.resolve_left (not_not_intro hgood))]
  · rw [if_neg hgood, State.doeAnswer_of_malformed hgood]

theorem State.doeError_of_no_scan (code : Nat) (hscan : s.host.scanMode = 0) :
    s.doeError code = { s with out := s.out ++ [.doe (s.pciConfig 0 % 2 ^ 16) 1 (toBytes 4 0xFFFF ++ toBytes 4 code)] } :=
  State.emit_of_no_scan _ hscan


/-! ### The clauses of JudgeAuthorizes -/

section
variable {s : State} (hup : s.judgeUp = true) (hrun : s.jdg.run = none)
include hup hrun

/-- ATTEST with an identity: the signed report is the response (R474). -/
theorem State.attest_answers {pub : List Byte} (hmem : s.memOk) (hid : s.identity = some pub) :
    ∃ t r, s.jdgRan .attest 5 [] t ∧ s.report (s.rq 0 32) = some r ∧
      r.take (s.reportBody (s.rq 0 32) pub).length = s.reportBody (s.rq 0 32) pub ∧ s.jdgReplied t r ∧ s.jdgSays t 1 [] ∧
      t.jdg = s.jdg := by
  obtain ⟨sig, hreport⟩ := State.report_of_identity (s.rq 0 32) hid
  have hran := State.jdgRan_attest hup hrun
  rw [State.attest_of_report hreport] at hran
  exact ⟨_, _, hran, hreport, List.take_left, State.jdgReplied_of_mem hmem _ (by simp),
    State.jdgSays_jdgPost_of_regs s s.jdg _ (by decide), by simp [State.jdgReply]⟩

/-- DBG_CHALLENGE with an identity: the counter advances, and the response is its value with the challenge (R476). -/
theorem State.dbgChallenge_answers {id : List Byte} (hmem : s.memOk) (hp : s.rqN 0 4 ≤ 3) (hid : s.identity = some id)
    (hdbg : s.jdg.dbg < 2 ^ 24) :
    ∃ t, s.jdgRan .dbgChallenge 6 [] t ∧ s.jdgSays t 1 [] ∧ t.jdg = s.challenged id ∧
      s.jdgReplied t (toBytes 8 (s.jdg.dbg + 1) ++ s.nextChallenge id) := by
  have hran := State.jdgRan_dbgChallenge hup hrun
  rw [State.dbgChallenge_of_identity hp hid hdbg] at hran
  exact ⟨_, hran, State.jdgSays_jdgPost_of_regs s _ _ (by decide), by simp, State.jdgReplied_of_mem hmem _ (by simp)⟩

/-- DBG_TOKEN: the checks after the first in the order of R477, and the grant. -/
theorem State.dbgToken_checks {n p : Nat} {c : List Byte} (hchal : s.jdg.chal = some (n, p, c)) (hcur : s.tokenCurrent n) :
    let e := s.rqN 0 8
    (s.keyFor (s.rqN 8 1) 2 = none → ∃ t, s.jdgRan .dbgToken 7 [] t ∧ s.jdgRefuses t 5) ∧
    (∀ k, s.keyFor (s.rqN 8 1) 2 = some k →
      (e ≤ s.ns → ∃ t, s.jdgRan .dbgToken 7 [] t ∧ s.jdgRefuses t 8) ∧
      (s.ns < e → ed448Verify k (c ++ toBytes 8 e) (s.rq 9 114) = false →
        ∃ t, s.jdgRan .dbgToken 7 [] t ∧ s.jdgRefuses t 4) ∧
      (s.ns < e → ed448Verify k (c ++ toBytes 8 e) (s.rq 9 114) = true → ∃ t, s.jdgRan .dbgToken 7 [] t ∧
        s.jdgSays t 0x0F [R.JDG_DBG.addr 0] ∧ t.jdg = { s.jdg with grant := some (p, e) } ∧
        t.get F.JDG_DBG_granted 0 = p % 4 ∧ t.mem = s.mem)) := by
  have hran := State.jdgRan_dbgToken hup hrun
  have htoken := State.dbgToken_of_current hchal hcur
  refine ⟨fun hkey => State.jdgRan_refused hran (by simp [htoken, hkey]) (by decide), fun k hkey => ?_⟩
  have hanswers : s.tokenAnswers c = ed448Verify k (c ++ toBytes 8 (s.rqN 0 8)) (s.rq 9 114) := by
    rw [State.tokenAnswers, State.pub_of_keyFor hkey]
  refine ⟨fun hpast => ?_, fun hahead hsig => ?_, fun hahead hsig => ?_⟩
  · exact State.jdgRan_refused hran (by simp [htoken, hkey, hpast]) (by decide)
  · exact State.jdgRan_refused hran (by simp [htoken, hkey, Nat.not_le.mpr hahead, hanswers, hsig]) (by decide)
  · have hgranted : s.dbgToken =
        (State.put { s with jdg := { s.jdg with grant := some (p, s.rqN 0 8) } } F.JDG_DBG_granted 0 p).jdgPost 0x0F := by
      simp [htoken, hkey, Nat.not_le.mpr hahead, hanswers, hsig]
    rw [hgranted] at hran
    obtain ⟨hsays, hmem, hjdg, hshown⟩ := State.jdgSays_grant s (some (p, s.rqN 0 8)) p 0x0F (by decide)
    exact ⟨_, hran, hsays, hjdg, hshown, hmem⟩

end

theorem exec_doeAbort_of_on {s : State} (hon : s.pcieOn = true) :
    exec .doeAbort s = .next { s with jdg := { s.jdg with doe := none } } := by
  show execDoeAbort s = _
  simp [execDoeAbort, hon]

/-- The end of an authorization in effect (R478). -/
theorem State.dbgEnd_spec {s : State} {g : Nat × Nat} (hg : s.jdg.grant = some g) :
    s.jdgSays s.dbgEnd 0x10 [R.JDG_DBG.addr 0] ∧ s.dbgEnd.mem = s.mem ∧ s.dbgEnd.jdg = { s.jdg with grant := none } ∧
      s.dbgEnd.get F.JDG_DBG_granted 0 = 0 := by
  rw [State.dbgEnd_of_grant hg]
  exact State.jdgSays_grant s none 0 0x10 (by decide)

/-- An attestation request that the Judge serves: the report, or the error body (R473, R475). -/
theorem exec_doeRequest_served {s : State} {q : DoeObj} (hon : s.pcieOn = true) (hown : s.doeOwn q)
    (hfree : s.judgeFree = true) (hok : s.jdg.ok = true) : exec (.doeRequest q) s = .next (s.doeAnswer q.body) := by
  simp [exec_doeRequest_of_own hon hown, hfree, hok]

/-- Settles O55: the mailbox commands run to their effect on an idle Judge, and of these a token passes or fails by the checks of
R477 in their order; the expiry and the DOE requests act at once. -/
theorem judgeAuthorizes : Obligations.JudgeAuthorizes := by
  unfold Obligations.JudgeAuthorizes
  refine ⟨fun s hup hrun hmem => ⟨?attestRefused, fun pub hid => State.attest_answers hup hrun hmem hid,
      ⟨?purposesRefused, ?challengeRefused, fun id hp hid hdbg => State.dbgChallenge_answers hup hrun hmem hp hid hdbg⟩,
      ?noChallenge, fun n p c hchal => ⟨?stale, ?noKey, ?checks⟩, ?revokeNothing, fun g hg => ?revoke⟩,
    fun s => ⟨exec_debugExpiry_of_no_grant, fun g hg => ⟨?notExpired, ?expired⟩⟩,
    fun s q => ⟨?dropped, ?aborted, ?discovery, ?waits, fun hon hown hfree hok hscan => ⟨?answered, ?error⟩⟩⟩
  case attestRefused =>
    exact fun hid => State.jdgRan_refused (State.jdgRan_attest hup hrun) (State.attest_of_no_identity hid) (by decide)
  case purposesRefused =>
    exact fun hp => State.jdgRan_refused (State.jdgRan_dbgChallenge hup hrun) (State.dbgChallenge_of_purposes hp) (by decide)
  case challengeRefused =>
    exact fun hp hid =>
      State.jdgRan_refused (State.jdgRan_dbgChallenge hup hrun) (State.dbgChallenge_of_no_identity hp hid) (by decide)
  case noChallenge =>
    exact fun hchal =>
      State.jdgRan_refused (State.jdgRan_dbgToken hup hrun) (State.dbgToken_of_no_challenge hchal) (by decide)
  case stale =>
    exact fun hold =>
      State.jdgRan_refused (State.jdgRan_dbgToken hup hrun) (State.dbgToken_of_stale hchal hold) (by decide)
  case noKey => exact fun hcur => (State.dbgToken_checks hup hrun hchal hcur).1
  case checks => exact fun k hcur => (State.dbgToken_checks hup hrun hchal hcur).2 k
  case revokeNothing =>
    exact fun hg => State.jdgRan_refused (State.jdgRan_dbgRevoke hup hrun) (by simp [hg]) (by decide)
  case revoke =>
    have hran := State.jdgRan_dbgRevoke hup hrun
    simp only [hg, Option.isNone_some, Bool.false_eq_true, if_false] at hran
    exact ⟨_, hran, State.dbgEnd_spec hg⟩
  case notExpired =>
    intro hahead
    rw [exec_debugExpiry_of_grant hg, if_neg (Nat.not_le.mpr hahead)]
  case expired =>
    intro hcome
    rw [exec_debugExpiry_of_grant hg, if_pos hcome]
    exact ⟨_, rfl, State.dbgEnd_spec hg⟩
  case dropped =>
    rintro (hoff | ⟨hown, hdisc⟩)
    · exact exec_doeRequest_of_off q hoff
    · exact exec_doeRequest_of_other hown hdisc
  case aborted => exact exec_doeAbort_of_on
  case discovery =>
    intro hon hdisc hscan
    obtain ⟨r, hlen, hr⟩ := State.doeDiscover_spec q.body hscan
    exact ⟨r, hlen, by rw [exec_doeRequest_of_discovery hon hdisc, hr]⟩
  case waits =>
    intro hon hown hbusy
    have hnot : (s.judgeFree && s.jdg.ok) = false := by
      rcases hbusy with hfree | hok
      · rw [hfree, Bool.false_and]
      · rw [hok, Bool.and_false]
    simp [exec_doeRequest_of_own hon hown, hnot]
  case answered =>
    intro r hgood hr
    rw [exec_doeRequest_served hon hown hfree hok, State.doeAnswer_of_report hscan hgood hr]
  case error =>
    intro hnone
    rw [exec_doeRequest_served hon hown hfree hok, State.doeAnswer_error hnone, State.doeError_of_no_scan _ hscan]

end Sys2Proof.Machine
